-- ==== Sys2Proof/Word.lean ====
section
/-! DEFINITION. The word types of the device and the finite maps its state is written in (00_scope.md R4). -/

namespace Sys2Proof

/-- A byte of memory, scratchpad or bank. -/
abbrev Byte := BitVec 8
/-- A lane's 32-bit register word, an instruction word, a mask (R29, R30, R47). -/
abbrev Word := BitVec 32
/-- A 64-bit register pair, record word or mode register (R5, R30, R32). -/
abbrev DWord := BitVec 64
/-- The number of a register v0 to v63 (R51). -/
abbrev Reg := BitVec 6
/-- A permute code (R54). -/
abbrev Perm := BitVec 3
/-- A 57-bit virtual byte address, as pc holds it (R31). -/
abbrev Addr := BitVec 57

/-- A finite map from keys to values, written as a list with keys strictly rising; a key that is not listed holds the
default that the reader of the map names. -/
abbrev Sparse (α : Type) := List (Nat × α)

/-- The lanes of a group (R20). -/
abbrev lanes : List Nat := List.range 32

end Sys2Proof
end

