-- ==== Sys2Proof/Syntax.lean ====
section
/-! DEFINITION. The instructions and moves of the device: one constructor per row of the opcode table.
Rows with an encoding carry the fields of their word (03 R50-R51, R65); rows without one are moves of other agents
(engines, home slices, schedulers, management, links, the host) and carry what the move is about.
A field is named as the table names it: `d`, `a`, `b`, `c` registers, `p`, `q` permute codes, `l` the lookahead count,
`o` the word offset, `i` the immediate, `s` a scope or selector, `w` a width, `h` a hint, `x` a variant. -/

namespace Sys2Proof

inductive Instr where
  /-- ILL: Any word whose primary opcode is 0x00 raises ILLEGAL precisely, with no effect (R65) -/
  | ill (x : BitVec 24)
  /-- NOP: Changes nothing (R305) -/
  | nop
  /-- BR: Unconditional pc-relative branch (R306) -/
  | br (o : BitVec 18)
  /-- BZ: Branches when the control-lane value is zero (R306) -/
  | bz (c : BitVec 6) (o : BitVec 18)
  /-- BNZ: Branches when the control-lane value is non-zero (R306) -/
  | bnz (c : BitVec 6) (o : BitVec 18)
  /-- BMZ: Branches when the control-lane mask AND the effective mask is zero (R306) -/
  | bmz (c : BitVec 6) (o : BitVec 18)
  /-- BMNZ: Branches when the control-lane mask AND the effective mask is non-zero (R306) -/
  | bmnz (c : BitVec 6) (o : BitVec 18)
  /-- CALL: Writes the return address to a pair and branches (R307) -/
  | call (c : BitVec 6) (o : BitVec 18)
  /-- RET: Sets pc from a register pair, with a return-prediction hint (R307) -/
  | ret (c : BitVec 6)
  /-- JMPR: Sets pc from a register pair plus a word offset (R307) -/
  | jmpr (c : BitVec 6) (o : BitVec 18)
  /-- EXIT: Ends the split, and ends the group or completes a join when the others have finished (R311) -/
  | exit
  /-- SPLIT: Forks the group into up to four splits by 2-bit lane codes and an arm table (R309) -/
  | split (c : BitVec 6) (o : BitVec 18)
  /-- JOIN: The split enters JOINWAIT; the group becomes unsplit when no split is live (R310) -/
  | join (o : BitVec 18)
  /-- YIELD: Makes the split not ready for n clk and resets its run (R312) -/
  | yield (n : BitVec 10)
  /-- YIELD_EXPIRY: The split becomes ready again when its yield count of n clk has run out (R312) -/
  | yieldExpiry (core slot spl : Nat)
  /-- YIELDC: Parks the split until the named future completes, then continues at the label (R313) -/
  | yieldc (c : BitVec 6) (o : BitVec 18)
  /-- LIMM: Writes a sign-extended 18-bit immediate to active lanes and the control lane (R305) -/
  | limm (d : BitVec 6) (i : BitVec 18)
  /-- LHI: Writes the immediate into bits 31:14, keeping bits 13:0 (R305) -/
  | lhi (d : BitVec 6) (i : BitVec 18)
  /-- MODE: Masked exchange of the mode register gm (R61) -/
  | mode (d : BitVec 6) (a : BitVec 6) (p : BitVec 3) (b : BitVec 6) (q : BitVec 3)
  /-- MODEI: Sets one group of gm fields, chosen by a selector, from an immediate (R62) -/
  | modei (s : BitVec 6) (i : BitVec 18)
  /-- EM_SET: Sets em to the operand AND dm, returning the old em (R308) -/
  | emSet (d : BitVec 6) (a : BitVec 6) (p : BitVec 3)
  /-- EM_GET: Reads em into the control lane (R308) -/
  | emGet (d : BitVec 6)
  /-- EM_AND: ANDs em with the operand (R308) -/
  | emAnd (d : BitVec 6) (a : BitVec 6) (p : BitVec 3)
  /-- EM_ANDN: ANDs em with the complement of the operand (R308) -/
  | emAndn (d : BitVec 6) (a : BitVec 6) (p : BitVec 3)
  /-- IDX: Writes the selected index of R39 to lanes (R305) -/
  | idx (d : BitVec 6) (i : BitVec 18)
  /-- ADD: Integer add with wrap or saturation (R101) -/
  | add (d : BitVec 6) (a : BitVec 6) (p : BitVec 3) (b : BitVec 6) (q : BitVec 3)
  /-- SUB: Integer subtract (R101) -/
  | sub (d : BitVec 6) (a : BitVec 6) (p : BitVec 3) (b : BitVec 6) (q : BitVec 3)
  /-- ADDC: Add with carry into a pair (R101) -/
  | addc (d : BitVec 6) (a : BitVec 6) (p : BitVec 3) (b : BitVec 6) (q : BitVec 3)
  /-- SUBB: Subtract with borrow into a pair (R101) -/
  | subb (d : BitVec 6) (a : BitVec 6) (p : BitVec 3) (b : BitVec 6) (q : BitVec 3)
  /-- MUL: Integer multiply, low 32 bits (R102) -/
  | mul (d : BitVec 6) (a : BitVec 6) (p : BitVec 3) (b : BitVec 6) (q : BitVec 3)
  /-- MULH: High half of the product (R102) -/
  | mulh (d : BitVec 6) (a : BitVec 6) (p : BitVec 3) (b : BitVec 6) (q : BitVec 3)
  /-- MULHN: High half of the product, rounded to nearest (R102) -/
  | mulhn (d : BitVec 6) (a : BitVec 6) (p : BitVec 3) (b : BitVec 6) (q : BitVec 3)
  /-- MAD: Integer multiply-add into the destination (R102) -/
  | mad (d : BitVec 6) (a : BitVec 6) (p : BitVec 3) (b : BitVec 6) (q : BitVec 3)
  /-- MIN: Integer minimum (R103) -/
  | min (d : BitVec 6) (a : BitVec 6) (p : BitVec 3) (b : BitVec 6) (q : BitVec 3)
  /-- MAX: Integer maximum (R103) -/
  | max (d : BitVec 6) (a : BitVec 6) (p : BitVec 3) (b : BitVec 6) (q : BitVec 3)
  /-- ABS: Integer absolute value (R103) -/
  | abs (d : BitVec 6) (a : BitVec 6) (p : BitVec 3)
  /-- NEG: Integer negation (R103) -/
  | neg (d : BitVec 6) (a : BitVec 6) (p : BitVec 3)
  /-- AND: Bitwise AND (R104) -/
  | and (d : BitVec 6) (a : BitVec 6) (p : BitVec 3) (b : BitVec 6) (q : BitVec 3)
  /-- OR: Bitwise OR (R104) -/
  | or (d : BitVec 6) (a : BitVec 6) (p : BitVec 3) (b : BitVec 6) (q : BitVec 3)
  /-- XOR: Bitwise exclusive OR (R104) -/
  | xor (d : BitVec 6) (a : BitVec 6) (p : BitVec 3) (b : BitVec 6) (q : BitVec 3)
  /-- ANDN: Bitwise AND with complement (R104) -/
  | andn (d : BitVec 6) (a : BitVec 6) (p : BitVec 3) (b : BitVec 6) (q : BitVec 3)
  /-- NOT: Bitwise complement (R104) -/
  | not (d : BitVec 6) (a : BitVec 6) (p : BitVec 3)
  /-- SHL: Shift left (R105) -/
  | shl (d : BitVec 6) (a : BitVec 6) (p : BitVec 3) (b : BitVec 6) (q : BitVec 3)
  /-- SHR: Logical shift right (R105) -/
  | shr (d : BitVec 6) (a : BitVec 6) (p : BitVec 3) (b : BitVec 6) (q : BitVec 3)
  /-- SAR: Arithmetic shift right (R105) -/
  | sar (d : BitVec 6) (a : BitVec 6) (p : BitVec 3) (b : BitVec 6) (q : BitVec 3)
  /-- ROT: Rotate left (R105) -/
  | rot (d : BitVec 6) (a : BitVec 6) (p : BitVec 3) (b : BitVec 6) (q : BitVec 3)
  /-- DSH: Double shift right by K from gm (R105) -/
  | dsh (d : BitVec 6) (a : BitVec 6) (p : BitVec 3) (b : BitVec 6) (q : BitVec 3)
  /-- LZC: Leading-zero count (R106) -/
  | lzc (d : BitVec 6) (a : BitVec 6) (p : BitVec 3)
  /-- TZC: Trailing-zero count (R106) -/
  | tzc (d : BitVec 6) (a : BitVec 6) (p : BitVec 3)
  /-- ONES: Population count (R106) -/
  | ones (d : BitVec 6) (a : BitVec 6) (p : BitVec 3)
  /-- RVB: Bit reversal (R106) -/
  | rvb (d : BitVec 6) (a : BitVec 6) (p : BitVec 3)
  /-- BXT: Bit-field extract (R107) -/
  | bxt (d : BitVec 6) (a : BitVec 6) (p : BitVec 3) (b : BitVec 6) (q : BitVec 3)
  /-- BDP: Bit-field deposit (R107) -/
  | bdp (d : BitVec 6) (a : BitVec 6) (p : BitVec 3) (b : BitVec 6) (q : BitVec 3)
  /-- SEL: Per-lane selection by a mask held in the destination (R108) -/
  | sel (d : BitVec 6) (a : BitVec 6) (p : BitVec 3) (b : BitVec 6) (q : BitVec 3)
  /-- CMPEQ: Integer equality compare to a scalar mask (R109) -/
  | cmpeq (d : BitVec 6) (a : BitVec 6) (p : BitVec 3) (b : BitVec 6) (q : BitVec 3)
  /-- CMPNE: Integer inequality compare to a scalar mask (R109) -/
  | cmpne (d : BitVec 6) (a : BitVec 6) (p : BitVec 3) (b : BitVec 6) (q : BitVec 3)
  /-- CMPLT: Integer less-than compare to a scalar mask (R109) -/
  | cmplt (d : BitVec 6) (a : BitVec 6) (p : BitVec 3) (b : BitVec 6) (q : BitVec 3)
  /-- CMPLE: Integer less-or-equal compare to a scalar mask (R109) -/
  | cmple (d : BitVec 6) (a : BitVec 6) (p : BitVec 3) (b : BitVec 6) (q : BitVec 3)
  /-- MOV: Register move, or lane shuffle through a permute code (R108) -/
  | mov (d : BitVec 6) (a : BitVec 6) (p : BitVec 3)
  /-- ADD64: 64-bit add of pairs (R110) -/
  | add64 (d : BitVec 6) (a : BitVec 6) (p : BitVec 3) (b : BitVec 6) (q : BitVec 3)
  /-- LEA: Address formation: pair plus scaled index (R110) -/
  | lea (d : BitVec 6) (a : BitVec 6) (p : BitVec 3) (b : BitVec 6) (q : BitVec 3)
  /-- SXT: Sign extension from a given width (R110) -/
  | sxt (d : BitVec 6) (a : BitVec 6) (p : BitVec 3) (b : BitVec 6) (q : BitVec 3)
  /-- ZXT: Zero extension from a given width (R110) -/
  | zxt (d : BitVec 6) (a : BitVec 6) (p : BitVec 3) (b : BitVec 6) (q : BitVec 3)
  /-- FADD: Floating add, rounded once (R112) -/
  | fadd (d : BitVec 6) (a : BitVec 6) (p : BitVec 3) (b : BitVec 6) (q : BitVec 3)
  /-- FSUB: Floating subtract (R112) -/
  | fsub (d : BitVec 6) (a : BitVec 6) (p : BitVec 3) (b : BitVec 6) (q : BitVec 3)
  /-- FMUL: Floating multiply (R112) -/
  | fmul (d : BitVec 6) (a : BitVec 6) (p : BitVec 3) (b : BitVec 6) (q : BitVec 3)
  /-- FFMA: Fused multiply-add into the destination (R112) -/
  | ffma (d : BitVec 6) (a : BitVec 6) (p : BitVec 3) (b : BitVec 6) (q : BitVec 3)
  /-- FFMS: Fused multiply-subtract from the destination (R112) -/
  | ffms (d : BitVec 6) (a : BitVec 6) (p : BitVec 3) (b : BitVec 6) (q : BitVec 3)
  /-- FMIN: Floating minimum (R113) -/
  | fmin (d : BitVec 6) (a : BitVec 6) (p : BitVec 3) (b : BitVec 6) (q : BitVec 3)
  /-- FMAX: Floating maximum (R113) -/
  | fmax (d : BitVec 6) (a : BitVec 6) (p : BitVec 3) (b : BitVec 6) (q : BitVec 3)
  /-- FABS: Clears the sign bit (R113) -/
  | fabs (d : BitVec 6) (a : BitVec 6) (p : BitVec 3)
  /-- FNEG: Inverts the sign bit (R113) -/
  | fneg (d : BitVec 6) (a : BitVec 6) (p : BitVec 3)
  /-- FCMPEQ: Floating equality compare (R114) -/
  | fcmpeq (d : BitVec 6) (a : BitVec 6) (p : BitVec 3) (b : BitVec 6) (q : BitVec 3)
  /-- FCMPLT: Floating less-than compare (R114) -/
  | fcmplt (d : BitVec 6) (a : BitVec 6) (p : BitVec 3) (b : BitVec 6) (q : BitVec 3)
  /-- FCMPLE: Floating less-or-equal compare (R114) -/
  | fcmple (d : BitVec 6) (a : BitVec 6) (p : BitVec 3) (b : BitVec 6) (q : BitVec 3)
  /-- FCMPUN: Unordered compare (R114) -/
  | fcmpun (d : BitVec 6) (a : BitVec 6) (p : BitVec 3) (b : BitVec 6) (q : BitVec 3)
  /-- FCLS: Writes the class bit of the operand (R114) -/
  | fcls (d : BitVec 6) (a : BitVec 6) (p : BitVec 3)
  /-- FCVT: Float-to-float conversion (R115) -/
  | fcvt (d : BitVec 6) (a : BitVec 6) (p : BitVec 3)
  /-- FCVTI: Float-to-integer conversion (R115) -/
  | fcvti (d : BitVec 6) (a : BitVec 6) (p : BitVec 3)
  /-- FCVTF: Integer-to-float conversion (R115) -/
  | fcvtf (d : BitVec 6) (a : BitVec 6) (p : BitVec 3)
  /-- FRND: Rounds to an integer value in the same format (R116) -/
  | frnd (d : BitVec 6) (a : BitVec 6) (p : BitVec 3)
  /-- FSCL: Scales by a power of two (R116) -/
  | fscl (d : BitVec 6) (a : BitVec 6) (p : BitVec 3) (b : BitVec 6) (q : BitVec 3)
  /-- FRCP: Correctly rounded reciprocal (R117) -/
  | frcp (d : BitVec 6) (a : BitVec 6) (p : BitVec 3)
  /-- FRSQ: Correctly rounded reciprocal square root (R117) -/
  | frsq (d : BitVec 6) (a : BitVec 6) (p : BitVec 3)
  /-- FSQRT: Correctly rounded square root (R117) -/
  | fsqrt (d : BitVec 6) (a : BitVec 6) (p : BitVec 3)
  /-- FEX2: Correctly rounded 2 to the x (R117) -/
  | fex2 (d : BitVec 6) (a : BitVec 6) (p : BitVec 3)
  /-- FLG2: Correctly rounded base-2 logarithm (R117) -/
  | flg2 (d : BitVec 6) (a : BitVec 6) (p : BitVec 3)
  /-- FSIN: Correctly rounded sin(pi x) (R117) -/
  | fsin (d : BitVec 6) (a : BitVec 6) (p : BitVec 3)
  /-- FCOS: Correctly rounded cos(pi x) (R117) -/
  | fcos (d : BitVec 6) (a : BitVec 6) (p : BitVec 3)
  /-- ZMUL: Complex multiply (R119) -/
  | zmul (d : BitVec 6) (a : BitVec 6) (p : BitVec 3) (b : BitVec 6) (q : BitVec 3)
  /-- ZFMA: Complex multiply-add (R119) -/
  | zfma (d : BitVec 6) (a : BitVec 6) (p : BitVec 3) (b : BitVec 6) (q : BitVec 3)
  /-- ZCNJ: Complex conjugate (R119) -/
  | zcnj (d : BitVec 6) (a : BitVec 6) (p : BitVec 3)
  /-- SRND: Integer requantisation by a power of two (R120) -/
  | srnd (d : BitVec 6) (a : BitVec 6) (p : BitVec 3) (b : BitVec 6) (q : BitVec 3)
  /-- MXSCL: Computes a block scale byte from active lanes (R121) -/
  | mxscl (d : BitVec 6) (a : BitVec 6) (p : BitVec 3) (b : BitVec 6) (q : BitVec 3)
  /-- MXPAK: Quantises and packs lanes into block-format elements (R122) -/
  | mxpak (d : BitVec 6) (a : BitVec 6) (p : BitVec 3) (b : BitVec 6) (q : BitVec 3)
  /-- MXUNP: Unpacks block-format elements into lanes (R122) -/
  | mxunp (d : BitVec 6) (a : BitVec 6) (p : BitVec 3) (b : BitVec 6) (q : BitVec 3)
  /-- LPERM: Cross-lane gather by index (R123) -/
  | lperm (d : BitVec 6) (a : BitVec 6) (p : BitVec 3) (b : BitVec 6) (q : BitVec 3)
  /-- LQ_ANY: Any-lane vote (R124) -/
  | lqAny (d : BitVec 6) (a : BitVec 6) (p : BitVec 3)
  /-- LQ_ALL: All-lane vote (R124) -/
  | lqAll (d : BitVec 6) (a : BitVec 6) (p : BitVec 3)
  /-- LQ_SET: Mask of lanes whose predicate holds (R124) -/
  | lqSet (d : BitVec 6) (a : BitVec 6) (p : BitVec 3)
  /-- GRED_ADD: Group sum reduction, rounded once (R125) -/
  | gredAdd (d : BitVec 6) (a : BitVec 6) (p : BitVec 3)
  /-- GRED_MIN: Group minimum reduction (R125) -/
  | gredMin (d : BitVec 6) (a : BitVec 6) (p : BitVec 3)
  /-- GRED_MAX: Group maximum reduction (R125) -/
  | gredMax (d : BitVec 6) (a : BitVec 6) (p : BitVec 3)
  /-- GRED_AND: Group bitwise AND reduction (R125) -/
  | gredAnd (d : BitVec 6) (a : BitVec 6) (p : BitVec 3)
  /-- GRED_OR: Group bitwise OR reduction (R125) -/
  | gredOr (d : BitVec 6) (a : BitVec 6) (p : BitVec 3)
  /-- GRED_XOR: Group bitwise XOR reduction (R125) -/
  | gredXor (d : BitVec 6) (a : BitVec 6) (p : BitVec 3)
  /-- GSCAN_ADD: Inclusive prefix sum over active lanes (R126) -/
  | gscanAdd (d : BitVec 6) (a : BitVec 6) (p : BitVec 3)
  /-- GSCAN_MAX: Inclusive prefix maximum over active lanes (R126) -/
  | gscanMax (d : BitVec 6) (a : BitVec 6) (p : BitVec 3)
  /-- ISECT: Intersects two lane lists (R128) -/
  | isect (d : BitVec 6) (a : BitVec 6) (p : BitVec 3) (l : BitVec 4)
  /-- TOPK: Selects the k largest active operands (R129) -/
  | topk (d : BitVec 6) (a : BitVec 6) (p : BitVec 3) (l : BitVec 4) (x : BitVec 5)
  /-- DGRP: Stable grouping of rows by leaf from path traces (R130) -/
  | dgrp (d : BitVec 6) (a : BitVec 6) (p : BitVec 3) (l : BitVec 4) (x : BitVec 5)
  /-- PRUNE: Draws 2:4 sparsity patterns by magnitude (R132) -/
  | prune (d : BitVec 6) (a : BitVec 6) (p : BitVec 3) (l : BitVec 4)
  /-- LD: Per-lane load (R230) -/
  | ld (d : BitVec 6) (a : BitVec 6) (p : BitVec 3) (l : BitVec 4) (h : BitVec 2) (w : BitVec 3)
  /-- ST: Per-lane store (R231) -/
  | st (d : BitVec 6) (a : BitVec 6) (p : BitVec 3) (l : BitVec 4) (h : BitVec 2) (w : BitVec 3)
  /-- LDC: Loads once at the control-lane address and broadcasts to active lanes (R232) -/
  | ldc (d : BitVec 6) (a : BitVec 6) (p : BitVec 3) (l : BitVec 4) (h : BitVec 2) (w : BitVec 3)
  /-- STM: Byte-enabled store (R233) -/
  | stm (d : BitVec 6) (a : BitVec 6) (p : BitVec 3) (l : BitVec 4) (e : BitVec 4)
  /-- LDS: Scratchpad load (R234) -/
  | lds (d : BitVec 6) (a : BitVec 6) (p : BitVec 3) (l : BitVec 4) (w : BitVec 3)
  /-- STS: Scratchpad store, BANKMODE on a computing bank (R234) -/
  | sts (d : BitVec 6) (a : BitVec 6) (p : BitVec 3) (l : BitVec 4) (w : BitVec 3)
  /-- LDSP: Asynchronous memory-to-scratchpad fill counted by a barrier object (R235) -/
  | ldsp (d : BitVec 6) (a : BitVec 6) (p : BitVec 3) (l : BitVec 4) (o : BitVec 4) (w : BitVec 1)
  /-- LDSP_FILL_LANDING: The scratchpad writes of a fill land and the object's FL counts it in order (R235) -/
  | ldspFillLanding (core bslot k : Nat)
  /-- PREF: Prefetch into L1 or L2 (R236) -/
  | pref (a : BitVec 6) (p : BitVec 3) (l : BitVec 4) (x : BitVec 1)
  /-- LDACQ: Load-acquire sourced at the home (R237) -/
  | ldacq (d : BitVec 6) (a : BitVec 6) (p : BitVec 3) (l : BitVec 4) (s : BitVec 3) (w : BitVec 2)
  /-- STREL: Store-release (R237) -/
  | strel (d : BitVec 6) (a : BitVec 6) (p : BitVec 3) (l : BitVec 4) (s : BitVec 3) (w : BitVec 2)
  /-- LR: Load-reserved: acquire and set the lane's reservation (R238) -/
  | lr (d : BitVec 6) (a : BitVec 6) (p : BitVec 3) (l : BitVec 4) (s : BitVec 3) (w : BitVec 2)
  /-- SC: Store-conditional on a live reservation (R239) -/
  | sc (d : BitVec 6) (a : BitVec 6) (p : BitVec 3) (l : BitVec 4) (s : BitVec 3) (w : BitVec 2)
  /-- ATOM_ADD: Atomic add at the home (R240) -/
  | atomAdd (d : BitVec 6) (a : BitVec 6) (p : BitVec 3) (l : BitVec 4) (s : BitVec 3) (w : BitVec 2)
  /-- ATOM_SUB: Atomic subtract (R240) -/
  | atomSub (d : BitVec 6) (a : BitVec 6) (p : BitVec 3) (l : BitVec 4) (s : BitVec 3) (w : BitVec 2)
  /-- ATOM_MIN: Atomic minimum (R240) -/
  | atomMin (d : BitVec 6) (a : BitVec 6) (p : BitVec 3) (l : BitVec 4) (s : BitVec 3) (w : BitVec 2)
  /-- ATOM_MAX: Atomic maximum (R240) -/
  | atomMax (d : BitVec 6) (a : BitVec 6) (p : BitVec 3) (l : BitVec 4) (s : BitVec 3) (w : BitVec 2)
  /-- ATOM_AND: Atomic AND (R240) -/
  | atomAnd (d : BitVec 6) (a : BitVec 6) (p : BitVec 3) (l : BitVec 4) (s : BitVec 3) (w : BitVec 2)
  /-- ATOM_OR: Atomic OR (R240) -/
  | atomOr (d : BitVec 6) (a : BitVec 6) (p : BitVec 3) (l : BitVec 4) (s : BitVec 3) (w : BitVec 2)
  /-- ATOM_XOR: Atomic XOR (R240) -/
  | atomXor (d : BitVec 6) (a : BitVec 6) (p : BitVec 3) (l : BitVec 4) (s : BitVec 3) (w : BitVec 2)
  /-- ATOM_XCHG: Atomic exchange (R240) -/
  | atomXchg (d : BitVec 6) (a : BitVec 6) (p : BitVec 3) (l : BitVec 4) (s : BitVec 3) (w : BitVec 2)
  /-- ATOM_CAS: Atomic compare-and-swap (R240) -/
  | atomCas (d : BitVec 6) (a : BitVec 6) (p : BitVec 3) (l : BitVec 4) (s : BitVec 3) (w : BitVec 2)
  /-- ATOM_WINC: Atomic wrapping increment modulo v (R240) -/
  | atomWinc (d : BitVec 6) (a : BitVec 6) (p : BitVec 3) (l : BitVec 4) (s : BitVec 3) (w : BitVec 2)
  /-- ATOM_FADD: Atomic floating add (R240) -/
  | atomFadd (d : BitVec 6) (a : BitVec 6) (p : BitVec 3) (l : BitVec 4) (s : BitVec 3) (w : BitVec 2)
  /-- RED_ADD: Reduction add sent to the home's reduction unit (R241) -/
  | redAdd (d : BitVec 6) (a : BitVec 6) (p : BitVec 3) (l : BitVec 4) (w : BitVec 2)
  /-- RED_MIN: Reduction minimum (R241) -/
  | redMin (d : BitVec 6) (a : BitVec 6) (p : BitVec 3) (l : BitVec 4) (w : BitVec 2)
  /-- RED_MAX: Reduction maximum (R241) -/
  | redMax (d : BitVec 6) (a : BitVec 6) (p : BitVec 3) (l : BitVec 4) (w : BitVec 2)
  /-- RED_AND: Reduction AND (R241) -/
  | redAnd (d : BitVec 6) (a : BitVec 6) (p : BitVec 3) (l : BitVec 4) (w : BitVec 2)
  /-- RED_OR: Reduction OR (R241) -/
  | redOr (d : BitVec 6) (a : BitVec 6) (p : BitVec 3) (l : BitVec 4) (w : BitVec 2)
  /-- RED_XOR: Reduction XOR (R241) -/
  | redXor (d : BitVec 6) (a : BitVec 6) (p : BitVec 3) (l : BitVec 4) (w : BitVec 2)
  /-- RED_FADD: Reduction floating add (R241) -/
  | redFadd (d : BitVec 6) (a : BitVec 6) (p : BitVec 3) (l : BitVec 4) (w : BitVec 2)
  /-- RED_APPLY: The near-memory reduction unit applies a combined contribution as one update (R189) -/
  | redApply (k : Nat)
  /-- PUSHM: Pushes a register range onto the spill stack (R242) -/
  | pushm (d : BitVec 6) (a : BitVec 6) (l : BitVec 4)
  /-- POPM: Pops a register range from the spill stack (R242) -/
  | popm (d : BitVec 6) (a : BitVec 6) (l : BitVec 4)
  /-- FENCE: Release and acquire at a scope, which may be run past speculatively (R243) -/
  | fence (l : BitVec 4) (s : BitVec 3)
  /-- FENCE_COMPLETE: A fence completes and the split's buffered speculative stores issue in order (R209) -/
  | fenceComplete (core slot spl : Nat)
  /-- BIND: Binds a region to an object word (R244) -/
  | bind (d : BitVec 6) (a : BitVec 6) (p : BitVec 3) (l : BitVec 4)
  /-- UNBIND: Removes a region's binding (R244) -/
  | unbind (d : BitVec 6) (a : BitVec 6) (p : BitVec 3) (l : BitVec 4)
  /-- ACQ: Acquire on an object and its bound regions (R245) -/
  | acq (d : BitVec 6) (a : BitVec 6) (p : BitVec 3) (l : BitVec 4) (s : BitVec 3)
  /-- REL: Release by atomic increment of an object word (R245) -/
  | rel (a : BitVec 6) (p : BitVec 3) (l : BitVec 4) (s : BitVec 3)
  /-- CLN: Writes back dirty L2 lines of a range (R246) -/
  | cln (d : BitVec 6) (a : BitVec 6) (p : BitVec 3) (l : BitVec 4)
  /-- INV: Discards L1 data or instruction copies of a range (R247) -/
  | inv (d : BitVec 6) (a : BitVec 6) (p : BitVec 3) (l : BitVec 4) (x : BitVec 2)
  /-- BANK_CM: Checks SECDED and switches a reservation's banks to compute mode (R170) -/
  | bankCm (a : BitVec 6) (p : BitVec 3) (l : BitVec 4)
  /-- BANK_SM: Switches a reservation's banks to storage or draining mode (R170) -/
  | bankSm (a : BitVec 6) (p : BitVec 3) (l : BitVec 4)
  /-- RESV: Creates a reservation from a proposed record (R166) -/
  | resv (d : BitVec 6) (a : BitVec 6) (p : BitVec 3) (l : BitVec 4)
  /-- RESV_RD: Reads a live reservation record (R167) -/
  | resvRd (d : BitVec 6) (a : BitVec 6) (p : BitVec 3) (l : BitVec 4)
  /-- RESV_FREE: Drains and frees a reservation (R168) -/
  | resvFree (d : BitVec 6) (a : BitVec 6) (p : BitVec 3) (l : BitVec 4)
  /-- MMA: Dense matrix multiply-accumulate through a reservation (R176) -/
  | mma (n : BitVec 6) (m : BitVec 2) (k : BitVec 3) (l : BitVec 4)
  /-- MMAS: 2:4 sparse matrix multiply-accumulate (R179) -/
  | mmas (n : BitVec 6) (m : BitVec 2) (k : BitVec 3) (x : BitVec 6) (s : BitVec 3) (l : BitVec 4)
  /-- MATRIX_SLOT_TAKEN: A matrix instruction waiting for its row slot takes it, is rechecked and starts (R155) -/
  | matrixSlotTaken (core bslot k : Nat)
  /-- MATRIX_COMPLETION: An mma, mmas or desc completes, writing RP and ORing its and PFL's flags into fl (R149) -/
  | matrixCompletion (core bslot k : Nat)
  /-- ACC_RD: Reads accumulator entries with conversion (R172) -/
  | accRd (d : BitVec 6) (a : BitVec 6) (p : BitVec 3) (l : BitVec 4) (x : BitVec 1)
  /-- ACC_WR: Writes accumulator entries (R173) -/
  | accWr (d : BitVec 6) (a : BitVec 6) (p : BitVec 3) (l : BitVec 4) (x : BitVec 1)
  /-- ACC_CLR: Zeroes a reservation's accumulators or one row (R173) -/
  | accClr (a : BitVec 6) (p : BitVec 3) (l : BitVec 4) (x : BitVec 1)
  /-- DESC: Tree descent over a reservation, writing traces and side entries (R180) -/
  | desc (n : BitVec 6) (m : BitVec 2) (k : BitVec 3) (x : BitVec 6) (l : BitVec 4)
  /-- COPY: Enqueues a linear copy command and returns a future (R255) -/
  | copy (d : BitVec 6) (a : BitVec 6) (p : BitVec 3) (l : BitVec 4)
  /-- COPYX: Enqueues a strided copy command (R255) -/
  | copyx (d : BitVec 6) (a : BitVec 6) (p : BitVec 3) (l : BitVec 4)
  /-- GATH: Enqueues an indexed gather command (R255) -/
  | gath (d : BitVec 6) (a : BitVec 6) (p : BitVec 3) (l : BitVec 4)
  /-- COLL: Enqueues a collective contribution (R255) -/
  | coll (d : BitVec 6) (a : BitVec 6) (p : BitVec 3) (l : BitVec 4)
  /-- QFENCE: Enqueues a join of queues (R255) -/
  | qfence (d : BitVec 6) (a : BitVec 6) (p : BitVec 3) (l : BitVec 4)
  /-- LINEAR_COPY: A copy engine performs a linear copy with its transform and checksum, then its completion writes (R261) -/
  | linearCopy (die qn : Nat)
  /-- STRIDED_COPY: A copy engine performs a strided row copy, including the bank-layout transform (R262) -/
  | stridedCopy (die qn : Nat)
  /-- INDEXED_GATHER: A copy engine performs an indexed gather (R263) -/
  | indexedGather (die qn : Nat)
  /-- COLLECTIVE_INSTANCE: A collective run begins once all ranks have arrived and writes every rank's result (R264) -/
  | collectiveInstance (qn ident : Nat)
  /-- JOIN_OF_QUEUES: A qfence's join is satisfied, it completes and later commands of its queue may begin (R213) -/
  | joinOfQueues (die qn : Nat)
  /-- CQ_SEQ: Reads a queue's DONE or ISSUED sequence number (R275) -/
  | cqSeq (d : BitVec 6) (a : BitVec 6) (p : BitVec 3) (l : BitVec 4) (x : BitVec 1)
  /-- FUT_WAIT: Waits for a command and writes its status word (R276) -/
  | futWait (d : BitVec 6) (a : BitVec 6) (p : BitVec 3) (l : BitVec 4)
  /-- FUT_TEST: Reports a command pending or its status (R277) -/
  | futTest (d : BitVec 6) (a : BitVec 6) (p : BitVec 3) (l : BitVec 4)
  /-- FUT_CNCL: Asks the engine to cancel a command not yet begun (R278) -/
  | futCncl (d : BitVec 6) (a : BitVec 6) (p : BitVec 3) (l : BitVec 4)
  /-- FUT_MOV: Copies a handle as a plain value (R279) -/
  | futMov (d : BitVec 6) (a : BitVec 6) (p : BitVec 3) (l : BitVec 4)
  /-- TASK: Submits a task record to the Tun (R317) -/
  | task (d : BitVec 6) (a : BitVec 6) (p : BitVec 3) (l : BitVec 4)
  /-- BAR: Arrives at and waits on a block barrier (R314) -/
  | bar (b : BitVec 4)
  /-- BAR_ARR: Arrives at a block barrier (R314) -/
  | barArr (b : BitVec 4)
  /-- BAR_WT: Waits for the phases the group arrived in (R314) -/
  | barWt (b : BitVec 4)
  /-- SPANBAR: Barrier across the blocks of a span (R314) -/
  | spanbar
  /-- BO_INIT: Sets a barrier object's mark count once no fill is pending (R316) -/
  | boInit (d : BitVec 6) (a : BitVec 6) (p : BitVec 3) (l : BitVec 4) (o : BitVec 4)
  /-- BO_ARR: Makes a mark on a barrier object (R316) -/
  | boArr (d : BitVec 6) (l : BitVec 4) (o : BitVec 4)
  /-- BO_WT: Waits for a mark count and then for the sampled fills to land (R316) -/
  | boWt (d : BitVec 6) (a : BitVec 6) (p : BitVec 3) (l : BitVec 4) (o : BitVec 4)
  /-- TRY: Opens a whole-region try (R320) -/
  | tryOpen (c : BitVec 6) (o : BitVec 18)
  /-- TRYL: Opens a per-lane try region (R320) -/
  | trylOpen (c : BitVec 6) (o : BitVec 18)
  /-- COMMIT: Commits the open region at one instant T (R322) -/
  | commit (d : BitVec 6)
  /-- ABORT: Aborts the open region with EXPLICIT (R324) -/
  | abort (e : BitVec 8)
  /-- TABL: Fails lanes of a tryl region, or aborts a try region with LANE (R324) -/
  | tabl (a : BitVec 6) (p : BitVec 3)
  /-- TSTAT: Reads ts (R324) -/
  | tstat (d : BitVec 6)
  /-- TRY_ABORT: At the next instruction boundary after a cause, the region is rolled back to its checkpoint (R321) -/
  | tryAbort (core slot : Nat)
  /-- PRIORITY_HOLD_EXPIRY: A write held for a priority region for 20 us is performed and aborts the region (R325) -/
  | priorityHoldExpiry (core slot : Nat)
  /-- TFENCE: Waits, then raises ARITH if an enabled sticky flag is set (R98) -/
  | tfence
  /-- TRAP: Raises SWTRAP (R383) -/
  | trap (n : BitVec 8)
  /-- BRK: Raises BRK (R383) -/
  | brk (n : BitVec 8)
  /-- PHINT: Checks a liveness record and takes a pending pre-emption save (R383) -/
  | phint (o : BitVec 18)
  /-- SYS_RD: Reads state through a selector (R356) -/
  | sysRd (d : BitVec 6) (s : BitVec 12)
  /-- SYS_WR: Writes state through a selector (R356) -/
  | sysWr (d : BitVec 6) (s : BitVec 12)
  /-- CLK: Reads the core clock or module time base (R357) -/
  | clk (d : BitVec 6) (f : BitVec 1)
  /-- GRN: Reads the context meter or VF quota (R357) -/
  | grn (d : BitVec 6) (f : BitVec 1)
  /-- RTE: Returns from the trap routine, re-executing listed instructions (R383) -/
  | rte
  /-- TLBINV: Releases and invalidates translations on every holder of the die (R358) -/
  | tlbinv (d : BitVec 6) (a : BitVec 6) (p : BitVec 3) (l : BitVec 4) (x : BitVec 1)
  /-- TLBINV_ACK: A holder acknowledges once its requests under invalidated entries have drained (R193) -/
  | tlbinvAck (die holder asid lo pages : Nat)
  /-- GEN_BUMP: Advances an address space's generation at every controller (R358) -/
  | genBump (d : BitVec 6) (a : BitVec 6) (p : BitVec 3) (l : BitVec 4)
  /-- GEN_BUMP_COMPLETE: The bump completes once every old-generation request is performed or rejected (R194) -/
  | genBumpComplete (asid : Nat)
  /-- HOME_ACCESS: A request is performed or sourced at its home slice at one instant (R199) -/
  | homeAccess (k : Nat)
  /-- REQUEST_REPLAY: A rejected request is translated again and reissued, or raises PAGE or PROT (R192) -/
  | requestReplay (k : Nat)
  /-- RESERVATION_PROTECTION_EXPIRY: The 20 us protection of the oldest reservation ends and held writes are performed (R333) -/
  | reservationProtectionExpiry (granule : Nat)
  /-- TRAP_DELIVERY: After outstanding work ends, the trap record is written and the split enters handler mode at TVEC (R377) -/
  | trapDelivery (core slot : Nat)
  /-- PREEMPT_DEADLINE: 40 us after a pre-emption request, groups take a full save at the next boundary (R384) -/
  | preemptDeadline (asid : Nat)
  /-- LAUNCH_RECORD_TAKE: A free hub command processor takes the record at HEAD of the highest-priority pending queue (R284) -/
  | launchRecordTake
  /-- BLOCK_CLAIM: A die command processor reserves a core and claims blocks from the ticket counter (R290) -/
  | blockClaim (ck : Bool) (die grid : Nat)
  /-- STEAL_REQUEST: A die with an empty range steals half a victim's undispatched blocks (R292) -/
  | stealRequest (die grid : Nat)
  /-- FIRKIN_FILL: The Firkin performs a block's bindings, after which the groups start or the block ends (R281) -/
  | firkinFill (core bslot : Nat)
  /-- BLOCK_END: A block ends once its groups and issued async work are done, releasing its resources (R40) -/
  | blockEnd (core bslot : Nat)
  /-- TUN_ACCEPT: The Tun accepts a task and records its dependences (R295) -/
  | tunAccept
  /-- TASK_DISPATCH: A ready task is dispatched as a grid (R298) -/
  | taskDispatch
  /-- GROUP_WAIT_LIMIT: A group's wait count reaching 1,024 boosts its longest-waiting ready split (R326) -/
  | groupWaitLimit (core slot : Nat)
  /-- REMOVAL_STAGE: A removal stage begins once the previous stage's in-flight count reaches zero (R391) -/
  | removalStage (asid : Nat)
  /-- HOST_MEM_ACCESS: A host CXL.mem access to HBM through an HDM decoder (R361) -/
  | hostMemAccess (vf hpa : Nat) (write : Bool) (data : List (BitVec 8))
  /-- PEER_REQUEST: A peer-window request is checked at the importer and performed at the exporter (R370) -/
  | peerRequest (handle : BitVec 64) (off : Nat) (kind : Nat) (n : Nat) (data : List (BitVec 8))
  /-- WATCHDOG_EXPIRY: A grid's watchdog expires and the context is removed (R332) -/
  | watchdogExpiry (grid : Nat)
  /-- CONTEXT_REMOVAL: Removal of a context begins, stopping units in stage order (R391) -/
  | contextRemoval (asid cause : Nat)
  /-- REMOVAL_ESCALATION: A stage not drained after 100 ms escalates to a die reset (R392) -/
  | removalEscalation (asid : Nat)
  /-- ACCOUNTING_TICK: At each 1 ms tick shared energy is split among VFs and recalibration takes effect (R353) -/
  | accountingTick (eH eL : Nat) (links : List (Nat × Nat × Nat)) (vfs : List (Nat × Nat × Nat)) (bytes : List (Nat × Nat × Nat))
  /-- BANK_SCRUB: Compute-mode banks are scrubbed every 10 ms (R393) -/
  | bankScrub (core bank : Nat)
  /-- L2_SCRUB: L2 home slices are scrubbed once a second (R393) -/
  | l2Scrub (line : Nat)
  /-- HBM_PATROL_SCRUB: HBM patrol scrubbing completes a pass every 24 h (R393) -/
  | hbmPatrolScrub (line : Nat)
  /-- ROW_SPARING: A failing HBM row is copied to a spare row and remapped (R397) -/
  | rowSparing (row : Nat)
  /-- POWER_SAMPLE: Every 100 us the capping loop samples power and moves DVFS points (R406) -/
  | powerSample (meanWatts hottest coolest : Nat) (under10ms : Bool)
  /-- TEMPERATURE_CAPPING: A die above 95 C steps its point down every 100 us (R407) -/
  | temperatureCapping (die temp : Nat)
  /-- THERMTRIP: A die at 110 C is reset and its contexts removed (R407) -/
  | thermtrip (die : Nat)
  /-- THERMAL: Coolant outside its limits raises THERMAL to the PF (R407) -/
  | thermal (reason value : Nat)
  /-- COLD_RESET: Power-on or a cold reset runs the boot sequence to READY (R404) -/
  | coldReset
  /-- UCIE_MODULE_FAILURE: A host UCIe module fails to retrain; traffic moves and LINKDOWN is raised (R359) -/
  | ucieModuleFailure (m : Nat)
  /-- FLIT_RECEIVE: A flit is received and checked; a CRC mismatch discards it and sends a NAK (R373) -/
  | flitReceive (port : Nat) (hdr : BitVec 64) (rest : List (BitVec 8))
  /-- NAK: A received NAK makes the sender replay from the flit after the last good SEQ (R373) -/
  | nak (port ack : Nat)
  /-- PORT_RETRAIN: After 8 failures of one flit the port retrains; 3 failed retrains take it DOWN (R373) -/
  | portRetrain (port : Nat) (ok : Bool)
  /-- LINK_SLEEP: A link idle for 20 us enters SLEEP (R374) -/
  | linkSleep (link : Nat)
  /-- LINK_WAKE: A request or snoop moves a sleeping link to WAKING (R374) -/
  | linkWake (link : Nat)
  /-- WAKE_COMPLETE: A waking link becomes ACTIVE or, on failure, TRAINING (R374) -/
  | wakeComplete (link : Nat) (ok : Bool)
  /-- SNOOP: The hub directory snoops L1 copies of host or peer lines (R375) -/
  | snoop (link line : Nat)
  /-- DEAD_DIE_TIMER: After 100 us outside WAKING and ACTIVE the die is declared dead (R375) -/
  | deadDieTimer (link : Nat)
  /-- QUEUE_DOORBELL: A host write of a work queue's TAIL submits records (R363) -/
  | queueDoorbell (vf q tail : Nat)
  /-- REGISTER_WRITE: A write to a register with no row of its own (R5) -/
  | registerWrite (fn off : Nat) (data : List (BitVec 8))
  /-- MANAGEMENT_NOTICE: A fault notice on the management channel starts system recovery steps (R400) -/
  | managementNotice (kind index job : Nat)
  /-- RESET: PF command that resets the module (R409) -/
  | reset (fn : Nat)
  /-- DIERESET: PF command that resets one die (R409) -/
  | diereset (fn : Nat)
  /-- FWWRITE: Writes a firmware chunk to the idle slot, verifying it on the last chunk (R409) -/
  | fwwrite (fn : Nat)
  /-- FWSWITCH: Switches to the verified idle firmware slot (R396) -/
  | fwswitch (fn : Nat)
  /-- PARTSET: Writes a partition record (R409) -/
  | partset (fn : Nat)
  /-- GRANSET: Writes a granule table entry (R409) -/
  | granset (fn : Nat)
  /-- VFSET: Writes a VF record and its host-range table (R409) -/
  | vfset (fn : Nat)
  /-- FALLBACK: Sets a partition's fallback save area (R409) -/
  | fallback (fn : Nat)
  /-- POWERCAP: Sets the module power cap (R406) -/
  | powercap (fn : Nat)
  /-- DIEOFF: Takes a die or core offline (R399) -/
  | dieoff (fn : Nat)
  /-- DIEON: Brings a die or core back online (R399) -/
  | dieon (fn : Nat)
  /-- RECAL: Requests meter recalibration (R398) -/
  | recal (fn : Nat)
  /-- EXPORT: Creates an export entry and returns its handle (R367) -/
  | exportRange (fn : Nat)
  /-- IMPORT: Maps an export handle into a peer-window slot (R369) -/
  | importHandle (fn : Nat)
  /-- UNIMPORT: Empties a peer-window slot once its requests drain (R369) -/
  | unimport (fn : Nat)
  /-- REVOKE: Revokes an export, draining and invalidating importers (R370) -/
  | revoke (fn : Nat)
  /-- KEYLOAD: Unwraps and loads an owner's key into a slot (R347) -/
  | keyload (fn : Nat)
  /-- KEYERASE: Erases a key slot (R348) -/
  | keyerase (fn : Nat)
  /-- ATTEST: Produces a signed attestation report (R349) -/
  | attest (fn : Nat)
  /-- PREEMPT: Requests a pre-emption save of a context (R384) -/
  | preempt (fn : Nat)
  /-- RESTORE: Restores a saved context (R388) -/
  | restore (fn : Nat)
  /-- REMOVE: Requests removal of a context (R390) -/
  | remove (fn : Nat)
  /-- CENSUS: Captures every record and counter of a scope into a host buffer (R395) -/
  | census (fn : Nat)
  /-- BADCMD: An unknown command code completes BADCMD (R408) -/
  | badcmd (fn : Nat)
  /-- LINK_TRAINING_DONE: A link in TRAINING finishes training and becomes ACTIVE, or fails and goes DOWN (R374) -/
  | linkTrainingDone (link : Nat) (ok : Bool)
  /-- BANK_SENSE_TRIM_STEP: The bank sense trim loop moves a bank's threshold code and restarts its corrected-error count (R354) -/
  | bankSenseTrimStep (core bank code : Nat)
  /-- LINK_EQUALISATION: The link equalisation loop adjusts a lane's main, pre and post taps and its eye margin (R354) -/
  | linkEqualisation (port lane main pre post margin : Nat)
deriving DecidableEq, Repr

end Sys2Proof
end

