-- ==== Sys2Proof/Config.lean ====
section
/-! DEFINITION. The free values of the model: constants without a body, so that nothing can be proved about what they
are. Each stands for a value or a choice that the spec leaves open; it is applied to a counter of the state (`tick`) or
to the operands it depends on. Log entries 6 to 9 name them. -/

namespace Sys2Proof.Config

/-- A free 64-bit value per tick: a value the spec says is undefined or does not state. -/
opaque freeDWord : Nat → DWord
/-- A free choice per tick and site, where the spec lists two allowed outcomes (R2). -/
opaque choice : Nat → Nat → Bool
/-- The clk that a move takes beyond the one the model counts: timing is left open (08 R439). -/
opaque extraClk : Nat → Nat
/-- The nanoseconds that pass in a move (15 R357). -/
opaque nsStep : Nat → Nat
/-- The calibrated cost in grains of a unit of a class on a die, at the die's DVFS point and under the calibration that an
accounting tick has put in force (15 R350, R351, 17 R398). -/
opaque cost : Nat → Nat → Nat → Nat → Nat
/-- How many lines, requests, table entries or flits of a class an activity touches at a tick: caches, walks and routes
decide it (15 R350, R351, classes 9 to 13 and 16 to 19). -/
opaque traffic : Nat → Nat → Nat
/-- The energy of scrubbing, management, calibration and idle units that an accounting tick at a step meters (15 R350,
R353). -/
opaque restEnergy : Nat → Nat
/-- The errors that a lane of a fabric port has corrected since it was last looked at, by lane and tick (15 R354). -/
opaque preErrors : Nat → Nat → Nat
/-- What a line stored under one key slot's key reads as under another's (15 R346): key bits used to write, key bits
used to read, line address, the data unit as it was stored (the plain line, or its chunk padded to 32 bytes) and the
byte's number in the line. -/
opaque garble : Nat → Nat → Nat → List Byte → Nat → Byte
/-- Is a compressed chunk of a line, written under one key mark, malformed when decrypted under another (15 R346, 11
R271)? -/
opaque chunkBroken : Nat → Nat → Nat → Bool
/-- The number of which the device identity's private key is made, and, by the tick of its report, that of an ephemeral
private key of the security engine (15 R347, R349). -/
opaque identitySecret : Nat
opaque ephemeralSecret : Nat → Nat
/-- The number of which the number used once by the signature made at a tick is made (15 R349). -/
opaque signatureNonce : Nat → Nat
/-- The vendor's public key, and the signature r and s that comes with a firmware image (15 R349, 18 R404). -/
opaque vendorKey : Nat × Nat
opaque imageSignature : List Byte → Nat × Nat
/-- The image with which a firmware slot left manufacture (15 R349, 17 R396). -/
opaque firstImage : Nat → List Byte
/-- Where the bytes of the fields of a head of a saved image lie (17 R386): the head's size and the byte's number. -/
opaque headSite : Nat → Nat → Nat
/-- The check code that the security engine draws for an export (16 R367). -/
opaque checkCode : Nat → BitVec 16
/-- The voltage in millivolts of a DVFS point in MHz (18 R406). -/
opaque voltage : Nat → BitVec 16
/-- The header of a section of a state census, whose layout the spec does not give (17 R395): the unit's kind, index and
length. -/
opaque censusHeader : Nat → Nat → Nat → List Byte
/-- The layout of fields of a census for which the spec gives none (17 R395): the field's number and its contents. -/
opaque censusFields : Nat → List Nat → List Byte
/-- The place of a unit's section among those of a census, by kind and index (17 R395). -/
opaque censusRank : Nat → Nat → Nat
/-- The port a fixed hash of a line address selects among `n` ports (16 R371). -/
opaque portHash : Nat → Nat → Nat
/-- Does the SECDED check, a trained link or another physical process named by its number succeed (17 R393, 18 R404)? -/
opaque physical : Nat → Nat → Bool
/-- A soft error that arises at a tick: the structure's code, its unit and the place (17 R393, R394). -/
opaque upset : Nat → Option (Nat × Nat × Nat)
/-- A store that the host or another module makes at a tick to memory of its own, outside the device: the physical address
and the bytes, which lie in one line and change at one instant (16 R365, R369, 20 R428). -/
opaque outsideStore : Nat → Option (Nat × List Byte)
/-- What arrives of a byte that is read from another module at a tick, by its place: a soft error in the receive staging
buffer of a port changes it (20 R427). -/
opaque staging : Nat → Nat → Byte → Byte

/-- Which of the possible moves comes next at a tick: the spec fixes no order among agents (08 R439). -/
opaque schedule : Nat → Nat
/-- What arrives from outside the model at a tick: a move of the host, of a peer, of a timer or of a physical process. -/
opaque arrival : Nat → Option Instr

end Sys2Proof.Config
end

