-- ==== Sys2Proof/WellFormed.lean ====
section
/-! DEFINITION. What makes an instruction's fields ill-formed whatever the state (03_encoding.md R53 and the field rules
of each entry). A check that depends on gm stands in Machine/Operands.lean. -/

namespace Sys2Proof

/-- The field checks, by name (R53). -/
inductive IllFormed where
  /-- An odd register where the entry requires a pair (R30). -/
  | oddPair
  /-- A register that is no multiple of 4 where the entry requires a quad (R84, R164, R227). -/
  | notQuad
  /-- A command entry that does not begin at v0, v16, v32 or v48 (R253). -/
  | notEntry
  /-- An `idx` selector above 6 (R305). -/
  | badIndex
  /-- A reserved `modei` selector or immediate (R62). -/
  | badModei
  /-- N-field 0 or Msel 3 (R175, R180). -/
  | badShape
  /-- A `desc` of 64 rows whose path-trace register is v63 (R180). -/
  | noSecondTrace
  /-- A reserved width (R226). -/
  | badWidth
  /-- A reserved hint, or one the instruction does not take (R226). -/
  | badHint
  /-- A reserved scope code (R203). -/
  | badScope
  /-- A `stm` without byte enables (R233). -/
  | noEnables
  /-- An `inv` kind 3 (R226). -/
  | badKind
  /-- A `dgrp` depth outside 1 to 24 (R130). -/
  | badDepth
  /-- A `pushm` or `popm` whose first register lies above its last (R242). -/
  | badRange
  /-- A selector that R355 and R389 do not list. -/
  | badSelector
deriving DecidableEq, Repr

/-- Is the register even, so that it names a pair (R30)? -/
def isPair (r : Reg) : Bool := r.toNat % 2 == 0
/-- Is the register a multiple of four, so that it names a quad (R84)? -/
def isQuad (r : Reg) : Bool := r.toNat % 4 == 0

/-- The first check of the list that does not hold. -/
def firstFail : List (Bool × IllFormed) → Option IllFormed
  | [] => none
  | (ok, e) :: rest => if ok then firstFail rest else some e

/-- Is `t` an assigned type code (R73)? -/
def typeCode (t : Nat) : Bool := t ≤ 20

/-- The immediates that a `modei` selector takes (R62). -/
def modeiOk (s : BitVec 6) (i : BitVec 18) : Bool :=
  let n := i.toNat
  match s.toNat with
  | 0 => n < 128
  | 1 => n < 32 && typeCode n
  | 2 => n < 32 && typeCode n
  | 3 => n ≤ 5
  | 4 => n < 2
  | 5 => n < 32
  | 6 => n < 32
  | 7 => n < 64
  | 8 => n < 2
  | 9 => n < 1024 && typeCode (n % 32) && typeCode (n / 32)
  | 10 => n < 16 && n % 8 ≤ 5
  | _ => false

/-- The selectors that R355 and R389 list. -/
def selectorListed (s : Nat) : Bool :=
  s ≤ 6 || s == 0x100 || s == 0x101 || (0x110 ≤ s && s ≤ 0x125) || (0x130 ≤ s && s ≤ 0x137) || s == 0x140 ||
    (0x150 ≤ s && s ≤ 0x15F) || (0x200 ≤ s && s ≤ 0x204) || (0x210 ≤ s && s ≤ 0x214)

/-- Does the data register of a load or store fit its width: a pair for `.w64`, a quad for `.w128` (R227)? -/
def dataFits (d : Reg) (w : BitVec 3) : List (Bool × IllFormed) :=
  [(w.toNat != 7, .badWidth), (w.toNat != 5 || isPair d, .oddPair), (w.toNat != 6 || isQuad d, .notQuad)]

/-- The widths a store takes: 0, 2, 4, 5 and 6 (R226). -/
def storeWidth (w : BitVec 3) : Bool := w.toNat == 0 || w.toNat == 2 || (4 ≤ w.toNat && w.toNat ≤ 6)

/-- The field rules shared by the instructions with a scope and a width (R203, R226, R227). -/
def scopedFits (d a : Reg) (s : BitVec 3) (w : BitVec 2) : List (Bool × IllFormed) :=
  [(s.toNat ≤ 4, .badScope), (w.toNat ≤ 1, .badWidth), (isPair a, .oddPair), (w.toNat != 1 || isPair d, .oddPair)]

/-- The field rules of a reduction (R226, R227). -/
def redFits (d a : Reg) (w : BitVec 2) : List (Bool × IllFormed) :=
  [(w.toNat ≤ 1, .badWidth), (isPair a, .oddPair), (w.toNat != 1 || isPair d, .oddPair)]

/-- The field rules of a matrix instruction's shape (R51, R175). -/
def shapeFits (n : BitVec 6) (m : BitVec 2) : List (Bool × IllFormed) :=
  [(n.toNat != 0, .badShape), (m.toNat != 3, .badShape)]

/-- The four registers that may begin a command entry (R253). -/
def entryFits (a : Reg) : List (Bool × IllFormed) := [(a.toNat % 16 == 0, .notEntry)]

/-- The checks of an instruction's fields, in order. -/
def Instr.checks : Instr → List (Bool × IllFormed)
  | .call c _ | .ret c | .jmpr c _ | .split c _ => [(isPair c, .oddPair)]
  | .mode d a _ b _ | .add64 d a _ b _ => [(isPair d, .oddPair), (isPair a, .oddPair), (isPair b, .oddPair)]
  | .modei s i => [(modeiOk s i, .badModei)]
  | .idx _ i => [(i.toNat ≤ 6, .badIndex)]
  | .addc d _ _ _ _ | .subb d _ _ _ _ => [(isPair d, .oddPair)]
  | .lea d a _ _ _ => [(isPair d, .oddPair), (isPair a, .oddPair)]
  | .isect d a _ _ => [(isPair d, .oddPair), (isPair a, .oddPair)]
  | .topk d _ _ _ _ | .prune d _ _ _ => [(isPair d, .oddPair)]
  | .dgrp d _ _ _ x => [(isPair d, .oddPair), (1 ≤ x.toNat && x.toNat ≤ 24, .badDepth)]
  | .ld d a _ _ h w | .ldc d a _ _ h w => (h.toNat != 3, .badHint) :: (isPair a, .oddPair) :: dataFits d w
  | .st d a _ _ h w =>
    (h.toNat ≤ 1, .badHint) :: (storeWidth w, .badWidth) :: (isPair a, .oddPair) :: dataFits d w
  | .stm _ a _ _ e => [(isPair a, .oddPair), (e.toNat != 0, .noEnables)]
  | .lds d _ _ _ w => dataFits d w
  | .sts d _ _ _ w => (storeWidth w, .badWidth) :: dataFits d w
  | .ldsp _ a _ _ _ _ | .pref a _ _ _ => [(isPair a, .oddPair)]
  | .ldacq d a _ _ s w | .strel d a _ _ s w | .lr d a _ _ s w | .sc d a _ _ s w
  | .atomAdd d a _ _ s w | .atomSub d a _ _ s w | .atomMin d a _ _ s w | .atomMax d a _ _ s w
  | .atomAnd d a _ _ s w | .atomOr d a _ _ s w | .atomXor d a _ _ s w | .atomXchg d a _ _ s w
  | .atomWinc d a _ _ s w | .atomFadd d a _ _ s w => scopedFits d a s w
  | .atomCas d a _ _ s w =>
    [(s.toNat ≤ 4, .badScope), (w.toNat ≤ 1, .badWidth), (isPair a, .oddPair), (isPair d, .oddPair),
      (w.toNat != 1 || isQuad d, .notQuad)]
  | .redAdd d a _ _ w | .redMin d a _ _ w | .redMax d a _ _ w | .redAnd d a _ _ w | .redOr d a _ _ w
  | .redXor d a _ _ w | .redFadd d a _ _ w => redFits d a w
  | .pushm d a _ | .popm d a _ => [(d.toNat ≤ a.toNat, .badRange)]
  | .fence _ s => [(s.toNat ≤ 4, .badScope)]
  | .bind _ a _ _ => [(isQuad a, .notQuad)]
  | .unbind _ a _ _ | .cln _ a _ _ => [(isPair a, .oddPair)]
  | .acq d a _ _ s => [(s.toNat ≤ 4, .badScope), (isPair d, .oddPair), (isPair a, .oddPair)]
  | .rel a _ _ s => [(s.toNat ≤ 4, .badScope), (isPair a, .oddPair)]
  | .inv _ a _ _ x => [(isPair a, .oddPair), (x.toNat != 3, .badKind)]
  | .resv _ a _ _ => [(isQuad a, .notQuad)]
  | .resvRd d _ _ _ => [(isQuad d, .notQuad)]
  | .mma n m _ _ | .mmas n m _ _ _ _ => shapeFits n m
  | .desc n m _ x _ => shapeFits n m ++ [(!(x.toNat == 63 && m.toNat == 2), .noSecondTrace)]
  | .copy _ a _ _ | .copyx _ a _ _ | .gath _ a _ _ | .coll _ a _ _ | .qfence _ a _ _ => entryFits a
  | .cqSeq d _ _ _ _ => [(isPair d, .oddPair)]
  | .task _ a _ _ => [(isPair a, .oddPair)]
  | .sysRd d s => [(isPair d, .oddPair), (selectorListed s.toNat, .badSelector)]
  | .sysWr d s => [(isQuad d, .notQuad), (selectorListed s.toNat, .badSelector)]
  | .clk d _ | .grn d _ => [(isPair d, .oddPair)]
  | .tlbinv _ a _ _ _ => [(isQuad a, .notQuad)]
  | _ => []

/-- The first field check that the instruction fails, if any (R53). -/
def Instr.check (i : Instr) : Option IllFormed := firstFail i.checks

/-- Is the instruction well-formed? -/
def Instr.wf (i : Instr) : Bool := i.check.isNone

end Sys2Proof
end

