-- ==== Sys2Proof/Decode.lean ====
section
/-! DEFINITION. The decoder from instruction words to instructions, total and rejecting by name, and the encoder
(03_encoding.md R47, R50-R53, R64-R66). The must-be-zero bits and the opcodes are those of the encoding tables. -/

namespace Sys2Proof

/-- Why a word is no instruction (R53, R66): each of these words raises ILLEGAL. -/
inductive DecodeError where
  /-- The opcode is not assigned (R64, R66). -/
  | unassigned (op : Nat)
  /-- A field that the entry does not use is not zero (R53). -/
  | reservedBits (op : Nat)
  /-- A field holds a value the entry does not define (R53). -/
  | illFormed (why : IllFormed)
deriving DecidableEq, Repr

/-- The field of `n` bits of the word `w` whose lowest bit is bit `lo` (R50). -/
def fld (w : Word) (lo n : Nat) : BitVec n := w.extractLsb' lo n

/-- The primary opcode, bits 31:24 (R47). -/
def opcodeOf (w : Word) : Nat := (fld w 24 8).toNat

/-- `i`, if the bits of `w` that `mask` names are all zero (R53). -/
def zeros (w : Word) (mask : Word) (i : Instr) : Except DecodeError Instr :=
  if w &&& mask = 0 then .ok i else .error (.reservedBits (opcodeOf w))

/-- The instruction whose fields a word holds, before the checks of WellFormed (R50, R64, R65). -/
def decodeFields (w : Word) : Except DecodeError Instr :=
  match opcodeOf w with
  | 0x00 => .ok (.ill (fld w 0 24))
  | 0x01 => zeros w 0xFFFFFF (.nop)
  | 0x02 => zeros w 0xFC0000 (.br (fld w 0 18))
  | 0x03 => .ok (.bz (fld w 18 6) (fld w 0 18))
  | 0x04 => .ok (.bnz (fld w 18 6) (fld w 0 18))
  | 0x05 => .ok (.bmz (fld w 18 6) (fld w 0 18))
  | 0x06 => .ok (.bmnz (fld w 18 6) (fld w 0 18))
  | 0x07 => .ok (.call (fld w 18 6) (fld w 0 18))
  | 0x08 => zeros w 0x03FFFF (.ret (fld w 18 6))
  | 0x09 => .ok (.jmpr (fld w 18 6) (fld w 0 18))
  | 0x0A => zeros w 0xFFFFFF (.exit)
  | 0x0B => .ok (.split (fld w 18 6) (fld w 0 18))
  | 0x0C => zeros w 0xFC0000 (.join (fld w 0 18))
  | 0x0D => zeros w 0xFFFC00 (.yield (fld w 0 10))
  | 0x0E => .ok (.yieldc (fld w 18 6) (fld w 0 18))
  | 0x0F => .ok (.limm (fld w 18 6) (fld w 0 18))
  | 0x10 => .ok (.lhi (fld w 18 6) (fld w 0 18))
  | 0x11 => .ok (.mode (fld w 18 6) (fld w 12 6) (fld w 9 3) (fld w 3 6) (fld w 0 3))
  | 0x12 => .ok (.modei (fld w 18 6) (fld w 0 18))
  | 0x13 => zeros w 0x0001FF (.emSet (fld w 18 6) (fld w 12 6) (fld w 9 3))
  | 0x14 => zeros w 0x03FFFF (.emGet (fld w 18 6))
  | 0x15 => zeros w 0x0001FF (.emAnd (fld w 18 6) (fld w 12 6) (fld w 9 3))
  | 0x16 => zeros w 0x0001FF (.emAndn (fld w 18 6) (fld w 12 6) (fld w 9 3))
  | 0x17 => .ok (.idx (fld w 18 6) (fld w 0 18))
  | 0x20 => .ok (.add (fld w 18 6) (fld w 12 6) (fld w 9 3) (fld w 3 6) (fld w 0 3))
  | 0x21 => .ok (.sub (fld w 18 6) (fld w 12 6) (fld w 9 3) (fld w 3 6) (fld w 0 3))
  | 0x22 => .ok (.addc (fld w 18 6) (fld w 12 6) (fld w 9 3) (fld w 3 6) (fld w 0 3))
  | 0x23 => .ok (.subb (fld w 18 6) (fld w 12 6) (fld w 9 3) (fld w 3 6) (fld w 0 3))
  | 0x24 => .ok (.mul (fld w 18 6) (fld w 12 6) (fld w 9 3) (fld w 3 6) (fld w 0 3))
  | 0x25 => .ok (.mulh (fld w 18 6) (fld w 12 6) (fld w 9 3) (fld w 3 6) (fld w 0 3))
  | 0x26 => .ok (.mulhn (fld w 18 6) (fld w 12 6) (fld w 9 3) (fld w 3 6) (fld w 0 3))
  | 0x27 => .ok (.mad (fld w 18 6) (fld w 12 6) (fld w 9 3) (fld w 3 6) (fld w 0 3))
  | 0x28 => .ok (.min (fld w 18 6) (fld w 12 6) (fld w 9 3) (fld w 3 6) (fld w 0 3))
  | 0x29 => .ok (.max (fld w 18 6) (fld w 12 6) (fld w 9 3) (fld w 3 6) (fld w 0 3))
  | 0x2A => zeros w 0x0001FF (.abs (fld w 18 6) (fld w 12 6) (fld w 9 3))
  | 0x2B => zeros w 0x0001FF (.neg (fld w 18 6) (fld w 12 6) (fld w 9 3))
  | 0x2C => .ok (.and (fld w 18 6) (fld w 12 6) (fld w 9 3) (fld w 3 6) (fld w 0 3))
  | 0x2D => .ok (.or (fld w 18 6) (fld w 12 6) (fld w 9 3) (fld w 3 6) (fld w 0 3))
  | 0x2E => .ok (.xor (fld w 18 6) (fld w 12 6) (fld w 9 3) (fld w 3 6) (fld w 0 3))
  | 0x2F => .ok (.andn (fld w 18 6) (fld w 12 6) (fld w 9 3) (fld w 3 6) (fld w 0 3))
  | 0x30 => zeros w 0x0001FF (.not (fld w 18 6) (fld w 12 6) (fld w 9 3))
  | 0x31 => .ok (.shl (fld w 18 6) (fld w 12 6) (fld w 9 3) (fld w 3 6) (fld w 0 3))
  | 0x32 => .ok (.shr (fld w 18 6) (fld w 12 6) (fld w 9 3) (fld w 3 6) (fld w 0 3))
  | 0x33 => .ok (.sar (fld w 18 6) (fld w 12 6) (fld w 9 3) (fld w 3 6) (fld w 0 3))
  | 0x34 => .ok (.rot (fld w 18 6) (fld w 12 6) (fld w 9 3) (fld w 3 6) (fld w 0 3))
  | 0x35 => .ok (.dsh (fld w 18 6) (fld w 12 6) (fld w 9 3) (fld w 3 6) (fld w 0 3))
  | 0x36 => zeros w 0x0001FF (.lzc (fld w 18 6) (fld w 12 6) (fld w 9 3))
  | 0x37 => zeros w 0x0001FF (.tzc (fld w 18 6) (fld w 12 6) (fld w 9 3))
  | 0x38 => zeros w 0x0001FF (.ones (fld w 18 6) (fld w 12 6) (fld w 9 3))
  | 0x39 => zeros w 0x0001FF (.rvb (fld w 18 6) (fld w 12 6) (fld w 9 3))
  | 0x3A => .ok (.bxt (fld w 18 6) (fld w 12 6) (fld w 9 3) (fld w 3 6) (fld w 0 3))
  | 0x3B => .ok (.bdp (fld w 18 6) (fld w 12 6) (fld w 9 3) (fld w 3 6) (fld w 0 3))
  | 0x3C => .ok (.sel (fld w 18 6) (fld w 12 6) (fld w 9 3) (fld w 3 6) (fld w 0 3))
  | 0x3D => .ok (.cmpeq (fld w 18 6) (fld w 12 6) (fld w 9 3) (fld w 3 6) (fld w 0 3))
  | 0x3E => .ok (.cmpne (fld w 18 6) (fld w 12 6) (fld w 9 3) (fld w 3 6) (fld w 0 3))
  | 0x3F => .ok (.cmplt (fld w 18 6) (fld w 12 6) (fld w 9 3) (fld w 3 6) (fld w 0 3))
  | 0x40 => .ok (.cmple (fld w 18 6) (fld w 12 6) (fld w 9 3) (fld w 3 6) (fld w 0 3))
  | 0x41 => zeros w 0x0001FF (.mov (fld w 18 6) (fld w 12 6) (fld w 9 3))
  | 0x42 => .ok (.add64 (fld w 18 6) (fld w 12 6) (fld w 9 3) (fld w 3 6) (fld w 0 3))
  | 0x43 => .ok (.lea (fld w 18 6) (fld w 12 6) (fld w 9 3) (fld w 3 6) (fld w 0 3))
  | 0x44 => .ok (.sxt (fld w 18 6) (fld w 12 6) (fld w 9 3) (fld w 3 6) (fld w 0 3))
  | 0x45 => .ok (.zxt (fld w 18 6) (fld w 12 6) (fld w 9 3) (fld w 3 6) (fld w 0 3))
  | 0x50 => .ok (.fadd (fld w 18 6) (fld w 12 6) (fld w 9 3) (fld w 3 6) (fld w 0 3))
  | 0x51 => .ok (.fsub (fld w 18 6) (fld w 12 6) (fld w 9 3) (fld w 3 6) (fld w 0 3))
  | 0x52 => .ok (.fmul (fld w 18 6) (fld w 12 6) (fld w 9 3) (fld w 3 6) (fld w 0 3))
  | 0x53 => .ok (.ffma (fld w 18 6) (fld w 12 6) (fld w 9 3) (fld w 3 6) (fld w 0 3))
  | 0x54 => .ok (.ffms (fld w 18 6) (fld w 12 6) (fld w 9 3) (fld w 3 6) (fld w 0 3))
  | 0x55 => .ok (.fmin (fld w 18 6) (fld w 12 6) (fld w 9 3) (fld w 3 6) (fld w 0 3))
  | 0x56 => .ok (.fmax (fld w 18 6) (fld w 12 6) (fld w 9 3) (fld w 3 6) (fld w 0 3))
  | 0x57 => zeros w 0x0001FF (.fabs (fld w 18 6) (fld w 12 6) (fld w 9 3))
  | 0x58 => zeros w 0x0001FF (.fneg (fld w 18 6) (fld w 12 6) (fld w 9 3))
  | 0x59 => .ok (.fcmpeq (fld w 18 6) (fld w 12 6) (fld w 9 3) (fld w 3 6) (fld w 0 3))
  | 0x5A => .ok (.fcmplt (fld w 18 6) (fld w 12 6) (fld w 9 3) (fld w 3 6) (fld w 0 3))
  | 0x5B => .ok (.fcmple (fld w 18 6) (fld w 12 6) (fld w 9 3) (fld w 3 6) (fld w 0 3))
  | 0x5C => .ok (.fcmpun (fld w 18 6) (fld w 12 6) (fld w 9 3) (fld w 3 6) (fld w 0 3))
  | 0x5D => zeros w 0x0001FF (.fcls (fld w 18 6) (fld w 12 6) (fld w 9 3))
  | 0x5E => zeros w 0x0001FF (.fcvt (fld w 18 6) (fld w 12 6) (fld w 9 3))
  | 0x5F => zeros w 0x0001FF (.fcvti (fld w 18 6) (fld w 12 6) (fld w 9 3))
  | 0x60 => zeros w 0x0001FF (.fcvtf (fld w 18 6) (fld w 12 6) (fld w 9 3))
  | 0x61 => zeros w 0x0001FF (.frnd (fld w 18 6) (fld w 12 6) (fld w 9 3))
  | 0x62 => .ok (.fscl (fld w 18 6) (fld w 12 6) (fld w 9 3) (fld w 3 6) (fld w 0 3))
  | 0x63 => zeros w 0x0001FF (.frcp (fld w 18 6) (fld w 12 6) (fld w 9 3))
  | 0x64 => zeros w 0x0001FF (.frsq (fld w 18 6) (fld w 12 6) (fld w 9 3))
  | 0x65 => zeros w 0x0001FF (.fsqrt (fld w 18 6) (fld w 12 6) (fld w 9 3))
  | 0x66 => zeros w 0x0001FF (.fex2 (fld w 18 6) (fld w 12 6) (fld w 9 3))
  | 0x67 => zeros w 0x0001FF (.flg2 (fld w 18 6) (fld w 12 6) (fld w 9 3))
  | 0x68 => zeros w 0x0001FF (.fsin (fld w 18 6) (fld w 12 6) (fld w 9 3))
  | 0x69 => zeros w 0x0001FF (.fcos (fld w 18 6) (fld w 12 6) (fld w 9 3))
  | 0x6A => .ok (.zmul (fld w 18 6) (fld w 12 6) (fld w 9 3) (fld w 3 6) (fld w 0 3))
  | 0x6B => .ok (.zfma (fld w 18 6) (fld w 12 6) (fld w 9 3) (fld w 3 6) (fld w 0 3))
  | 0x6C => zeros w 0x0001FF (.zcnj (fld w 18 6) (fld w 12 6) (fld w 9 3))
  | 0x6D => .ok (.srnd (fld w 18 6) (fld w 12 6) (fld w 9 3) (fld w 3 6) (fld w 0 3))
  | 0x6E => .ok (.mxscl (fld w 18 6) (fld w 12 6) (fld w 9 3) (fld w 3 6) (fld w 0 3))
  | 0x6F => .ok (.mxpak (fld w 18 6) (fld w 12 6) (fld w 9 3) (fld w 3 6) (fld w 0 3))
  | 0x70 => .ok (.mxunp (fld w 18 6) (fld w 12 6) (fld w 9 3) (fld w 3 6) (fld w 0 3))
  | 0x80 => .ok (.lperm (fld w 18 6) (fld w 12 6) (fld w 9 3) (fld w 3 6) (fld w 0 3))
  | 0x81 => zeros w 0x0001FF (.lqAny (fld w 18 6) (fld w 12 6) (fld w 9 3))
  | 0x82 => zeros w 0x0001FF (.lqAll (fld w 18 6) (fld w 12 6) (fld w 9 3))
  | 0x83 => zeros w 0x0001FF (.lqSet (fld w 18 6) (fld w 12 6) (fld w 9 3))
  | 0x84 => zeros w 0x0001FF (.gredAdd (fld w 18 6) (fld w 12 6) (fld w 9 3))
  | 0x85 => zeros w 0x0001FF (.gredMin (fld w 18 6) (fld w 12 6) (fld w 9 3))
  | 0x86 => zeros w 0x0001FF (.gredMax (fld w 18 6) (fld w 12 6) (fld w 9 3))
  | 0x87 => zeros w 0x0001FF (.gredAnd (fld w 18 6) (fld w 12 6) (fld w 9 3))
  | 0x88 => zeros w 0x0001FF (.gredOr (fld w 18 6) (fld w 12 6) (fld w 9 3))
  | 0x89 => zeros w 0x0001FF (.gredXor (fld w 18 6) (fld w 12 6) (fld w 9 3))
  | 0x8A => zeros w 0x0001FF (.gscanAdd (fld w 18 6) (fld w 12 6) (fld w 9 3))
  | 0x8B => zeros w 0x0001FF (.gscanMax (fld w 18 6) (fld w 12 6) (fld w 9 3))
  | 0x8C => zeros w 0x00001F (.isect (fld w 18 6) (fld w 12 6) (fld w 9 3) (fld w 5 4))
  | 0x8D => .ok (.topk (fld w 18 6) (fld w 12 6) (fld w 9 3) (fld w 5 4) (fld w 0 5))
  | 0x8E => .ok (.dgrp (fld w 18 6) (fld w 12 6) (fld w 9 3) (fld w 5 4) (fld w 0 5))
  | 0x8F => zeros w 0x00001F (.prune (fld w 18 6) (fld w 12 6) (fld w 9 3) (fld w 5 4))
  | 0x98 => .ok (.ld (fld w 18 6) (fld w 12 6) (fld w 9 3) (fld w 5 4) (fld w 3 2) (fld w 0 3))
  | 0x99 => .ok (.st (fld w 18 6) (fld w 12 6) (fld w 9 3) (fld w 5 4) (fld w 3 2) (fld w 0 3))
  | 0x9A => .ok (.ldc (fld w 18 6) (fld w 12 6) (fld w 9 3) (fld w 5 4) (fld w 3 2) (fld w 0 3))
  | 0x9B => zeros w 0x000010 (.stm (fld w 18 6) (fld w 12 6) (fld w 9 3) (fld w 5 4) (fld w 0 4))
  | 0x9C => zeros w 0x000018 (.lds (fld w 18 6) (fld w 12 6) (fld w 9 3) (fld w 5 4) (fld w 0 3))
  | 0x9D => zeros w 0x000018 (.sts (fld w 18 6) (fld w 12 6) (fld w 9 3) (fld w 5 4) (fld w 0 3))
  | 0x9E => .ok (.ldsp (fld w 18 6) (fld w 12 6) (fld w 9 3) (fld w 5 4) (fld w 1 4) (fld w 0 1))
  | 0x9F => zeros w 0xFC001E (.pref (fld w 12 6) (fld w 9 3) (fld w 5 4) (fld w 0 1))
  | 0xA0 => .ok (.ldacq (fld w 18 6) (fld w 12 6) (fld w 9 3) (fld w 5 4) (fld w 2 3) (fld w 0 2))
  | 0xA1 => .ok (.strel (fld w 18 6) (fld w 12 6) (fld w 9 3) (fld w 5 4) (fld w 2 3) (fld w 0 2))
  | 0xA2 => .ok (.lr (fld w 18 6) (fld w 12 6) (fld w 9 3) (fld w 5 4) (fld w 2 3) (fld w 0 2))
  | 0xA3 => .ok (.sc (fld w 18 6) (fld w 12 6) (fld w 9 3) (fld w 5 4) (fld w 2 3) (fld w 0 2))
  | 0xA4 => .ok (.atomAdd (fld w 18 6) (fld w 12 6) (fld w 9 3) (fld w 5 4) (fld w 2 3) (fld w 0 2))
  | 0xA5 => .ok (.atomSub (fld w 18 6) (fld w 12 6) (fld w 9 3) (fld w 5 4) (fld w 2 3) (fld w 0 2))
  | 0xA6 => .ok (.atomMin (fld w 18 6) (fld w 12 6) (fld w 9 3) (fld w 5 4) (fld w 2 3) (fld w 0 2))
  | 0xA7 => .ok (.atomMax (fld w 18 6) (fld w 12 6) (fld w 9 3) (fld w 5 4) (fld w 2 3) (fld w 0 2))
  | 0xA8 => .ok (.atomAnd (fld w 18 6) (fld w 12 6) (fld w 9 3) (fld w 5 4) (fld w 2 3) (fld w 0 2))
  | 0xA9 => .ok (.atomOr (fld w 18 6) (fld w 12 6) (fld w 9 3) (fld w 5 4) (fld w 2 3) (fld w 0 2))
  | 0xAA => .ok (.atomXor (fld w 18 6) (fld w 12 6) (fld w 9 3) (fld w 5 4) (fld w 2 3) (fld w 0 2))
  | 0xAB => .ok (.atomXchg (fld w 18 6) (fld w 12 6) (fld w 9 3) (fld w 5 4) (fld w 2 3) (fld w 0 2))
  | 0xAC => .ok (.atomCas (fld w 18 6) (fld w 12 6) (fld w 9 3) (fld w 5 4) (fld w 2 3) (fld w 0 2))
  | 0xAD => .ok (.atomWinc (fld w 18 6) (fld w 12 6) (fld w 9 3) (fld w 5 4) (fld w 2 3) (fld w 0 2))
  | 0xAE => .ok (.atomFadd (fld w 18 6) (fld w 12 6) (fld w 9 3) (fld w 5 4) (fld w 2 3) (fld w 0 2))
  | 0xAF => zeros w 0x00001C (.redAdd (fld w 18 6) (fld w 12 6) (fld w 9 3) (fld w 5 4) (fld w 0 2))
  | 0xB0 => zeros w 0x00001C (.redMin (fld w 18 6) (fld w 12 6) (fld w 9 3) (fld w 5 4) (fld w 0 2))
  | 0xB1 => zeros w 0x00001C (.redMax (fld w 18 6) (fld w 12 6) (fld w 9 3) (fld w 5 4) (fld w 0 2))
  | 0xB2 => zeros w 0x00001C (.redAnd (fld w 18 6) (fld w 12 6) (fld w 9 3) (fld w 5 4) (fld w 0 2))
  | 0xB3 => zeros w 0x00001C (.redOr (fld w 18 6) (fld w 12 6) (fld w 9 3) (fld w 5 4) (fld w 0 2))
  | 0xB4 => zeros w 0x00001C (.redXor (fld w 18 6) (fld w 12 6) (fld w 9 3) (fld w 5 4) (fld w 0 2))
  | 0xB5 => zeros w 0x00001C (.redFadd (fld w 18 6) (fld w 12 6) (fld w 9 3) (fld w 5 4) (fld w 0 2))
  | 0xB6 => zeros w 0x000E1F (.pushm (fld w 18 6) (fld w 12 6) (fld w 5 4))
  | 0xB7 => zeros w 0x000E1F (.popm (fld w 18 6) (fld w 12 6) (fld w 5 4))
  | 0xB8 => zeros w 0xFFFE03 (.fence (fld w 5 4) (fld w 2 3))
  | 0xB9 => zeros w 0x00001F (.bind (fld w 18 6) (fld w 12 6) (fld w 9 3) (fld w 5 4))
  | 0xBA => zeros w 0x00001F (.unbind (fld w 18 6) (fld w 12 6) (fld w 9 3) (fld w 5 4))
  | 0xBB => zeros w 0x000003 (.acq (fld w 18 6) (fld w 12 6) (fld w 9 3) (fld w 5 4) (fld w 2 3))
  | 0xBC => zeros w 0xFC0003 (.rel (fld w 12 6) (fld w 9 3) (fld w 5 4) (fld w 2 3))
  | 0xBD => zeros w 0x00001F (.cln (fld w 18 6) (fld w 12 6) (fld w 9 3) (fld w 5 4))
  | 0xBE => zeros w 0x00001C (.inv (fld w 18 6) (fld w 12 6) (fld w 9 3) (fld w 5 4) (fld w 0 2))
  | 0xC0 => zeros w 0xFC001F (.bankCm (fld w 12 6) (fld w 9 3) (fld w 5 4))
  | 0xC1 => zeros w 0xFC001F (.bankSm (fld w 12 6) (fld w 9 3) (fld w 5 4))
  | 0xC2 => zeros w 0x00001F (.resv (fld w 18 6) (fld w 12 6) (fld w 9 3) (fld w 5 4))
  | 0xC3 => zeros w 0x00001F (.resvRd (fld w 18 6) (fld w 12 6) (fld w 9 3) (fld w 5 4))
  | 0xC4 => zeros w 0x00001F (.resvFree (fld w 18 6) (fld w 12 6) (fld w 9 3) (fld w 5 4))
  | 0xC5 => zeros w 0x001FF0 (.mma (fld w 18 6) (fld w 16 2) (fld w 13 3) (fld w 0 4))
  | 0xC6 => .ok (.mmas (fld w 18 6) (fld w 16 2) (fld w 13 3) (fld w 7 6) (fld w 4 3) (fld w 0 4))
  | 0xC7 => zeros w 0x00001E (.accRd (fld w 18 6) (fld w 12 6) (fld w 9 3) (fld w 5 4) (fld w 0 1))
  | 0xC8 => zeros w 0x00001E (.accWr (fld w 18 6) (fld w 12 6) (fld w 9 3) (fld w 5 4) (fld w 0 1))
  | 0xC9 => zeros w 0xFC001E (.accClr (fld w 12 6) (fld w 9 3) (fld w 5 4) (fld w 0 1))
  | 0xCA => zeros w 0x000070 (.desc (fld w 18 6) (fld w 16 2) (fld w 13 3) (fld w 7 6) (fld w 0 4))
  | 0xD8 => zeros w 0x00001F (.copy (fld w 18 6) (fld w 12 6) (fld w 9 3) (fld w 5 4))
  | 0xD9 => zeros w 0x00001F (.copyx (fld w 18 6) (fld w 12 6) (fld w 9 3) (fld w 5 4))
  | 0xDA => zeros w 0x00001F (.gath (fld w 18 6) (fld w 12 6) (fld w 9 3) (fld w 5 4))
  | 0xDB => zeros w 0x00001F (.coll (fld w 18 6) (fld w 12 6) (fld w 9 3) (fld w 5 4))
  | 0xDC => zeros w 0x00001F (.qfence (fld w 18 6) (fld w 12 6) (fld w 9 3) (fld w 5 4))
  | 0xDD => zeros w 0x00001E (.cqSeq (fld w 18 6) (fld w 12 6) (fld w 9 3) (fld w 5 4) (fld w 0 1))
  | 0xDE => zeros w 0x00001F (.futWait (fld w 18 6) (fld w 12 6) (fld w 9 3) (fld w 5 4))
  | 0xDF => zeros w 0x00001F (.futTest (fld w 18 6) (fld w 12 6) (fld w 9 3) (fld w 5 4))
  | 0xE0 => zeros w 0x00001F (.futCncl (fld w 18 6) (fld w 12 6) (fld w 9 3) (fld w 5 4))
  | 0xE1 => zeros w 0x00001F (.futMov (fld w 18 6) (fld w 12 6) (fld w 9 3) (fld w 5 4))
  | 0xE2 => zeros w 0x00001F (.task (fld w 18 6) (fld w 12 6) (fld w 9 3) (fld w 5 4))
  | 0xE4 => zeros w 0xFFFFF0 (.bar (fld w 0 4))
  | 0xE5 => zeros w 0xFFFFF0 (.barArr (fld w 0 4))
  | 0xE6 => zeros w 0xFFFFF0 (.barWt (fld w 0 4))
  | 0xE7 => zeros w 0xFFFFFF (.spanbar)
  | 0xE8 => zeros w 0x000010 (.boInit (fld w 18 6) (fld w 12 6) (fld w 9 3) (fld w 5 4) (fld w 0 4))
  | 0xE9 => zeros w 0x03FE10 (.boArr (fld w 18 6) (fld w 5 4) (fld w 0 4))
  | 0xEA => zeros w 0x000010 (.boWt (fld w 18 6) (fld w 12 6) (fld w 9 3) (fld w 5 4) (fld w 0 4))
  | 0xEB => .ok (.tryOpen (fld w 18 6) (fld w 0 18))
  | 0xEC => .ok (.trylOpen (fld w 18 6) (fld w 0 18))
  | 0xED => zeros w 0x03FFFF (.commit (fld w 18 6))
  | 0xEE => zeros w 0xFFFF00 (.abort (fld w 0 8))
  | 0xEF => zeros w 0xFC01FF (.tabl (fld w 12 6) (fld w 9 3))
  | 0xF0 => zeros w 0x03FFFF (.tstat (fld w 18 6))
  | 0xF2 => zeros w 0xFFFFFF (.tfence)
  | 0xF3 => zeros w 0xFFFF00 (.trap (fld w 0 8))
  | 0xF4 => zeros w 0xFFFF00 (.brk (fld w 0 8))
  | 0xF5 => zeros w 0xFC0000 (.phint (fld w 0 18))
  | 0xF6 => zeros w 0x03F000 (.sysRd (fld w 18 6) (fld w 0 12))
  | 0xF7 => zeros w 0x03F000 (.sysWr (fld w 18 6) (fld w 0 12))
  | 0xF8 => zeros w 0x03FFFE (.clk (fld w 18 6) (fld w 0 1))
  | 0xF9 => zeros w 0x03FFFE (.grn (fld w 18 6) (fld w 0 1))
  | 0xFA => zeros w 0xFFFFFF (.rte)
  | 0xFB => zeros w 0x00001E (.tlbinv (fld w 18 6) (fld w 12 6) (fld w 9 3) (fld w 5 4) (fld w 0 1))
  | 0xFC => zeros w 0x00001F (.genBump (fld w 18 6) (fld w 12 6) (fld w 9 3) (fld w 5 4))
  | op => .error (.unassigned op)

/-- The instruction of a word, or the name of what makes the word raise ILLEGAL (R53, R66). -/
def decode (w : Word) : Except DecodeError Instr :=
  match decodeFields w with
  | .error e => .error e
  | .ok i =>
    match i.check with
    | some e => .error (.illFormed e)
    | none => .ok i

/-- The word of the four bytes at rising addresses: little-endian (R4, R47). -/
def wordOfBytes (b0 b1 b2 b3 : Byte) : Word := b3 ++ b2 ++ b1 ++ b0

/-- The bytes of a word at rising addresses: little-endian (R4, R47). -/
def bytesOfWord (w : Word) : List Byte := [fld w 0 8, fld w 8 8, fld w 16 8, fld w 24 8]

/-- The instruction of the four bytes at the front of a list, with the bytes after them; nothing when there are fewer
than four bytes or the word raises ILLEGAL (R47). -/
def decodeBytes : List Byte → Option (Instr × List Byte)
  | b0 :: b1 :: b2 :: b3 :: rest =>
    match decode (wordOfBytes b0 b1 b2 b3) with
    | .ok i => some (i, rest)
    | .error _ => none
  | _ => none

/-- The instruction that the decoder reads from an instruction whose bits are `w`, laid out in memory as R47 says. -/
def decodeTableWord (_nbits w : Nat) : Option Instr :=
  match decodeBytes (bytesOfWord (BitVec.ofNat 32 w)) with
  | some (i, _) => some i
  | none => none

/-- The word of an instruction, from the encoding tables of its entry; a move of another agent has no word (R50, R65). -/
def encode : Instr → Option Word
  | .ill x => some (0x00#8 ++ x)
  | .nop => some (0x01#8 ++ 0#24)
  | .br o => some (0x02#8 ++ 0#6 ++ o)
  | .bz c o => some (0x03#8 ++ c ++ o)
  | .bnz c o => some (0x04#8 ++ c ++ o)
  | .bmz c o => some (0x05#8 ++ c ++ o)
  | .bmnz c o => some (0x06#8 ++ c ++ o)
  | .call c o => some (0x07#8 ++ c ++ o)
  | .ret c => some (0x08#8 ++ c ++ 0#18)
  | .jmpr c o => some (0x09#8 ++ c ++ o)
  | .exit => some (0x0A#8 ++ 0#24)
  | .split c o => some (0x0B#8 ++ c ++ o)
  | .join o => some (0x0C#8 ++ 0#6 ++ o)
  | .yield n => some (0x0D#8 ++ 0#14 ++ n)
  | .yieldc c o => some (0x0E#8 ++ c ++ o)
  | .limm d i => some (0x0F#8 ++ d ++ i)
  | .lhi d i => some (0x10#8 ++ d ++ i)
  | .mode d a p b q => some (0x11#8 ++ d ++ a ++ p ++ b ++ q)
  | .modei s i => some (0x12#8 ++ s ++ i)
  | .emSet d a p => some (0x13#8 ++ d ++ a ++ p ++ 0#9)
  | .emGet d => some (0x14#8 ++ d ++ 0#18)
  | .emAnd d a p => some (0x15#8 ++ d ++ a ++ p ++ 0#9)
  | .emAndn d a p => some (0x16#8 ++ d ++ a ++ p ++ 0#9)
  | .idx d i => some (0x17#8 ++ d ++ i)
  | .add d a p b q => some (0x20#8 ++ d ++ a ++ p ++ b ++ q)
  | .sub d a p b q => some (0x21#8 ++ d ++ a ++ p ++ b ++ q)
  | .addc d a p b q => some (0x22#8 ++ d ++ a ++ p ++ b ++ q)
  | .subb d a p b q => some (0x23#8 ++ d ++ a ++ p ++ b ++ q)
  | .mul d a p b q => some (0x24#8 ++ d ++ a ++ p ++ b ++ q)
  | .mulh d a p b q => some (0x25#8 ++ d ++ a ++ p ++ b ++ q)
  | .mulhn d a p b q => some (0x26#8 ++ d ++ a ++ p ++ b ++ q)
  | .mad d a p b q => some (0x27#8 ++ d ++ a ++ p ++ b ++ q)
  | .min d a p b q => some (0x28#8 ++ d ++ a ++ p ++ b ++ q)
  | .max d a p b q => some (0x29#8 ++ d ++ a ++ p ++ b ++ q)
  | .abs d a p => some (0x2A#8 ++ d ++ a ++ p ++ 0#9)
  | .neg d a p => some (0x2B#8 ++ d ++ a ++ p ++ 0#9)
  | .and d a p b q => some (0x2C#8 ++ d ++ a ++ p ++ b ++ q)
  | .or d a p b q => some (0x2D#8 ++ d ++ a ++ p ++ b ++ q)
  | .xor d a p b q => some (0x2E#8 ++ d ++ a ++ p ++ b ++ q)
  | .andn d a p b q => some (0x2F#8 ++ d ++ a ++ p ++ b ++ q)
  | .not d a p => some (0x30#8 ++ d ++ a ++ p ++ 0#9)
  | .shl d a p b q => some (0x31#8 ++ d ++ a ++ p ++ b ++ q)
  | .shr d a p b q => some (0x32#8 ++ d ++ a ++ p ++ b ++ q)
  | .sar d a p b q => some (0x33#8 ++ d ++ a ++ p ++ b ++ q)
  | .rot d a p b q => some (0x34#8 ++ d ++ a ++ p ++ b ++ q)
  | .dsh d a p b q => some (0x35#8 ++ d ++ a ++ p ++ b ++ q)
  | .lzc d a p => some (0x36#8 ++ d ++ a ++ p ++ 0#9)
  | .tzc d a p => some (0x37#8 ++ d ++ a ++ p ++ 0#9)
  | .ones d a p => some (0x38#8 ++ d ++ a ++ p ++ 0#9)
  | .rvb d a p => some (0x39#8 ++ d ++ a ++ p ++ 0#9)
  | .bxt d a p b q => some (0x3A#8 ++ d ++ a ++ p ++ b ++ q)
  | .bdp d a p b q => some (0x3B#8 ++ d ++ a ++ p ++ b ++ q)
  | .sel d a p b q => some (0x3C#8 ++ d ++ a ++ p ++ b ++ q)
  | .cmpeq d a p b q => some (0x3D#8 ++ d ++ a ++ p ++ b ++ q)
  | .cmpne d a p b q => some (0x3E#8 ++ d ++ a ++ p ++ b ++ q)
  | .cmplt d a p b q => some (0x3F#8 ++ d ++ a ++ p ++ b ++ q)
  | .cmple d a p b q => some (0x40#8 ++ d ++ a ++ p ++ b ++ q)
  | .mov d a p => some (0x41#8 ++ d ++ a ++ p ++ 0#9)
  | .add64 d a p b q => some (0x42#8 ++ d ++ a ++ p ++ b ++ q)
  | .lea d a p b q => some (0x43#8 ++ d ++ a ++ p ++ b ++ q)
  | .sxt d a p b q => some (0x44#8 ++ d ++ a ++ p ++ b ++ q)
  | .zxt d a p b q => some (0x45#8 ++ d ++ a ++ p ++ b ++ q)
  | .fadd d a p b q => some (0x50#8 ++ d ++ a ++ p ++ b ++ q)
  | .fsub d a p b q => some (0x51#8 ++ d ++ a ++ p ++ b ++ q)
  | .fmul d a p b q => some (0x52#8 ++ d ++ a ++ p ++ b ++ q)
  | .ffma d a p b q => some (0x53#8 ++ d ++ a ++ p ++ b ++ q)
  | .ffms d a p b q => some (0x54#8 ++ d ++ a ++ p ++ b ++ q)
  | .fmin d a p b q => some (0x55#8 ++ d ++ a ++ p ++ b ++ q)
  | .fmax d a p b q => some (0x56#8 ++ d ++ a ++ p ++ b ++ q)
  | .fabs d a p => some (0x57#8 ++ d ++ a ++ p ++ 0#9)
  | .fneg d a p => some (0x58#8 ++ d ++ a ++ p ++ 0#9)
  | .fcmpeq d a p b q => some (0x59#8 ++ d ++ a ++ p ++ b ++ q)
  | .fcmplt d a p b q => some (0x5A#8 ++ d ++ a ++ p ++ b ++ q)
  | .fcmple d a p b q => some (0x5B#8 ++ d ++ a ++ p ++ b ++ q)
  | .fcmpun d a p b q => some (0x5C#8 ++ d ++ a ++ p ++ b ++ q)
  | .fcls d a p => some (0x5D#8 ++ d ++ a ++ p ++ 0#9)
  | .fcvt d a p => some (0x5E#8 ++ d ++ a ++ p ++ 0#9)
  | .fcvti d a p => some (0x5F#8 ++ d ++ a ++ p ++ 0#9)
  | .fcvtf d a p => some (0x60#8 ++ d ++ a ++ p ++ 0#9)
  | .frnd d a p => some (0x61#8 ++ d ++ a ++ p ++ 0#9)
  | .fscl d a p b q => some (0x62#8 ++ d ++ a ++ p ++ b ++ q)
  | .frcp d a p => some (0x63#8 ++ d ++ a ++ p ++ 0#9)
  | .frsq d a p => some (0x64#8 ++ d ++ a ++ p ++ 0#9)
  | .fsqrt d a p => some (0x65#8 ++ d ++ a ++ p ++ 0#9)
  | .fex2 d a p => some (0x66#8 ++ d ++ a ++ p ++ 0#9)
  | .flg2 d a p => some (0x67#8 ++ d ++ a ++ p ++ 0#9)
  | .fsin d a p => some (0x68#8 ++ d ++ a ++ p ++ 0#9)
  | .fcos d a p => some (0x69#8 ++ d ++ a ++ p ++ 0#9)
  | .zmul d a p b q => some (0x6A#8 ++ d ++ a ++ p ++ b ++ q)
  | .zfma d a p b q => some (0x6B#8 ++ d ++ a ++ p ++ b ++ q)
  | .zcnj d a p => some (0x6C#8 ++ d ++ a ++ p ++ 0#9)
  | .srnd d a p b q => some (0x6D#8 ++ d ++ a ++ p ++ b ++ q)
  | .mxscl d a p b q => some (0x6E#8 ++ d ++ a ++ p ++ b ++ q)
  | .mxpak d a p b q => some (0x6F#8 ++ d ++ a ++ p ++ b ++ q)
  | .mxunp d a p b q => some (0x70#8 ++ d ++ a ++ p ++ b ++ q)
  | .lperm d a p b q => some (0x80#8 ++ d ++ a ++ p ++ b ++ q)
  | .lqAny d a p => some (0x81#8 ++ d ++ a ++ p ++ 0#9)
  | .lqAll d a p => some (0x82#8 ++ d ++ a ++ p ++ 0#9)
  | .lqSet d a p => some (0x83#8 ++ d ++ a ++ p ++ 0#9)
  | .gredAdd d a p => some (0x84#8 ++ d ++ a ++ p ++ 0#9)
  | .gredMin d a p => some (0x85#8 ++ d ++ a ++ p ++ 0#9)
  | .gredMax d a p => some (0x86#8 ++ d ++ a ++ p ++ 0#9)
  | .gredAnd d a p => some (0x87#8 ++ d ++ a ++ p ++ 0#9)
  | .gredOr d a p => some (0x88#8 ++ d ++ a ++ p ++ 0#9)
  | .gredXor d a p => some (0x89#8 ++ d ++ a ++ p ++ 0#9)
  | .gscanAdd d a p => some (0x8A#8 ++ d ++ a ++ p ++ 0#9)
  | .gscanMax d a p => some (0x8B#8 ++ d ++ a ++ p ++ 0#9)
  | .isect d a p l => some (0x8C#8 ++ d ++ a ++ p ++ l ++ 0#5)
  | .topk d a p l x => some (0x8D#8 ++ d ++ a ++ p ++ l ++ x)
  | .dgrp d a p l x => some (0x8E#8 ++ d ++ a ++ p ++ l ++ x)
  | .prune d a p l => some (0x8F#8 ++ d ++ a ++ p ++ l ++ 0#5)
  | .ld d a p l h w => some (0x98#8 ++ d ++ a ++ p ++ l ++ h ++ w)
  | .st d a p l h w => some (0x99#8 ++ d ++ a ++ p ++ l ++ h ++ w)
  | .ldc d a p l h w => some (0x9A#8 ++ d ++ a ++ p ++ l ++ h ++ w)
  | .stm d a p l e => some (0x9B#8 ++ d ++ a ++ p ++ l ++ 0#1 ++ e)
  | .lds d a p l w => some (0x9C#8 ++ d ++ a ++ p ++ l ++ 0#2 ++ w)
  | .sts d a p l w => some (0x9D#8 ++ d ++ a ++ p ++ l ++ 0#2 ++ w)
  | .ldsp d a p l o w => some (0x9E#8 ++ d ++ a ++ p ++ l ++ o ++ w)
  | .pref a p l x => some (0x9F#8 ++ 0#6 ++ a ++ p ++ l ++ 0#4 ++ x)
  | .ldacq d a p l s w => some (0xA0#8 ++ d ++ a ++ p ++ l ++ s ++ w)
  | .strel d a p l s w => some (0xA1#8 ++ d ++ a ++ p ++ l ++ s ++ w)
  | .lr d a p l s w => some (0xA2#8 ++ d ++ a ++ p ++ l ++ s ++ w)
  | .sc d a p l s w => some (0xA3#8 ++ d ++ a ++ p ++ l ++ s ++ w)
  | .atomAdd d a p l s w => some (0xA4#8 ++ d ++ a ++ p ++ l ++ s ++ w)
  | .atomSub d a p l s w => some (0xA5#8 ++ d ++ a ++ p ++ l ++ s ++ w)
  | .atomMin d a p l s w => some (0xA6#8 ++ d ++ a ++ p ++ l ++ s ++ w)
  | .atomMax d a p l s w => some (0xA7#8 ++ d ++ a ++ p ++ l ++ s ++ w)
  | .atomAnd d a p l s w => some (0xA8#8 ++ d ++ a ++ p ++ l ++ s ++ w)
  | .atomOr d a p l s w => some (0xA9#8 ++ d ++ a ++ p ++ l ++ s ++ w)
  | .atomXor d a p l s w => some (0xAA#8 ++ d ++ a ++ p ++ l ++ s ++ w)
  | .atomXchg d a p l s w => some (0xAB#8 ++ d ++ a ++ p ++ l ++ s ++ w)
  | .atomCas d a p l s w => some (0xAC#8 ++ d ++ a ++ p ++ l ++ s ++ w)
  | .atomWinc d a p l s w => some (0xAD#8 ++ d ++ a ++ p ++ l ++ s ++ w)
  | .atomFadd d a p l s w => some (0xAE#8 ++ d ++ a ++ p ++ l ++ s ++ w)
  | .redAdd d a p l w => some (0xAF#8 ++ d ++ a ++ p ++ l ++ 0#3 ++ w)
  | .redMin d a p l w => some (0xB0#8 ++ d ++ a ++ p ++ l ++ 0#3 ++ w)
  | .redMax d a p l w => some (0xB1#8 ++ d ++ a ++ p ++ l ++ 0#3 ++ w)
  | .redAnd d a p l w => some (0xB2#8 ++ d ++ a ++ p ++ l ++ 0#3 ++ w)
  | .redOr d a p l w => some (0xB3#8 ++ d ++ a ++ p ++ l ++ 0#3 ++ w)
  | .redXor d a p l w => some (0xB4#8 ++ d ++ a ++ p ++ l ++ 0#3 ++ w)
  | .redFadd d a p l w => some (0xB5#8 ++ d ++ a ++ p ++ l ++ 0#3 ++ w)
  | .pushm d a l => some (0xB6#8 ++ d ++ a ++ 0#3 ++ l ++ 0#5)
  | .popm d a l => some (0xB7#8 ++ d ++ a ++ 0#3 ++ l ++ 0#5)
  | .fence l s => some (0xB8#8 ++ 0#15 ++ l ++ s ++ 0#2)
  | .bind d a p l => some (0xB9#8 ++ d ++ a ++ p ++ l ++ 0#5)
  | .unbind d a p l => some (0xBA#8 ++ d ++ a ++ p ++ l ++ 0#5)
  | .acq d a p l s => some (0xBB#8 ++ d ++ a ++ p ++ l ++ s ++ 0#2)
  | .rel a p l s => some (0xBC#8 ++ 0#6 ++ a ++ p ++ l ++ s ++ 0#2)
  | .cln d a p l => some (0xBD#8 ++ d ++ a ++ p ++ l ++ 0#5)
  | .inv d a p l x => some (0xBE#8 ++ d ++ a ++ p ++ l ++ 0#3 ++ x)
  | .bankCm a p l => some (0xC0#8 ++ 0#6 ++ a ++ p ++ l ++ 0#5)
  | .bankSm a p l => some (0xC1#8 ++ 0#6 ++ a ++ p ++ l ++ 0#5)
  | .resv d a p l => some (0xC2#8 ++ d ++ a ++ p ++ l ++ 0#5)
  | .resvRd d a p l => some (0xC3#8 ++ d ++ a ++ p ++ l ++ 0#5)
  | .resvFree d a p l => some (0xC4#8 ++ d ++ a ++ p ++ l ++ 0#5)
  | .mma n m k l => some (0xC5#8 ++ n ++ m ++ k ++ 0#9 ++ l)
  | .mmas n m k x s l => some (0xC6#8 ++ n ++ m ++ k ++ x ++ s ++ l)
  | .accRd d a p l x => some (0xC7#8 ++ d ++ a ++ p ++ l ++ 0#4 ++ x)
  | .accWr d a p l x => some (0xC8#8 ++ d ++ a ++ p ++ l ++ 0#4 ++ x)
  | .accClr a p l x => some (0xC9#8 ++ 0#6 ++ a ++ p ++ l ++ 0#4 ++ x)
  | .desc n m k x l => some (0xCA#8 ++ n ++ m ++ k ++ x ++ 0#3 ++ l)
  | .copy d a p l => some (0xD8#8 ++ d ++ a ++ p ++ l ++ 0#5)
  | .copyx d a p l => some (0xD9#8 ++ d ++ a ++ p ++ l ++ 0#5)
  | .gath d a p l => some (0xDA#8 ++ d ++ a ++ p ++ l ++ 0#5)
  | .coll d a p l => some (0xDB#8 ++ d ++ a ++ p ++ l ++ 0#5)
  | .qfence d a p l => some (0xDC#8 ++ d ++ a ++ p ++ l ++ 0#5)
  | .cqSeq d a p l x => some (0xDD#8 ++ d ++ a ++ p ++ l ++ 0#4 ++ x)
  | .futWait d a p l => some (0xDE#8 ++ d ++ a ++ p ++ l ++ 0#5)
  | .futTest d a p l => some (0xDF#8 ++ d ++ a ++ p ++ l ++ 0#5)
  | .futCncl d a p l => some (0xE0#8 ++ d ++ a ++ p ++ l ++ 0#5)
  | .futMov d a p l => some (0xE1#8 ++ d ++ a ++ p ++ l ++ 0#5)
  | .task d a p l => some (0xE2#8 ++ d ++ a ++ p ++ l ++ 0#5)
  | .bar b => some (0xE4#8 ++ 0#20 ++ b)
  | .barArr b => some (0xE5#8 ++ 0#20 ++ b)
  | .barWt b => some (0xE6#8 ++ 0#20 ++ b)
  | .spanbar => some (0xE7#8 ++ 0#24)
  | .boInit d a p l o => some (0xE8#8 ++ d ++ a ++ p ++ l ++ 0#1 ++ o)
  | .boArr d l o => some (0xE9#8 ++ d ++ 0#9 ++ l ++ 0#1 ++ o)
  | .boWt d a p l o => some (0xEA#8 ++ d ++ a ++ p ++ l ++ 0#1 ++ o)
  | .tryOpen c o => some (0xEB#8 ++ c ++ o)
  | .trylOpen c o => some (0xEC#8 ++ c ++ o)
  | .commit d => some (0xED#8 ++ d ++ 0#18)
  | .abort e => some (0xEE#8 ++ 0#16 ++ e)
  | .tabl a p => some (0xEF#8 ++ 0#6 ++ a ++ p ++ 0#9)
  | .tstat d => some (0xF0#8 ++ d ++ 0#18)
  | .tfence => some (0xF2#8 ++ 0#24)
  | .trap n => some (0xF3#8 ++ 0#16 ++ n)
  | .brk n => some (0xF4#8 ++ 0#16 ++ n)
  | .phint o => some (0xF5#8 ++ 0#6 ++ o)
  | .sysRd d s => some (0xF6#8 ++ d ++ 0#6 ++ s)
  | .sysWr d s => some (0xF7#8 ++ d ++ 0#6 ++ s)
  | .clk d f => some (0xF8#8 ++ d ++ 0#17 ++ f)
  | .grn d f => some (0xF9#8 ++ d ++ 0#17 ++ f)
  | .rte => some (0xFA#8 ++ 0#24)
  | .tlbinv d a p l x => some (0xFB#8 ++ d ++ a ++ p ++ l ++ 0#4 ++ x)
  | .genBump d a p l => some (0xFC#8 ++ d ++ a ++ p ++ l ++ 0#5)
  | .yieldExpiry _ _ _ => none
  | .ldspFillLanding _ _ _ => none
  | .redApply _ => none
  | .fenceComplete _ _ _ => none
  | .matrixSlotTaken _ _ _ => none
  | .matrixCompletion _ _ _ => none
  | .linearCopy _ _ => none
  | .stridedCopy _ _ => none
  | .indexedGather _ _ => none
  | .collectiveInstance _ _ => none
  | .joinOfQueues _ _ => none
  | .tryAbort _ _ => none
  | .priorityHoldExpiry _ _ => none
  | .tlbinvAck _ _ _ _ _ => none
  | .genBumpComplete _ => none
  | .homeAccess _ => none
  | .requestReplay _ => none
  | .reservationProtectionExpiry _ => none
  | .trapDelivery _ _ => none
  | .preemptDeadline _ => none
  | .launchRecordTake => none
  | .blockClaim _ _ _ => none
  | .stealRequest _ _ => none
  | .firkinFill _ _ => none
  | .blockEnd _ _ => none
  | .tunAccept => none
  | .taskDispatch => none
  | .groupWaitLimit _ _ => none
  | .watchdogExpiry _ => none
  | .contextRemoval _ _ => none
  | .removalStage _ => none
  | .removalEscalation _ => none
  | .accountingTick _ _ _ _ _ => none
  | .bankScrub _ _ => none
  | .l2Scrub _ => none
  | .hbmPatrolScrub _ => none
  | .rowSparing _ => none
  | .powerSample _ _ _ _ => none
  | .temperatureCapping _ _ => none
  | .thermtrip _ => none
  | .thermal _ _ => none
  | .coldReset => none
  | .ucieModuleFailure _ => none
  | .flitReceive _ _ _ => none
  | .nak _ _ => none
  | .portRetrain _ _ => none
  | .linkSleep _ => none
  | .linkWake _ => none
  | .wakeComplete _ _ => none
  | .snoop _ _ => none
  | .deadDieTimer _ => none
  | .hostMemAccess _ _ _ _ => none
  | .peerRequest _ _ _ _ _ => none
  | .queueDoorbell _ _ _ => none
  | .registerWrite _ _ _ => none
  | .managementNotice _ _ _ => none
  | .reset _ => none
  | .diereset _ => none
  | .fwwrite _ => none
  | .fwswitch _ => none
  | .partset _ => none
  | .granset _ => none
  | .vfset _ => none
  | .fallback _ => none
  | .powercap _ => none
  | .dieoff _ => none
  | .dieon _ => none
  | .recal _ => none
  | .exportRange _ => none
  | .importHandle _ => none
  | .unimport _ => none
  | .revoke _ => none
  | .keyload _ => none
  | .keyerase _ => none
  | .attest _ => none
  | .preempt _ => none
  | .restore _ => none
  | .remove _ => none
  | .census _ => none
  | .badcmd _ => none
  | .linkTrainingDone _ _ => none
  | .bankSenseTrimStep _ _ _ => none
  | .linkEqualisation _ _ _ _ _ _ => none

end Sys2Proof
end

