-- ==== Sys2Proof/Machine/State.lean ====
section
/-! DEFINITION. The state of the whole module as plain data, and its value after a cold reset (02 R29-R46, 18 R402).
The group whose split issues is held apart (`grp`, in its block `blk`, split `cur`), every other resident group and
block in lists. Records that software reads and writes as words are held as words, with accessors in Ops. -/

namespace Sys2Proof.Machine

/-- Why the machine stops. -/
inductive Fault where
  /-- Raised by every instruction meaning when no split is issuing: no run of the device reaches such a state. Safe. -/
  | noIssuer
deriving DecidableEq, Repr

/-- Why an instruction has no meaning. -/
inductive Refusal where
  /-- Raised by an arm of `exec` whose instruction the model does not give a meaning yet. Safe. -/
  | notModelled (mnemonic : String)
deriving DecidableEq, Repr

/-- ST of a split-table entry (R37). -/
inductive SplitStatus where
  | free | live | joinWait | exited
deriving DecidableEq, Repr

/-- What a split waits for (R299); the wait is judged again when the machine has moved. -/
inductive Wait where
  /-- `yield` (R312), until the clk that the split holds. -/
  | clk
  /-- A barrier or span barrier phase in which the group has arrived (R314). -/
  | barrier (b : Nat)
  /-- An earlier phase that must complete before the group arrives again (R314). -/
  | arrive
  /-- Fills of a barrier object up to a sampled count (R316). -/
  | fills (o w : Nat)
  /-- A future read, `fut.wait` or `yieldc` (R256, R276, R313). -/
  | future
  /-- Room in a queue or among the core's futures (R255). -/
  | room
  /-- Marks of a barrier object up to a target (R316). -/
  | marks (o t : Nat)
  /-- Fills of a barrier object before `bo.init` (R316), or the limit of pending fills (R235). -/
  | object
  /-- The end of the group's outstanding instructions before a trap of this split is delivered (R377). -/
  | trap
  /-- Matrix work (R56, R155, R168, R174). -/
  | matrix
  /-- An incomplete fence, an earlier write or a reduction (R205, R208, R209). -/
  | fence
  /-- A line whose writes are held (R325, R333). -/
  | held
  /-- Requests under old translations or generations (R193, R194). -/
  | drain
deriving DecidableEq, Repr

/-- An issued L- or M-format instruction whose window may still be open (R56). -/
structure Window where
  /-- The instruction's address. -/
  pc : Addr
  /-- How many following instructions the window still holds. -/
  left : Nat
  /-- Registers named as written, with their lanes. -/
  results : List (Nat × Word)
  /-- Registers named as read, with their lanes. -/
  sources : List (Nat × Word)
  /-- Set while the instruction has not completed (matrix work). -/
  busy : Bool
  /-- The tick at which it issued. -/
  stamp : Nat
  /-- Values that a reader of the window may still find in the lanes of its results besides what they hold, lane i of vn
  under 32 n + i (R57). -/
  before : List (Nat × Word) := []
  /-- Flags it raised that were not set before it, which the window may not find yet (R57). -/
  flags : BitVec 6 := 0
deriving DecidableEq, Repr

/-- What a held store or a request keeps of the instruction that issued it, for a trap of its own (R60, R186, R192). -/
structure Origin where
  /-- The tick at which the instruction issued. -/
  stamp : Nat := 0
  /-- The lanes it acts on, with those done before a re-execution. -/
  mask : Word := 0
  handler : Bool := false
  /-- The first address of the lane's access. -/
  va : Nat := 0
  /-- Was the access checked as a read and a write (R229): a `strel`? -/
  rmw : Bool := false
deriving DecidableEq, Repr

/-- One byte of a store that is held back: in a try slot (R216) or behind a fence (R209). -/
structure HeldByte where
  /-- Scratchpad byte (an offset) or memory byte (a physical address). -/
  spad : Bool
  addr : Nat
  val : Byte
  /-- The lane that wrote it (R323). -/
  lane : Nat
  /-- Virtual address, generation, cache policy and instruction address of a memory store (R219, R433). -/
  va : Nat
  gen : Nat
  cp : Nat
  pc : Addr
  origin : Origin := {}
deriving DecidableEq, Repr

/-- An incomplete fence that the split has run past (R209). -/
structure Spec where
  /-- The fence's address and scope. -/
  pc : Addr
  scope : Nat
  /-- The registers, em and gm to which a rollback returns, as it does to the group's fl, gs and sp below. -/
  regs : Sparse Word
  em : Word
  gm : DWord
  windows : List Window
  /-- Held stores, oldest first. -/
  buffer : List HeldByte
  /-- Monitored lines: scratchpad or memory, and the line's number. -/
  monitored : List (Bool × Nat)
  /-- The tick at which the fence issued. -/
  stamp : Nat := 0
  /-- Is the split the only one of its group, so that the flags, generators and sp of the group are its own to give back? -/
  alone : Bool := false
  fl : BitVec 6 := 0
  gs : Sparse DWord := []
  sp : BitVec 21 := 0
deriving DecidableEq, Repr

/-- What a trap record says of the fault (R380). -/
structure TrapInfo where
  code : Nat
  /-- Is the instruction listed for re-execution (R60)? -/
  listed : Bool := true
  lane : Nat := 0
  part2 : Bool := false
  done : Word := 0
  fva : DWord := 0
  imm : BitVec 8 := 0
  str : Nat := 0
  port : Nat := 0
  flags : BitVec 6 := 0
  enabled : BitVec 6 := 0
deriving DecidableEq, Repr

/-- A fault that is not delivered yet: of an instruction after later ones of its split had issued or while others are
outstanding, or of a split while another is served (R60, R377, R378), with the tick at which the instruction issued. -/
structure Pending where
  info : TrapInfo
  pc : Addr
  stamp : Nat
  /-- Is it still to be found, so that the other splits of its group issue on (R378)? -/
  late : Bool := false
deriving DecidableEq, Repr

/-- A split of a group (R31, R37) with its issue state. -/
structure Split where
  st : SplitStatus := .free
  dm : Word := 0
  em : Word := 0
  gm : DWord := 0
  pc : Addr := 0
  windows : List Window := []
  spec : Option Spec := none
  /-- What it waits for, and the tick at which it was last judged. -/
  wait : Option (Wait × Nat) := none
  /-- The clk of the die at which a `yield` is over (R312). -/
  yieldUntil : Nat := 0
  /-- Lanes still to perform of an instruction that `rte` re-executes, with the addresses listed after it (R383). -/
  redo : List (Addr × Word) := []
  /-- Where it goes on once the list is done. -/
  redoNpc : Addr := 0
  /-- A list under re-execution whose next fetch has trapped, with where it goes on after it: `rte` to its first address
  takes it up again (R49, R383). -/
  kept : List (Addr × Word) := []
  keptNpc : Addr := 0
  run : Nat := 0
  waitCount : Nat := 0
  /-- Set when its group's wait count has made its own count as 128, until it issues (R326). -/
  urged : Bool := false
  /-- Faults not yet delivered, in program order. -/
  pending : List Pending := []
deriving DecidableEq, Repr

/-- A future-bearing register (R256). -/
structure Future where
  lane : Nat
  die : Nat
  qn : Nat
  seq : Nat
deriving DecidableEq, Repr

/-- A lane's LR reservation (R238), oldest protection first by stamp (R333). -/
structure LrRes where
  asid : Nat
  granule : Nat
  stamp : Nat
  isProtected : Bool
deriving DecidableEq, Repr

/-- An open try region (R318, R320). -/
structure Region where
  slot : Nat
  /-- `tryl`. -/
  perLane : Bool
  handler : Addr
  lane : Nat
  reg : Reg
  /-- The checkpoint. -/
  regs : Sparse Word
  em : Word
  gm : DWord
  sp : BitVec 21
  gs : Sparse DWord
  /-- The store buffer, oldest byte first. -/
  buffer : List HeldByte
  /-- The read set: scratchpad or memory, and the line's number. -/
  reads : List (Bool × Nat)
  failed : Word
  /-- Flags raised in the region, per lane (R97). -/
  flags : Sparse (BitVec 6)
  /-- An abort whose cause another agent gave, due at the next instruction boundary (R321). -/
  doomed : Option Nat
  /-- Writes of others to its lines are held (R325). -/
  holding : Bool
deriving DecidableEq, Repr

/-- What a save of a group captures (R384): everything, or the live registers and scratchpad ranges of a record (R72). -/
structure SaveMark where
  full : Bool
  live : DWord
  /-- Offset and length. -/
  ranges : List (Nat × Nat)
deriving DecidableEq, Repr

/-- A group (R33): registers, splits and group state. -/
structure Group where
  /-- Position in the block and resident slot on the core (R39). -/
  idx : Nat := 0
  slot : Nat := 0
  /-- Lane i of vn under key 32 n + i, default 0 (R29, R41). -/
  regs : Sparse Word := []
  splits : Sparse Split := []
  sp : BitVec 21 := 0
  fl : BitVec 6 := 0
  ts : Word := 0
  gs : Sparse DWord := []
  futures : List (Nat × Future) := []
  lr : List (Nat × LrRes) := []
  region : Option Region := none
  trap : Sparse DWord := []
  ldone : Sparse Word := []
  hscr : Sparse DWord := []
  /-- The split in handler mode (R377). -/
  handler : Option Nat := none
  /-- The phase in which the group has arrived, plus one, per barrier (R314). -/
  arrived : Sparse Nat := []
  waitCount : Nat := 0
  ended : Bool := false
  /-- Set once a save has captured the group (R384). -/
  saved : Option SaveMark := none
deriving DecidableEq, Repr

/-- An `ldsp` fill whose words have not all landed (R235). -/
structure Fill where
  obj : Nat
  /-- Writes to land, each the bytes of one aligned word: scratchpad offsets and values. -/
  left : List (List (Nat × Byte))
deriving DecidableEq, Repr

/-- A matrix instruction that has issued and not completed (R135, R155). -/
structure Work where
  /-- 0 `mma`, 1 `mmas`, 2 `desc`. -/
  kind : Nat
  started : Bool
  slot : Nat
  spl : Nat
  pc : Addr
  /-- The eight words of the register block (R161). -/
  words : List Word
  blk : Nat
  n : Nat
  m : Nat
  x : Nat
  sel : Nat
  gm : DWord
  /-- The index registers of an `mmas`, lane by lane from v(x) (R179). -/
  index : List Word
  /-- The row to which it has come, the flags of the rows it has done, and the rows from there on that it has fetched, in
  any order (R151, R152, R159, R177). -/
  row : Nat := 0
  flags : BitVec 6 := 0
  ahead : List (Nat × List Byte) := []
  /-- The tick at which it issued. -/
  stamp : Nat
deriving DecidableEq, Repr

/-- A reservation: its record (R139), the mark of R393 and its outstanding work. -/
structure Resv where
  w0 : DWord
  w1 : DWord
  poisoned : Bool := false
  work : List Work := []
deriving DecidableEq, Repr

/-- A resident block (R40, R294). -/
structure Block where
  core : Nat := 0
  bslot : Nat := 0
  grid : Nat := 0
  idx : Nat := 0
  spanIdx : Nat := 0
  asid : Nat := 0
  /-- Launch-record words 0 to 31 (R285) and the record's address. -/
  record : List DWord := []
  recordAddr : DWord := 0
  /-- Physical banks, the block's bank b at position b (R134). -/
  banks : List Nat := []
  /-- Bytes of scratchpad and banks by block offset, default 0 (R42, R134). -/
  bytes : Sparse Byte := []
  /-- Exponent tags by block offset, default 0 (R269). -/
  tags : Sparse (BitVec 12) := []
  resvs : List Resv := []
  /-- Phase count per barrier; 16 is the span barrier (R314). -/
  phases : Sparse Nat := []
  /-- Barrier objects (R315). -/
  objects : Sparse DWord := []
  fills : List Fill := []
  /-- The block's groups other than the issuing one. -/
  groups : List Group := []
  /-- Order of admission (R300). -/
  order : Nat := 0
  /-- Set once its Firkin fills are done (R281). -/
  started : Bool := false
deriving DecidableEq, Repr

/-- A translation held by a TLB (R192, R193). -/
structure TlbEntry where
  holder : Nat
  asid : Nat
  page : Nat
  frame : Nat
  leaf : DWord
  gen : Nat
deriving DecidableEq, Repr

/-- What a reduction request asks for (R189); `op` is 0 to 6 for add, min, max, and, or, xor, fadd; `ta` and `rm` are the
type and rounding mode it carries, `lanes` the lanes that it combines. -/
structure Reduction where
  op : Nat
  bytes : Nat
  value : DWord
  ta : Nat
  rm : Nat
  lanes : Word := 0
  /-- The flags of its rounding, and those of requests of the same instruction that have been accepted: all join fl when
  the instruction completes (R97, R189). -/
  flags : BitVec 6 := 0
  earned : BitVec 6 := 0
  /-- What the generators of its lanes held before their draws under SR, to which a lane that fails returns (R89, R376). -/
  seeds : List (Nat × DWord) := []
deriving DecidableEq, Repr

/-- A request on its way to its home, or rejected there and due for replay (R192, R220): a store's bytes, by their
distance from the lowest, or a reduction. The home of a scratchpad store is its bank, its place an offset (R325). -/
structure Request where
  asid : Nat
  gen : Nat
  va : Nat
  pa : Nat
  data : List (Nat × Byte)
  core : Nat
  slot : Nat
  spl : Nat
  pc : Addr
  lane : Nat
  cp : Nat
  rejected : Bool
  origin : Origin := {}
  red : Option Reduction := none
  spad : Bool := false
  /-- The fabric port on which it was last outstanding, where that has gone DOWN since (R371, R373). -/
  port : Option Nat := none
deriving DecidableEq, Repr

/-- A line of HBM that an L2 home slice holds newer than HBM does (R182, R197, R246). The memory's bytes are the slice's
contents. -/
structure L2Line where
  line : Nat
  /-- The bytes that HBM holds below it, and the key mark under which they lie there (R346). -/
  below : List Byte
  key : Nat
  /-- Does its writer's page compress writebacks (R196)? -/
  cmp : Bool
deriving DecidableEq, Repr

/-- A line held in a core's L1 data or instruction cache (R182, R200). -/
structure CacheLine where
  core : Nat
  line : Nat
  bytes : List Byte
  /-- A line of the host or of a peer window, which the hub directory tracks (R181, R375). -/
  peer : Bool := false
deriving DecidableEq, Repr

/-- Memory, the copies of it and the requests under way. -/
structure Memory where
  /-- Home contents by physical address (R181, R365). -/
  bytes : List Host.Cell := []
  l1 : List CacheLine := []
  l1i : List CacheLine := []
  tlb : List TlbEntry := []
  requests : List Request := []
  /-- Reduction requests that their home has accepted and not yet performed (R189). -/
  reductions : List Request := []
  /-- The dirty lines of the L2 home slices (R10, R182, R197). -/
  l2 : List L2Line := []
  /-- Clean lines that an L2 home slice still holds as they were before a write went to HBM beneath them, with their
  bytes (R197). -/
  stale : List (Nat × List Byte) := []
  /-- HBM lines whose format tag reads compressed (R196). -/
  compressed : List Nat := []
  /-- Key slot under which a line was last written (R346). -/
  lineKey : Sparse Nat := []
  /-- For a byte whose line has come under another key since it was written: the mark under which the line was held before,
  and the data unit that it was then (R346). -/
  past : Sparse (Nat × List Byte) := []
  /-- Uncorrectable errors present: structure code of R393, unit, place. -/
  upsets : List (Nat × Nat × Nat) := []
  /-- Bindings: address space, region, object (R207). -/
  bindings : List (Nat × Nat × Nat) := []
  /-- Lines of HBM that the host caches, as the hub directory tracks them (R360). -/
  hostLines : List Nat := []
  /-- Moves of others held at a home, with the lines that they reach (R325, R333). -/
  held : List (List Nat × Instr) := []
deriving DecidableEq, Repr

/-- The progress of a command that has begun (R259). -/
structure Run where
  /-- The next unit, and the addresses from which units are reckoned. -/
  unit : Nat := 0
  src : Nat := 0
  dst : Nat := 0
  /-- XLEN, flags, malformed chunks, source bytes taken, and the writes made. -/
  xlen : Nat := 0
  flags : BitVec 6 := 0
  bads : List Nat := []
  got : Nat := 0
  out : List (Nat × List Byte) := []
  /-- Words of the last unit still to be performed: places and bytes (R210). -/
  todo : List (List ((Nat × Nat) × Byte)) := []
  /-- The result that a collective writes (R264). -/
  data : List Byte := []
  /-- The reservation record that a bank-layout command writes by (R270). -/
  geom : Option (DWord × DWord) := none
  /-- XLEN before its last unit, to which it falls back where a word of that unit is refused (R259, R346). -/
  was : Nat := 0
deriving DecidableEq, Repr

/-- A command enqueued and not completed (R252, R255). -/
structure Command where
  /-- 0 `copy`, 1 `copyx`, 2 `gath`, 3 `coll`, 4 `qfence`. -/
  kind : Nat
  /-- The die of the queue and its index there (R250). -/
  die : Nat
  qn : Nat
  seq : Nat
  /-- Entry words 0 to 15 as the instruction wrote them. -/
  entry : List Word
  core : Nat
  slot : Nat
  bslot : Nat
  asid : Nat
  cancelled : Bool := false
  /-- Set once it has begun (R259). -/
  run : Option Run := none
  /-- Which instance of its collective it joins (R264). -/
  inst : Nat := 0
deriving DecidableEq, Repr

/-- A split whose next fetch may be one with a fetch that has been made at its pc, in another quadrant of its core (R301). -/
structure Shared where
  core : Nat
  /-- The quadrant that made the fetch. -/
  leader : Nat
  slot : Nat
  spl : Nat
  pc : Addr
deriving DecidableEq, Repr

/-- Per-core state beyond its blocks. -/
structure Cores where
  /-- Accumulator entries under key 16384 core + 32 line + entry (R145). -/
  acc : Sparse DWord := []
  rollbacks : Sparse Nat := []
  /-- Instruction fetches by core (R301, R395). -/
  fetches : Sparse Nat := []
  /-- The members of fused sets that have not fetched yet (R301). -/
  shared : List Shared := []
  /-- Core clk since the die's reset, by die (R357). -/
  clk : Sparse Nat := []
  /-- Threshold code and corrected-error count per bank (R354). -/
  trim : Sparse DWord := []
  /-- Quadrants whose last clk the capping loop has held (R406). -/
  paused : List Nat := []
  /-- RESIDUE traps (code 11) and STR 3 errors (code 3) of a core, with the module time in ns at which they arose (R394). -/
  softErrors : List (Nat × Nat × Nat) := []
deriving DecidableEq, Repr

/-- A grid that has been accepted and has not ended (R289-R292). -/
structure Grid where
  id : Nat
  queue : Nat
  asid : Nat
  vf : Nat
  record : List DWord
  recordAddr : DWord
  /-- Ticket counter (R289). -/
  ticket : Nat := 0
  /-- Lowest index not reported, and ended indices in the window (R291). -/
  reported : Nat := 0
  ended : List Nat := []
  nfail : Nat := 0
  badChunks : Nat := 0
  fillFlags : BitVec 6 := 0
  firstFail : Option (Nat × Nat × Nat) := none
  /-- Steal ranges: die, next, past the last (R292). -/
  ranges : List (Nat × Nat × Nat) := []
  isTask : Bool := false
  /-- A previous record of the queue that must end first (R289). -/
  after : Option Nat := none
deriving DecidableEq, Repr

/-- A task in the Tun (R295-R298). -/
structure Task where
  id : Nat
  queue : Nat
  pri : Nat
  asid : Nat
  vf : Nat
  record : List DWord
  recordAddr : DWord
  /-- Declared ranges: reads, writes, base, length (R296, R297). -/
  ranges : List (Bool × Bool × Nat × Nat)
  /-- Tasks it waits for. -/
  deps : List Nat
  dispatched : Bool := false
  /-- A previous record of the queue that must end first (R289). -/
  after : Option Nat := none
deriving DecidableEq, Repr

/-- Queues, grids, tasks and engines. -/
structure Hub where
  /-- Copy-queue records, word w of queue q of die e under 8 (256 e + q) + w (R251). -/
  cq : Sparse DWord := []
  commands : List Command := []
  /-- How many contributions each rank of a collective has enqueued (R264). -/
  collCount : Sparse Nat := []
  /-- Work-queue records, word w of queue q under 4 q + w (R282). -/
  wq : Sparse DWord := []
  /-- Taking order: the module time in ns at which a queue's oldest record began to wait (R284). -/
  wqSince : Sparse Nat := []
  grids : List Grid := []
  tasks : List Task := []
  arriving : List Task := []
  nextGrid : Nat := 0
  /-- The record last accepted from a work queue, its grid's or task's number plus one; 0 where none was or it was
  rejected (R289). -/
  lastRecord : Sparse Nat := []
  nextOrder : Nat := 0
deriving DecidableEq, Repr

/-- The session of the security engine with a function (R347): the module time in ns of its report, plus one, the tick
that names its ephemeral key, and the nonce of the report. -/
structure Session where
  made : Nat := 0
  key : Nat := 0
  nonce : List Byte := []
deriving DecidableEq, Repr

/-- Partitions, functions, address spaces, keys and meters. -/
structure Isolation where
  partition : Sparse DWord := []
  granule : Sparse (BitVec 8) := []
  vf : Sparse DWord := []
  hostRange : Sparse DWord := []
  space : Sparse DWord := []
  tvec : Sparse DWord := []
  saveva : Sparse DWord := []
  restores : Sparse Nat := []
  key : Sparse DWord := []
  /-- Key bits 255:0 and 511:256 of a slot (R346). -/
  keyBits : Sparse (BitVec 256 × BitVec 256) := []
  session : Sparse Session := []
  meter : Sparse DWord := []
  systemAccount : Nat := 0
  /-- Functions whose exhaustion has been reported and whose quota has not been raised above zero since (R352). -/
  spent : List Nat := []
  /-- The tick of the accounting tick at which the calibration in force took effect (R350, R398). -/
  calibration : Nat := 0
  /-- Does a recalibration wait for an accounting tick (R398)? -/
  recal : Bool := false
  violations : Sparse Nat := []
  /-- Fallback areas: base and length (R387). -/
  fallback : Sparse (Nat × Nat) := []
deriving DecidableEq, Repr

/-- Exports, peer windows, links and ports. -/
structure Links where
  exports : Sparse DWord := []
  serial : Sparse Nat := []
  peerSlot : Sparse DWord := []
  peerHandle : Sparse DWord := []
  /-- Link-state words (R374): 0-31 K-dies, 32-39 M-dies, 40-55 fabric ports, 56-59 host modules. -/
  state : Sparse DWord := []
  /-- Last good sequence number received and failures in a row, per port (R373). -/
  rxSeq : Sparse Nat := []
  fails : Sparse Nat := []
  retrains : Sparse Nat := []
  txAck : Sparse Nat := []
  /-- The SEQ that a port gives its next flit, and the flits in its replay buffer, port and SEQ, oldest first: those sent that
  no partner has acknowledged (R372, R373). -/
  txSeq : Sparse Nat := []
  replay : List (Nat × Nat) := []
  /-- Links whose dead-die timer runs, and links on which it ran before (R375). -/
  deadTimer : List Nat := []
  /-- The snoops that wait, each with its link, its line and, where the link is a port, the module snooped (R375). -/
  snoops : List (Nat × Nat × Nat) := []
  snoopLog : List Nat := []
  routes : Sparse Nat := []
  taps : Sparse DWord := []
  /-- Credits that a partner has returned, per port and virtual channel (4 port + VC), and the payloads in the receive
  staging buffers, oldest first, four flits to a port (R372, R427). -/
  credits : Sparse Nat := []
  staged : List (Nat × List Byte) := []
  /-- The last good SEQ of a port that has sent a NAK and waits for the replay, plus one (R373). -/
  naked : Sparse Nat := []
  /-- Lines of exports that another module caches, as the hub directory tracks them: module, line and export (R375). -/
  copies : List (Nat × Nat × Nat) := []
  /-- The handles of which the modules that import them have been told that they are revoked, oldest first (R370). -/
  revoked : List DWord := []
  /-- The device's answer to the last read of a host: its bytes, and whether they carry poison (R361). -/
  hostReply : Option (List Byte × Bool) := none
deriving DecidableEq, Repr

/-- A context that has been saved whole (R384-R386). -/
structure Saved where
  asid : Nat
  cause : Nat
  full : Bool
  /-- The blocks, with what the image does not name. -/
  blocks : List Block
  /-- The image's length, and the part of it in its partition's fallback area: partition, offset in the area, length
  (R387). -/
  len : Nat
  fallback : Option (Nat × Nat × Nat)
  /-- Where the recovery record lies (R364), bit 63 set when the address is physical. -/
  record : Nat
deriving DecidableEq, Repr

/-- An event-ring entry (R364): code, tag, time and two detail words. -/
structure Event where
  code : Nat
  tag : Word
  time : DWord
  det0 : DWord
  det1 : DWord
deriving DecidableEq, Repr

/-- A command under way (R408, R409): words 0 to 6 of its function's block as they stood at the doorbell, and whether it
waits for the end of what it has set going. -/
structure Running where
  fn : Nat
  words : List DWord
  begun : Bool := false
deriving DecidableEq, Repr

/-- The management controller, host interface, power and recovery. -/
structure Management where
  bootst : DWord := 0
  /-- Events of a function (the physical function is 1024), oldest first, and EWI, ERI, overflow counters. -/
  events : List (Nat × Nat × Event) := []
  ewi : Sparse Nat := []
  eri : Sparse Nat := []
  overflow : Sparse Nat := []
  msix : Sparse Nat := []
  /-- Command blocks, word w of function f under 8 f + w, and the commands under way, oldest doorbell first (R408, R409). -/
  command : Sparse DWord := []
  running : List Running := []
  status : Sparse DWord := []
  mailbox : Sparse Byte := []
  hdm : Sparse DWord := []
  /-- Bytes of the firmware slots, byte o of slot f under 2^32 f + o, and the length plus one of an image that the host has
  written to a slot; 0 where the slot holds the image it came with (R396). -/
  firmware : Sparse Byte := []
  images : Sparse Nat := []
  idleVerified : Bool := false
  powerCap : Nat := 2600
  dvfs : Sparse DWord := []
  /-- The cores on which the capping loop holds issue to one clk in two (R406). -/
  throttled : List Nat := []
  /-- The dies above 92 C whose points fall for their temperature, each with the capping reason that stands besides, plus
  one (R407). -/
  hot : Sparse Nat := []
  offline : List Nat := []
  offlineCores : List Nat := []
  /-- Contexts being removed: address space, cause, stage (R391). -/
  removing : List (Nat × Nat × Nat) := []
  /-- How much of a context a die had to bring to an end when the present stage of its removal began: address space, die,
  count (R392). -/
  stageCounts : List (Nat × Nat × Nat) := []
  /-- Pre-emption requests: address space and cause (R384). -/
  preempt : List (Nat × Nat) := []
  /-- Address spaces whose request for cause QUOTA has not yet found the groups that it saves at once (R384). -/
  asked : List Nat := []
  saved : List Saved := []
  spared : List Nat := []
  notices : List (Nat × Nat × Nat) := []
  errors : Sparse Nat := []
  /-- Module time base in ns (R357). -/
  ns : Nat := 0
deriving DecidableEq, Repr

/-- The state of the module. -/
structure State where
  /-- Moves of other agents that come next, oldest first. -/
  agenda : List Instr := []
  /-- Set when the current split issues next without a new choice of the quadrant. -/
  turn : Bool := false
  tick : Nat := 0
  /-- The issuing group, its block and its split. -/
  blk : Block := {}
  grp : Group := {}
  cur : Nat := 0
  /-- Every other resident block. -/
  blocks : List Block := []
  mem : Memory := {}
  cores : Cores := {}
  hub : Hub := {}
  iso : Isolation := {}
  links : Links := {}
  mgmt : Management := {}
deriving DecidableEq, Repr

/-- The machine right after a cold reset (18 R402): every record zero, no group, no context, memory zero. -/
def State.reset : State := {}

end Sys2Proof.Machine
end

