-- ==== Sys2Proof/Machine/Ops.lean ====
section
/-! DEFINITION. The named operations over the state: finite maps, records, registers and masks, translation, firewalls,
memory and scratchpad with everything a write touches, events, removal, and taking an exception. -/

namespace Sys2Proof.Machine

/-! ## Finite maps -/

/-- The value at key `n`, `dflt` where the map lists none. -/
def sget {α : Type} (dflt : α) : Sparse α → Nat → α
  | [], _ => dflt
  | (k, v) :: r, n => if n = k then v else sget dflt r n

/-- The map without key `n`. -/
def serase {α : Type} (m : Sparse α) (n : Nat) : Sparse α := m.filter fun e => e.1 != n

/-- The map with `v` listed at key `n`, keys rising. -/
def sput {α : Type} (n : Nat) (v : α) : Sparse α → Sparse α
  | [] => [(n, v)]
  | (k, u) :: r => if n < k then (n, v) :: (k, u) :: r else if n = k then (n, v) :: r else (k, u) :: sput n v r

/-- The map with value `v` at key `n`; the default is never listed. -/
def sset {α : Type} [DecidableEq α] (dflt : α) (m : Sparse α) (n : Nat) (v : α) : Sparse α :=
  if v = dflt then serase m n else sput n v m

/-- The map without the keys from `lo` up to, not including, `hi`. -/
def sclear {α : Type} (m : Sparse α) (lo hi : Nat) : Sparse α := m.filter fun e => !(lo ≤ e.1 && e.1 < hi)

/-- Are the keys of a map strictly rising and is no listed value the default? -/
abbrev Canonical {α : Type} [DecidableEq α] (dflt : α) (m : Sparse α) : Prop :=
  List.Pairwise (fun a b => a.1 < b.1) m ∧ ∀ e ∈ m, e.2 ≠ dflt

/-! ## Bit fields -/

/-- Bits `hi` to `lo` of a word as a number (R4). -/
def bits {n : Nat} (w : BitVec n) (hi lo : Nat) : Nat := w.toNat / 2 ^ lo % 2 ^ (hi + 1 - lo)

/-- The word with bits `hi` to `lo` replaced by `v`. -/
def setBits {n : Nat} (w : BitVec n) (hi lo v : Nat) : BitVec n :=
  BitVec.ofNat n (w.toNat - bits w hi lo * 2 ^ lo + v % 2 ^ (hi + 1 - lo) * 2 ^ lo)

/-- The number of one bits. -/
def popCount {n : Nat} (w : BitVec n) : Nat := ((List.range n).filter w.getLsbD).length

/-- A number as the `n` little-endian bytes it is stored in (R4). -/
def bytesOfNat (n v : Nat) : List Byte := (List.range n).map fun j => BitVec.ofNat 8 (v / 256 ^ j)

/-- The number that little-endian bytes stand for (R4). -/
def natOfBytes (bs : List Byte) : Nat := bs.foldr (fun b acc => b.toNat + 256 * acc) 0

/-- The chunk of a 64-byte line (R271). -/
def compressLine (bs : List Byte) : List Byte :=
  let ws := (List.range 16).map fun k => natOfBytes ((bs.drop (4 * k)).take 4)
  let h := (List.range 16).foldl (fun h k => if ws.getD k 0 = 0 then h else h + 2 ^ k) 0
  bytesOfNat 4 (h + (65535 - h) * 65536) ++ (ws.filter (· != 0)).flatMap (bytesOfNat 4)

/-- The distinct values of a list, each at its first place. -/
def distinct : List Nat → List Nat
  | [] => []
  | a :: r => a :: (distinct r).filter (· != a)

/-- A 64-bit value from its two register halves, low half first (R30). -/
def join64 (lo hi : Word) : DWord := hi ++ lo
/-- The low half of a 64-bit value (R30). -/
def low32 (x : DWord) : Word := x.extractLsb' 0 32
/-- The high half of a 64-bit value (R30). -/
def high32 (x : DWord) : Word := x.extractLsb' 32 32

/-! ## The mode register (R32) -/

/-- Guard enable and guard register. -/
def gmGE (gm : DWord) : Bool := gm.getLsbD 6
def gmGR (gm : DWord) : Nat := bits gm 5 0
/-- Element type codes A and B. -/
def gmTA (gm : DWord) : Nat := bits gm 13 9
def gmTB (gm : DWord) : Nat := bits gm 18 14
/-- Rounding mode, saturation, permute amount and broadcast lane. -/
def gmRM (gm : DWord) : Nat := bits gm 21 19
def gmSAT (gm : DWord) : Bool := gm.getLsbD 22
def gmK (gm : DWord) : Nat := bits gm 27 23
def gmBL (gm : DWord) : Nat := bits gm 32 28
/-- Trap enables TEIV to TESA in the bit order of fl. -/
def gmTE (gm : DWord) : BitVec 6 := gm.extractLsb' 33 6
/-- Strict lookahead. -/
def gmSLA (gm : DWord) : Bool := gm.getLsbD 39

/-- Does gm hold no reserved value (R32, R61)? -/
def gmLegal (gm : DWord) : Bool :=
  bits gm 63 40 == 0 && bits gm 8 7 == 0 && gmRM gm ≤ 5 && typeCode (gmTA gm) && typeCode (gmTB gm)

/-- `IsNat` (R100): TA is n8, n16 or n32. -/
def isNat (gm : DWord) : Bool := 14 ≤ gmTA gm && gmTA gm ≤ 16

/-! ## Splits, masks and registers -/

/-- The issuing split. -/
def State.spl (s : State) : Split := sget {} s.grp.splits s.cur

/-- The state with the issuing split replaced. -/
def State.setSpl (s : State) (p : Split) : State :=
  { s with grp := { s.grp with splits := sset {} s.grp.splits s.cur p } }

/-- Lanes as a mask. -/
def maskOfLanes (l : List Nat) : Word := l.foldl (fun m i => m ||| (1#32 <<< i)) 0

/-- The lowest lane of a mask: the control lane of a domain (R23), 0 for an empty one. -/
def lowLane (m : Word) : Nat := (lanes.find? m.getLsbD).getD 0

/-- The control lane of the issuing split (R23). -/
def State.ctl (s : State) : Nat := lowLane s.spl.dm

/-- Lane `i` of register `r` of a group (R29). -/
def Group.reg (g : Group) (r i : Nat) : Word := sget 0 g.regs (32 * r + i)

/-- The group with lane `i` of register `r` written. -/
def Group.setReg (g : Group) (r i : Nat) (v : Word) : Group := { g with regs := sset 0 g.regs (32 * r + i) v }

/-- Lane `i` of register `r` of the issuing group. -/
def State.reg (s : State) (r i : Nat) : Word := s.grp.reg r i

/-- The status of a split-table entry of a group. -/
def Group.splitAt (g : Group) (k : Nat) : Split := sget {} g.splits k

/-- The values besides the one it holds that the issuing split may find in a lane (key 32 r + i): those that instructions
of its own open windows (R57), or of other splits (R28), leave there until they have landed. -/
def State.unlanded (s : State) (key : Nat) : List Word :=
  (List.range 4).flatMap fun k =>
    ((s.grp.splitAt k).windows.filter fun w => k != s.cur || 0 < w.left).flatMap fun w =>
      (w.before.filter (·.1 == key)).map (·.2)

/-- One of a list of values, or the last named, freely (R57). -/
def oneOf (t site : Nat) : List Word → Word → Word
  | [], v => v
  | u :: rest, v => if Config.choice t site then u else oneOf t (site + 16384) rest v

/-- Lane `i` of register `r` as operand `pos` of the issuing split's instruction finds it: 0 the first source, 1 the
second, 2 the destination register read as a source, 3 the guard; each is resolved for itself, lane by lane (R28, R57). -/
def State.view (s : State) (pos r i : Nat) : Word :=
  oneOf s.tick (4096 * pos + 32 * r + i) (s.unlanded (32 * r + i)) (s.reg r i)

/-- The state with lane `i` of register `r` written. -/
def State.setReg (s : State) (r i : Nat) (v : Word) : State := { s with grp := s.grp.setReg r i v }

/-- A pair's lane written: low half in the even register (R30). -/
def State.setPair (s : State) (r i : Nat) (v : DWord) : State := (s.setReg r i (low32 v)).setReg (r + 1) i (high32 v)

/-- Values written to the lanes listed with them. -/
def State.setLanes (s : State) (r : Nat) : List (Nat × Word) → State
  | [] => s
  | (i, v) :: rest => (s.setReg r i v).setLanes r rest

/-- The effective mask of the issuing split (R25). -/
def State.effMask (s : State) : Word :=
  let p := s.spl
  p.em &&& (if gmGE p.gm then s.view 3 (gmGR p.gm) s.ctl else 0xFFFFFFFF)

/-- The lanes an instruction acts on: the effective mask, without the lanes that a trapped instruction under re-execution
has performed (R186, R383). -/
def State.activeMask (s : State) : Word :=
  match s.spl.redo with
  | (pc, done) :: _ => if pc = s.spl.pc then s.effMask &&& ~~~done else s.effMask
  | [] => s.effMask

/-- The lanes of a mask in ascending order (R7). -/
def lanesOf (m : Word) : List Nat := lanes.filter m.getLsbD

/-- The active lanes in ascending order (R7). -/
def State.active (s : State) : List Nat := lanesOf s.activeMask

/-- The lane that lane `i` reads through permute code `p` (R54). -/
def laneMap (gm : DWord) (p : Perm) (i : Nat) : Nat :=
  match p.toNat with
  | 0 => i
  | 1 => 0
  | 2 => gmBL gm
  | 3 => (i + gmK gm) % 32
  | 4 => i ^^^ gmK gm
  | 5 => 31 - i
  | 6 => i ^^^ 1
  | _ => (i + 1) % 32

/-- `Operand` (R54) of the first source. -/
def State.operand (s : State) (r : Nat) (p : Perm) (i : Nat) : Word := s.view 0 r (laneMap s.spl.gm p i)

/-- `Operand64` (R54) of the first source. -/
def State.operand64 (s : State) (r : Nat) (p : Perm) (i : Nat) : DWord :=
  join64 (s.operand r p i) (s.operand (r + 1) p i)

/-- `Operand` (R54) of the second source. -/
def State.operandB (s : State) (r : Nat) (p : Perm) (i : Nat) : Word := s.view 1 r (laneMap s.spl.gm p i)

/-- A lane of a destination register, or of the one register of a control instruction, read as a source. -/
def State.source (s : State) (r i : Nat) : Word := s.view 2 r i

/-- The lanes of the issuing split's domain: position k is `DomLane(k)` (R100). -/
def State.domLanes (s : State) : List Nat := lanesOf s.spl.dm

/-- The entries of the split table that are not FREE, by index (R37). -/
def Group.liveSplits (g : Group) : List Nat := (List.range 4).filter fun k => (g.splitAt k).st != .free

/-- Is the group split (R22)? -/
def Group.isSplit (g : Group) : Bool := 2 ≤ g.liveSplits.length

/-! ## Records of the device -/

/-- Address-space record word (R344). -/
def State.spaceWord (s : State) (asid w : Nat) : DWord := sget 0 s.iso.space (2 * asid + w)
/-- Current generation of an address space (R192, R344). -/
def State.gen (s : State) (asid : Nat) : Nat := bits (s.spaceWord asid 0) 15 0
/-- Is the address space valid, and does it run at level S (R344)? -/
def State.spaceValid (s : State) (asid : Nat) : Bool := (s.spaceWord asid 1).getLsbD 0
def State.sup (s : State) (asid : Nat) : Bool := (s.spaceWord asid 0).getLsbD 16
/-- The function that owns an address space, its key slot, and the function's partition (R343, R344). A number from
65536 on stands for a key slot itself, as a host access names one, and one from 131072 on for the slot that an export
entry names (R346). -/
def State.vfOf (s : State) (asid : Nat) : Nat := bits (s.spaceWord asid 1) 25 16
def State.keyOf (s : State) (asid : Nat) : Nat :=
  if 131072 ≤ asid then bits (sget 0 s.links.exports (4 * (asid - 131072))) 11 0
  else if 65536 ≤ asid then asid - 65536 else bits (s.spaceWord asid 1) 43 32
def State.vfWord (s : State) (vf w : Nat) : DWord := sget 0 s.iso.vf (4 * vf + w)
def State.partOf (s : State) (vf : Nat) : Nat := bits (s.vfWord vf 0) 5 0
/-- Partition-record word (R339). -/
def State.partWord (s : State) (p w : Nat) : DWord := sget 0 s.iso.partition (6 * p + w)
/-- The context tag of an address space (R337). -/
def State.tagOf (s : State) (asid : Nat) : Word :=
  BitVec.ofNat 32 (s.partOf (s.vfOf asid) * 2 ^ 26 + s.vfOf asid * 2 ^ 16 + asid)

/-- Near-memory cores are numbered from 512 in the model's core keys (R11). -/
def isNear (core : Nat) : Bool := 512 ≤ core
/-- The die of a core: K-dies 0 to 31, M-dies from 32 (R11). -/
def dieOf (core : Nat) : Nat := if isNear core then 32 + (core - 512) / 16 else core / 16

/-- Copy-queue record word (R251). -/
def State.cqWord (s : State) (die qn w : Nat) : DWord := sget 0 s.hub.cq (8 * (256 * die + qn) + w)
/-- The state with a copy-queue record word written. -/
def State.setCq (s : State) (die qn w : Nat) (v : DWord) : State :=
  { s with hub := { s.hub with cq := sset 0 s.hub.cq (8 * (256 * die + qn) + w) v } }
/-- Work-queue record word (R282). -/
def State.wqWord (s : State) (q w : Nat) : DWord := sget 0 s.hub.wq (4 * q + w)
/-- The state with a work-queue record word written. -/
def State.setWq (s : State) (q w : Nat) (v : DWord) : State :=
  { s with hub := { s.hub with wq := sset 0 s.hub.wq (4 * q + w) v } }

/-- The privilege levels (R338). -/
inductive Level where
  | user | handler | supervisor
deriving DecidableEq, Repr

/-- Is the issuing split in handler mode (R377)? -/
def State.inHandler (s : State) : Bool := s.grp.handler == some s.cur

/-- Does the issuing group hold a level (R338)? -/
def State.holds (s : State) : Level → Bool
  | .user => true
  | .handler => s.grp.handler.isSome || s.sup s.blk.asid
  | .supervisor => s.sup s.blk.asid

/-! ## Groups of every block -/

/-- The block with every group of its list changed. -/
def Block.mapGroups (b : Block) (f : Group → Group) : Block := { b with groups := b.groups.map f }

/-- Every group of the machine but the issuing one changed, with its core. -/
def State.mapOthers (s : State) (f : Nat → Group → Group) : State :=
  { s with
    blk := s.blk.mapGroups (f s.blk.core)
    blocks := s.blocks.map fun b => b.mapGroups (f b.core) }

/-- The block of the issuing group, its groups complete. -/
def State.wholeBlk (s : State) : Block := { s.blk with groups := s.grp :: s.blk.groups }

/-- Every resident block, its groups complete; that of the issuing group first. No block is issuing where `blk` carries
no launch record. -/
def State.allBlocks (s : State) : List Block := if s.blk.record.isEmpty then s.blocks else s.wholeBlk :: s.blocks

/-- Every resident group with its block. -/
def State.allGroups (s : State) : List (Block × Group) := s.allBlocks.flatMap fun b => b.groups.map fun g => (b, g)

/-- Puts the issuing group back among the resident blocks. -/
def State.unfocus (s : State) : State := { s with blocks := s.allBlocks, blk := {}, grp := {}, cur := 0 }

/-- Makes group `slot` of core `core` the issuing group, its split `spl` the issuing one. -/
def State.focus (s : State) (core slot spl : Nat) : Option State :=
  let bs := s.allBlocks
  match bs.find? fun b => b.core == core && b.groups.any (·.slot == slot) with
  | none => none
  | some b =>
    match b.groups.find? (·.slot == slot) with
    | none => none
    | some g =>
      some { s with
        blk := { b with groups := b.groups.filter (·.slot != slot) }
        grp := g
        cur := spl
        blocks := bs.filter fun c => !(c.core == core && c.bslot == b.bslot) }

/-- Makes block slot `bslot` of core `core` the block of the issuing group. -/
def State.focusBlock (s : State) (core bslot : Nat) : Option State :=
  let bs := s.allBlocks
  match bs.find? fun b => b.core == core && b.bslot == bslot with
  | none => none
  | some b =>
    some { s with
      blk := { b with groups := b.groups.drop 1 }
      grp := (b.groups.head?).getD {}
      cur := 0
      blocks := bs.filter fun c => !(c.core == core && c.bslot == bslot) }

/-! ## Events, firewalls and energy -/

/-- The physical function's number among the functions (R364). -/
def physicalFn : Nat := 1024

/-- Is an event ring full: EWI - ERI = 256, both counted modulo 2 to the 64 (R362, R364)? -/
def ringFull (ewi eri : Nat) : Bool :=
  (ewi + (18446744073709551616 - eri % 18446744073709551616)) % 18446744073709551616 = 256

/-- An event to a function's ring (R364): written at EWI, or counted as dropped when the ring is full. -/
def State.event (s : State) (fn : Nat) (code : Nat) (tag : Word) (det0 det1 : DWord) : State :=
  let m := s.mgmt
  let w := sget 0 m.ewi fn
  let r := sget 0 m.eri fn
  if ringFull w r then
    { s with mgmt := { m with overflow := sset 0 m.overflow fn ((sget 0 m.overflow fn + 1) % 18446744073709551616) } }
  else
    { s with
      mgmt := { m with
        events := m.events ++ [(fn, w, ⟨code, tag, BitVec.ofNat 64 m.ns, det0, det1⟩)]
        ewi := sset 0 m.ewi fn ((w + 1) % 18446744073709551616)
        msix := sset 0 m.msix fn (sget 0 m.msix fn + 1) } }

/-- Is a quota exhausted, as a two's-complement number (R343)? -/
def exhausted (q : DWord) : Bool := q.toInt ≤ 0

/-- The pre-emption requests with every valid address space of a function added for cause QUOTA (R352). -/
def State.quotaPreempts (s : State) (vf : Nat) : List (Nat × Nat) :=
  let base := bits (s.vfWord vf 1) 63 48
  s.mgmt.preempt ++ ((List.range (bits (s.vfWord vf 1) 47 32)).map (base + ·)).filterMap fun a =>
    if s.spaceValid a && s.vfOf a == vf && !(s.mgmt.preempt.any (·.1 == a)) &&
      !(s.mgmt.saved.any (·.asid == a)) then some (a, 0x0D) else none

/-- Grains charged to a function: USED and QUOTA; a charge that leaves QUOTA at or below zero has the function's contexts
pre-empted, and the first since the host raised it sends the event (R350, R352). -/
def State.chargeVf (s : State) (vf : Nat) (tag : Word) (g : Nat) : State :=
  let q := s.vfWord vf 2 - BitVec.ofNat 64 g
  let used := s.vfWord vf 3 + BitVec.ofNat 64 g
  let first := exhausted q && !s.iso.spent.contains vf
  let m := (s.event vf 1 tag q used).mgmt
  { s with
    mgmt := { s.mgmt with
      events := if first then m.events else s.mgmt.events
      ewi := if first then m.ewi else s.mgmt.ewi
      overflow := if first then m.overflow else s.mgmt.overflow
      msix := if first then m.msix else s.mgmt.msix
      preempt := if exhausted q then s.quotaPreempts vf else s.mgmt.preempt
      asked := if exhausted q then s.mgmt.asked ++ ((s.quotaPreempts vf).drop s.mgmt.preempt.length).map (·.1)
        else s.mgmt.asked }
    iso := { s.iso with
      vf := sset 0 (sset 0 s.iso.vf (4 * vf + 3) used) (4 * vf + 2) q
      spent := if first then vf :: s.iso.spent else s.iso.spent } }

/-- Grains charged to a context: its meter and its function (R350). -/
def State.chargeGrains (s : State) (asid g : Nat) : State :=
  let s1 := s.chargeVf (s.vfOf asid) (s.tagOf asid) g
  { s1 with iso := { s1.iso with meter := sset 0 s.iso.meter asid (sget 0 s.iso.meter asid + BitVec.ofNat 64 g) } }

/-- The DVFS word of a die (R354): 1,800 MHz where none is recorded. -/
def dvfsReset : DWord := BitVec.ofNat 64 (1800 * 2 ^ 48 + 1800 * 2 ^ 32)
def State.dvfsWord (s : State) (die : Nat) : DWord := sget dvfsReset s.mgmt.dvfs die

/-- The cost of a unit of a class on a die, at its point in MHz (R350, R351). -/
def State.costOf (s : State) (cls die : Nat) : Nat := Config.cost cls die s.iso.calibration (bits (s.dvfsWord die) 63 48)

/-- Units of a cost class charged to a context at a die (R350, R351). -/
def State.charge (s : State) (asid die cls units : Nat) : State := s.chargeGrains asid (s.costOf cls die * units)

/-- The energy of the lines, table entries and flits that an activity on a die touches on its way through the caches, the
tables and the links, by class (R350, R351): how many, caches and routes decide. -/
def State.trafficCost (s : State) (die : Nat) (classes : List Nat) : Nat :=
  (classes.map fun c => s.costOf c die * Config.traffic c s.tick).foldl (· + ·) 0

/-- The classes that a fetch, a translation or a packet may touch: L1, L2, HBM, the Chain and the links. -/
def wayClasses : List Nat := [10, 11, 12, 16, 17, 18, 19]

/-- That energy charged to a context. -/
def State.chargeTraffic (s : State) (asid die : Nat) : State := s.chargeGrains asid (s.trafficCost die wayClasses)

/-- The kinds of access a permission names (R191, R229, R370). -/
inductive Kind where
  | load | store | rmw | acquire | release | fetch
deriving DecidableEq, Repr

def Kind.reads : Kind → Bool
  | .load | .rmw | .acquire | .release => true
  | .store | .fetch => false

def Kind.writes : Kind → Bool
  | .store | .rmw | .acquire | .release => true
  | .load | .fetch => false

/-- Does a leaf allow an access of this kind (R191, R229)? -/
def leafAllows (leaf : DWord) (k : Kind) (handler : Bool) : Bool :=
  (!leaf.getLsbD 4 || handler) && (!k.reads || leaf.getLsbD 1) && (!k.writes || leaf.getLsbD 2) &&
    (k != .fetch || leaf.getLsbD 3)

/-- Does the rights field of a host range or of a peer slot allow an access of this kind (R365, R370)? Bit 0 read,
bit 1 write, bit 2 atomic; `ldacq` needs read and `strel` write. -/
def rightAllows (rights : Nat) (k : Kind) (atomicRight : Bool) : Bool :=
  match k with
  | .load | .acquire | .fetch => rights % 2 == 1
  | .store | .release => rights / 2 % 2 == 1
  | .rmw => if atomicRight then rights / 4 % 2 == 1 else rights % 4 == 3

/-- The units that issue requests: a core, a die's engine, or a unit of the hub. -/
inductive Unit' where
  | core (c : Nat) | engine (die eng : Nat) | hub
deriving DecidableEq, Repr

/-- Does an enabled partition own the issuing unit (R339, R341)? -/
def State.ownsUnit (s : State) (part : Nat) (u : Unit') : Bool :=
  (s.partWord part 5).getLsbD 0 &&
    match u with
    | .core c =>
      if isNear c then
        let n := c - 512
        if n < 64 then (s.partWord part 2).getLsbD n else (s.partWord part 3).getLsbD (n - 64)
      else (s.partWord part 0).getLsbD (32 + c / 16)
    | .engine die e => if die < 32 then (s.partWord part 0).getLsbD (32 + die)
        else die == 40 || (s.partWord part 1).getLsbD (8 * (die - 32) + e % 8)
    | .hub => true

/-- Is a key slot loaded and owned by a partition (R345, R346)? -/
def State.keyUsable (s : State) (slot part : Nat) : Bool :=
  let k := sget 0 s.iso.key slot
  bits k 63 62 == 1 && bits k 5 0 == part &&
    bits (s.partWord part 4) 11 0 ≤ slot && slot < bits (s.partWord part 4) 11 0 + bits (s.partWord part 4) 27 16

/-- The host ranges of a function (R365): base with rights, length. -/
def State.hostRanges (s : State) (vf : Nat) : List (Nat × Nat × Nat) :=
  (List.range 8).map fun k =>
    let b := sget 0 s.iso.hostRange (16 * vf + 2 * k)
    (b.toNat / 4 * 4, b.toNat % 4, (sget 0 s.iso.hostRange (16 * vf + 2 * k + 1)).toNat)

/-- Where a physical address leads (R365). -/
inductive Target where
  | hbm | none | host | peer (slot off : Nat)
deriving DecidableEq, Repr

/-- The target of a physical address (R365, R369). -/
def targetOf (pa : Nat) : Target :=
  if pa < 2 ^ 40 then .hbm
  else if pa < 2 ^ 50 then .none
  else if pa < 2 ^ 51 then .host
  else .peer (pa / 2 ^ 40 % 256) (pa % 2 ^ 40)

/-- Peer-window slot record (R369). -/
def State.peerRec (s : State) (kdie slot : Nat) : DWord := sget 0 s.links.peerSlot (256 * kdie + slot)

/-- Is the HBM of an M-die out of service: a die held offline at boot that has not been brought back (R399, R405)? -/
def State.hbmOut (s : State) (pa : Nat) : Bool :=
  s.mgmt.offline.contains (32 + pa / 2 ^ 37 % 8) && s.mgmt.bootst.getLsbD (24 + pa / 2 ^ 37 % 8)

/-- Do the firewalls and the peer-window check pass a request of an address space to a physical byte (R341, R346, R365,
R370)? A granule's entry names its partition and no K-die, so each K-die of the partition reaches it (R14, R366; log entry
74). -/
def State.passes (s : State) (asid : Nat) (u : Unit') (pa : Nat) (k : Kind) : Bool :=
  let vf := s.vfOf asid
  let part := s.partOf vf
  s.ownsUnit part u &&
    match targetOf pa with
    | .hbm =>
      let g := sget 0 s.iso.granule (pa / 2 ^ 30)
      g.getLsbD 7 && bits g 5 0 == part && s.keyUsable (s.keyOf asid) part && !s.hbmOut pa
    | .none => false
    | .host => (s.hostRanges vf).any fun (b, r, n) => b ≤ pa % 2 ^ 50 && pa % 2 ^ 50 < b + n && rightAllows r k false
    | .peer slot off =>
      let die := match u with
        | .core c => dieOf c
        | .engine d _ => d
        | .hub => 40
      let r := s.peerRec die slot
      bits r 63 62 == 1 && off < bits r 40 0 && pa / 2 ^ 48 % 8 == 0 && rightAllows (bits r 61 59) k true

/-- A denial by firewall `fw`, 0 the hub's and 1 + m that of M-die m: the violation counted and the event FWALL sent
(R341, R364). -/
def State.deniedBy (s : State) (fw asid addr requester : Nat) : State :=
  let s1 := { s with iso := { s.iso with violations := sset 0 s.iso.violations fw (sget 0 s.iso.violations fw + 1) } }
  let det1 := BitVec.ofNat 64 (requester + fw * 2 ^ 32)
  (s1.event (s.vfOf asid) 2 (s.tagOf asid) (BitVec.ofNat 64 addr) det1).event physicalFn 2 (s.tagOf asid)
    (BitVec.ofNat 64 addr) det1

/-- The denial of a request to a device-physical address: by the M-die's firewall where it is HBM, else by the hub's. The
requester is 0 for a core, 1 for an engine, 2 for a host window, 3 for a peer, 4 for the Chain, 5 for the save engine and 6
for a hub command processor (R364). -/
def State.denied (s : State) (asid addr requester : Nat) : State :=
  s.deniedBy (if addr < 2 ^ 40 then 1 + addr / 2 ^ 37 % 8 else 0) asid addr requester

/-! ## Home contents -/

/-- The byte of a physical address at its home, the L2 slice where it is HBM; memory not written reads zero (R402; log
entry 4). It is the plain value under the key that wrote it (R346). -/
def State.homeByte (s : State) (pa : Nat) : Byte := sget 0 s.mem.bytes pa

/-- The L2 entry of a line that its slice holds newer than HBM. -/
def State.l2Entry (s : State) (line : Nat) : Option L2Line := s.mem.l2.find? (·.line == line)

/-- The key bits of a slot, one more than their value so that 0 marks a line never written (R346). -/
def State.slotMark (s : State) (slot : Nat) : Nat :=
  let k := sget (0, 0) s.iso.keyBits slot
  k.1.toNat + k.2.toNat * 2 ^ 256 + 1

/-- The mark of an address space's key slot. -/
def State.keyMark (s : State) (asid : Nat) : Nat := s.slotMark (s.keyOf asid)

/-- Bytes of a width code (R226). -/
def widthBytes (w : BitVec 3) : Nat :=
  match w.toNat with
  | 0 | 1 => 1
  | 2 | 3 => 2
  | 4 => 4
  | 5 => 8
  | _ => 16

/-- A byte of a data unit written under one key mark as another reads it (R346): `b` under the same key. What no key has
written reads as its plain contents. -/
def rekeyed (pa from_ to_ : Nat) (unit : List Byte) (b : Byte) : Byte :=
  if from_ == 0 || from_ == to_ then b else Config.garble from_ to_ (pa / 64) unit (pa % 64)

/-- A byte of the home as the key that holds its line reads it (R346): a byte that was written before the line came under
that key is what the older data unit reads as. -/
def State.plainByte (s : State) (pa : Nat) : Byte :=
  match sget (0, []) s.mem.past pa with
  | (0, _) => s.homeByte pa
  | (m, unit) => rekeyed pa m (sget 0 s.mem.lineKey (pa / 64)) unit (s.homeByte pa)

/-- The bytes of a line as the key that holds it reads them. -/
def State.plainLine (s : State) (line : Nat) : List Byte := (List.range 64).map fun j => s.plainByte (64 * line + j)

/-- The data unit of a line's bytes: the line itself, or its chunk with zeros to 32 bytes (R346). -/
def dataUnit (packed : Bool) (bs : List Byte) : List Byte :=
  if packed then (compressLine bs ++ List.replicate 32 0).take 32 else bs

/-- A byte as a request of an address space reads it at the home: decrypted under its key (R346), and from another module as
the receive staging of a port passes it on (R427). -/
def State.readHome (s : State) (asid pa : Nat) : Byte :=
  let line := pa / 64
  let held := sget 0 s.mem.lineKey line
  let mark := s.keyMark asid
  if 2 ^ 58 ≤ pa then Config.staging s.tick pa (s.homeByte pa)
  else if targetOf pa != .hbm then s.homeByte pa
  else if held == mark then s.plainByte pa
  else rekeyed pa held mark (dataUnit (s.mem.compressed.contains line) (s.plainLine line)) (s.plainByte pa)

/-- A byte as a request reads it through the L2 slice, which may hold a clean line older than HBM (R197). -/
def State.readByte (s : State) (asid pa : Nat) : Byte :=
  match s.mem.stale.find? (·.1 == pa / 64) with
  | some c => if sget 0 s.mem.lineKey (pa / 64) == s.keyMark asid then c.2.getD (pa % 64) 0 else s.readHome asid pa
  | none => s.readHome asid pa

/-- A byte as a request of an address space reads it in HBM, past the L2 slice (R191, R197). -/
def State.readHbm (s : State) (asid pa : Nat) : Byte :=
  match s.l2Entry (pa / 64) with
  | some e =>
    rekeyed pa e.key (s.keyMark asid) (dataUnit (s.mem.compressed.contains e.line) e.below) (e.below.getD (pa % 64) 0)
  | none => s.readHome asid pa

/-- The address space whose key a request goes under: its own, or that of the export it reached (R346, R370). -/
def actAs (asid cp : Nat) : Nat := if cp / 4 % 2 ^ 17 = 0 then asid else cp / 4 % 2 ^ 17 - 1 + 131072
/-- The export entry under which a request's policy says it is performed, and the generation of the exporter's address
space under which it was translated there (R370). -/
def exportOf (cp : Nat) : Option Nat := if cp / 4 % 2 ^ 17 = 0 then none else some (cp / 4 % 2 ^ 17 - 1)
def exportGen (cp : Nat) : Nat := cp / 2 ^ 20 % 2 ^ 16
/-- Does the page of a request's policy compress new writebacks (R196)? -/
def compresses (cp : Nat) : Bool := cp.testBit 19
/-- Does a policy pass the caches by (R191)? -/
def uncached (cp : Nat) : Bool := cp % 4 == 1

/-- A byte at a place (physical address and policy) as a request of an address space reads it (R187, R191, R197). -/
def State.readAt (s : State) (asid : Nat) (at_ : Nat × Nat) : Byte :=
  if uncached at_.2 then s.readHbm (actAs asid at_.2) at_.1 else s.readByte (actAs asid at_.2) at_.1

/-- A byte at a place as its home finds it, which an update there starts from: what passes a port's receive staging comes
after (R188, R189, R427). -/
def State.oldAt (s : State) (asid : Nat) (at_ : Nat × Nat) : Byte :=
  if 2 ^ 58 ≤ at_.1 then s.homeByte at_.1 else s.readAt asid at_

/-- The byte that a place holds for accesses of its policy (R197). -/
def State.byteAt (s : State) (at_ : Nat × Nat) : Byte :=
  match (if uncached at_.2 then s.l2Entry (at_.1 / 64) else none) with
  | some e => e.below.getD (at_.1 % 64) 0
  | none => s.homeByte at_.1

/-- Why a line of memory cannot be read, as the structure of R393 that fails: an uncorrectable error (6 L2, 7 HBM), or a
compressed chunk that decrypts to a malformed one under the request's key, also where the L2 slice writes back a dirty
line of another key and fills it again (R196, R271, R346). -/
def State.unreadable (s : State) (asid : Nat) (at_ : Nat × Nat) : Option Nat :=
  let line := at_.1 / 64
  match s.mem.upsets.find? fun u => (u.1 == 6 || u.1 == 7) && u.2.1 == line with
  | some u => some u.1
  | none =>
    let mark := s.keyMark (actAs asid at_.2)
    let (held, packed) := match s.l2Entry line with
      | some e =>
        if uncached at_.2 then (e.key, s.mem.compressed.contains line)
        else (sget 0 s.mem.lineKey line, e.cmp && (compressLine (s.plainLine line)).length ≤ 32)
      | none => (sget 0 s.mem.lineKey line, s.mem.compressed.contains line)
    if held != 0 && held != mark && packed && Config.chunkBroken held mark line then some 7 else none

/-- The 64-bit word at a physical address, as the Chain reads a table entry (R190). -/
def State.readEntry (s : State) (asid pa : Nat) : DWord :=
  BitVec.ofNat 64 (natOfBytes ((List.range 8).map fun j => s.readByte asid (pa + j)))

/-! ## Translation (R190-R192) -/

/-- The first byte of the scratchpad alias (R183). -/
def aliasBase : Nat := 0x01FFFFFFFFE00000

/-- Do an entry's reserved bits read zero (R191)? -/
def entryClean (e : DWord) : Bool := bits e 63 60 == 0 && bits e 56 52 == 0 && bits e 11 6 == 0
/-- V, PS and PA of an entry (R191). -/
def entryV (e : DWord) : Bool := e.getLsbD 0
def entryPS (e : DWord) : Bool := e.getLsbD 5
def entryPA (e : DWord) : Nat := bits e 51 12 * 4096
/-- Cache policy of a leaf: 0 WB, 1 UC, 2 L2 (R191). -/
def leafCP (e : DWord) : Nat := bits e 59 58
/-- CP and, at bit 19, CMP of a leaf: the policy that a request carries (R191, R196). -/
def leafPolicy (e : DWord) : Nat := leafCP e + bits e 57 57 * 2 ^ 19

/-- A leaf whose page holds `2 ^ sh` bytes: the frame of the 4 KiB page of `va` (R190, R191). -/
def leafFrame (e : DWord) (va sh : Nat) : Option (Nat × DWord) :=
  if leafCP e = 3 then none
  else some ((entryPA e / 2 ^ sh * 2 ^ sh + va % 2 ^ sh) / 4096, e)

/-- The mark of a walk that a firewall has denied, with the address of the entry in the frame's place: a bit that no
leaf of a walk has set (R191, R341). -/
def deniedLeaf : DWord := 1#64 <<< 63
def walkDenied (leaf : DWord) : Bool := leaf.getLsbD 63

/-- A table entry at an address, read by a unit if the firewalls let it, and what follows from it (R190, R341). -/
def State.tableEntry (s : State) (u : Unit') (asid pa : Nat) (next : DWord → Option (Nat × DWord)) : Option (Nat × DWord) :=
  if s.passes asid u pa .load then next (s.readEntry asid pa) else some (pa, deniedLeaf)

/-- What follows from an entry that is valid and clean; nothing from another (R191). -/
def good (next : DWord → Option (Nat × DWord)) (e : DWord) : Option (Nat × DWord) :=
  if entryV e && entryClean e then next e else none

/-- Level 0 of the walk: the entry at the aligned index first (R190). -/
def State.walk0 (s : State) (u : Unit') (asid table va : Nat) : Option (Nat × DWord) :=
  let idx := va / 2 ^ 12 % 512
  s.tableEntry u asid (table + 8 * (idx / 16 * 16)) fun head =>
    if !entryClean head then none
    else if entryPS head then (if entryV head then leafFrame head va 16 else none)
    else s.tableEntry u asid (table + 8 * idx) (good fun e => if entryPS e then none else leafFrame e va 12)

/-- The walk of the Chain for a unit: 4 KiB frame and leaf of a virtual address, or nothing for PAGE (R190, R191). The
window of the scratchpad alias holds no translation (R183). -/
def State.walk (s : State) (u : Unit') (asid va : Nat) : Option (Nat × DWord) :=
  if !s.spaceValid asid || aliasBase ≤ va then none
  else
    s.tableEntry u asid (bits (s.spaceWord asid 0) 51 21 * 2 ^ 21 + 8 * (va / 2 ^ 39 % 2 ^ 18)) (good fun e3 =>
      if entryPS e3 then none
      else s.tableEntry u asid (entryPA e3 + 8 * (va / 2 ^ 30 % 512)) (good fun e2 =>
        if entryPS e2 then leafFrame e2 va 30
        else s.tableEntry u asid (entryPA e2 + 8 * (va / 2 ^ 21 % 512)) (good fun e1 =>
          if entryPS e1 then leafFrame e1 va 21 else s.walk0 u asid (entryPA e1) va)))

/-- The number of a unit as a TLB holder (R193). -/
def holderOf : Unit' → Nat
  | .core c => c
  | .engine die e => 1000 + 256 * die + e
  | .hub => 999

/-- A translation that a holder has cached under the current generation (R192). -/
def State.cached (s : State) (h asid page : Nat) : Option TlbEntry :=
  s.mem.tlb.find? fun e => e.holder == h && e.asid == asid && e.page == page && e.gen == s.gen asid

/-- The frame and leaf of a virtual address for a holder: its cached translation, or the walk (R190, R192). -/
def State.translate (s : State) (u : Unit') (asid va : Nat) : Option (Nat × DWord) :=
  if aliasBase ≤ va then none
  else
    match s.cached (holderOf u) asid (va / 4096) with
    | some e => some (e.frame, e.leaf)
    | none => s.walk u asid va

/-- The entries that the walk of a virtual address may read, by address (R190). -/
def State.walkEntries (s : State) (asid va : Nat) : List Nat :=
  let below := fun (e : DWord) => entryV e && entryClean e && !entryPS e
  let p3 := bits (s.spaceWord asid 0) 51 21 * 2 ^ 21 + 8 * (va / 2 ^ 39 % 2 ^ 18)
  let e3 := s.readEntry asid p3
  let p2 := entryPA e3 + 8 * (va / 2 ^ 30 % 512)
  let e2 := s.readEntry asid p2
  let p1 := entryPA e2 + 8 * (va / 2 ^ 21 % 512)
  let e1 := s.readEntry asid p1
  let idx := va / 2 ^ 12 % 512
  p3 :: (if below e3 then p2 :: (if below e2 then p1 :: (if below e1 then
    [entryPA e1 + 8 * (idx / 16 * 16), entryPA e1 + 8 * idx] else []) else []) else [])

/-- Lines taken back from the host, which the hub directory snoops before a device access is performed at them (R360). -/
def State.recall (s : State) (ls : List Nat) : State :=
  if s.mem.hostLines.isEmpty then s
  else { s with mem := { s.mem with hostLines := s.mem.hostLines.filter fun l => !ls.contains l } }

/-- The state whose holder has cached the translation of a virtual address (R193); a walk takes back from the host what it
reads (R360). -/
def State.fillTlb (s : State) (u : Unit') (asid va : Nat) : State :=
  match s.cached (holderOf u) asid (va / 4096) with
  | some _ => s
  | none =>
    let t := s.recall ((s.walkEntries asid va).map (· / 64))
    match s.walk u asid va with
    | none => t
    | some (f, l) =>
      if walkDenied l then t
      else { t with mem := { t.mem with tlb := ⟨holderOf u, asid, va / 4096, f, l, s.gen asid⟩ :: t.mem.tlb } }

/-! ## Checks of a lane's access (R183, R184, R229) -/

/-- Trap codes (R376). -/
def tILLEGAL : Nat := 0x01
def tICONV : Nat := 0x02
def tALIGN : Nat := 0x03
def tPAGE : Nat := 0x04
def tPROT : Nat := 0x05
def tBANKMODE : Nat := 0x06
def tLOOKAHEAD : Nat := 0x07
def tARITH : Nat := 0x08
def tSWTRAP : Nat := 0x09
def tBRK : Nat := 0x0A
def tRESIDUE : Nat := 0x0B
def tECC : Nat := 0x0C

/-- What the check of a lane's access finds: the bytes' places, each a physical address with the policy of its page, or a
trap code with the faulting address and whether it lies in the access's second part (R186, R229). -/
inductive Checked where
  | spad (off : Nat)
  | mem (places : List (Nat × Nat))
  | fault (code fva : Nat) (part2 : Bool) (denied : Bool) (str : Nat)
deriving DecidableEq, Repr

/-- Where a request is performed: a physical address with its cache policy, or how it fails. -/
inductive Place where
  | at_ (pa cp : Nat)
  | gone (code port : Nat) (denied : Bool)
deriving DecidableEq, Repr

/-- The module's own number among the modules, and the ports that reach another module (R371). -/
def State.ownModule (s : State) : Nat := sget 0 s.links.routes 8192
def State.portsTo (s : State) (m : Nat) : List Nat := (List.range 16).filter fun p => (sget 0 s.links.routes m).testBit p
/-- Does a fabric port remain for requests (R373, R374)? One that sleeps or wakes carries them, and one that trains keeps
its replay buffer and resumes; one that is DOWN does not. -/
def State.portUp (s : State) (p : Nat) : Bool := 1 ≤ bits (sget 0 s.links.state (40 + p)) 3 0

/-- The port that the fixed hash of a line selects among ports (R371). -/
def portFor (line : Nat) (ps : List Nat) : Nat := ps.getD (Config.portHash line ps.length % ps.length) 0

/-- The ports that a request of an address space to a module may take: those that reach it, of its partition's PORTS (R341,
R371). -/
def State.portsFor (s : State) (asid m : Nat) : List Nat :=
  (s.portsTo m).filter fun p => (s.partWord (s.partOf (s.vfOf asid)) 4).getLsbD (32 + p)

/-- The port that a request to a line of a module takes: the one that the hash selects among them, or among those that
remain where that one is DOWN (R371, R373). -/
def State.portOf (s : State) (asid m line : Nat) : Option Nat :=
  let p := portFor line (s.portsFor asid m)
  match (s.portsFor asid m).filter s.portUp with
  | [] => none
  | q :: rest => some (if s.portUp p && (s.portsFor asid m).contains p then p else portFor line (q :: rest))

/-- An error counted against a structure: corrected at key 2 k, uncorrectable at 2 k + 1 (R393). -/
def State.countError (s : State) (str : Nat) (bad : Bool) : State :=
  let k := 2 * str + bad.toNat
  { s with mgmt := { s.mgmt with errors := sset 0 s.mgmt.errors k (sget 0 s.mgmt.errors k + 1) } }

/-- A fault counted, where it says that no port is left to a request (R373, R393). -/
def State.countRoute (s : State) (code str : Nat) : State := if code = tECC && str % 256 = 9 then s.countError 9 true else s

/-- The module of a physical address of another module's memory, which the model holds by handle. -/
def moduleOf (pa : Nat) : Nat := (pa - 2 ^ 58) / 2 ^ 54

/-- Export-entry word, and its fields (R368). -/
def State.exportWord (s : State) (idx w : Nat) : DWord := sget 0 s.links.exports (4 * idx + w)
def exST (w0 : DWord) : Nat := bits w0 56 54
def exASID (w0 : DWord) : Nat := bits w0 31 16
/-- Fields of a handle (R367). -/
def hMod (h : DWord) : Nat := bits h 47 35
def hIdx (h : DWord) : Nat := bits h 34 21
def hSer (h : DWord) : Nat := bits h 20 0
def hChk (h : DWord) : Nat := bits h 63 48

/-- May an export reach a physical byte of its own module (R341, R346, R365, R370, R405)? The key slot that its record names
must be loaded and belong to the exporter's partition, and the byte's HBM be in service. -/
def State.exportPasses (s : State) (w0 : DWord) (pa : Nat) (k : Kind) : Bool :=
  let vf := s.vfOf (exASID w0)
  match targetOf pa with
  | .hbm => s.keyUsable (bits w0 11 0) (s.partOf vf) && !s.hbmOut pa
  | .host => (s.hostRanges vf).any fun (b, r, n) => b ≤ pa % 2 ^ 50 && pa % 2 ^ 50 < b + n && rightAllows r k false
  | _ => false

/-- Where an access under an export entry is performed at the exporter's hub (R370): the export's own translation, under
the key slot its record names, with cache policy `c`. -/
def State.exportPlace (s : State) (idx off : Nat) (k : Kind) (c : Nat) : Place :=
  let w0 := s.exportWord idx 0
  match s.translate .hub (exASID w0) (bits (s.exportWord idx 1) 56 0 + off) with
  | none => .gone tPAGE 0 false
  | some (frame, leaf) =>
    let pa := 4096 * frame + off % 4096
    if walkDenied leaf then .gone tPAGE 0 true
    else if !leafAllows leaf k false then .gone tPAGE 0 false
    else if !s.exportPasses w0 pa k then .gone tPROT 0 true
    else .at_ pa (c + 4 * (idx + 1) + leafPolicy leaf / 2 ^ 19 * 2 ^ 19 + s.gen (exASID w0) * 2 ^ 20)

/-- A request through a peer window (R370): under an export of this module at its own hub; another module's memory is held
apart by handle. Of the ports that reach that module the request needs one of its partition's PORTS (R341); where none of
them remains it fails, on the port that the hash of its line selects (R371, R373). -/
def State.peerPlace (s : State) (asid die slot off : Nat) (k : Kind) (cp : Nat) : Place :=
  let h := sget 0 s.links.peerHandle (256 * die + slot)
  let c := if cp % 4 = 2 then 1 else cp % 4
  if hMod h = s.ownModule then
    if exST (s.exportWord (hIdx h) 0) != 1 || sget 0 s.links.serial (hIdx h) != hSer h then .gone tPROT 0 false
    else s.exportPlace (hIdx h) off k c
  else
    let pa := 2 ^ 58 + (hMod h * 2 ^ 14 + hIdx h) * 2 ^ 40 + off
    let ps := s.portsFor asid (hMod h)
    if ps.isEmpty && !(s.portsTo (hMod h)).isEmpty then .gone tPROT 0 true
    else if ps.any s.portUp then .at_ pa c
    else .gone tECC (portFor (pa / 64) ps) false

/-- Where a physical address of an issuing unit is performed. -/
def State.place (s : State) (asid : Nat) (u : Unit') (pa : Nat) (k : Kind) (cp : Nat) : Place :=
  match targetOf pa with
  | .peer slot off =>
    let die := match u with
      | .core c => dieOf c
      | .engine d _ => d
      | .hub => 40
    s.peerPlace asid die slot off k cp
  | _ => .at_ pa cp

/-- The bytes of one page that an access touches, checked (R229, R341). -/
def State.checkPage (s : State) (u : Unit') (asid va n : Nat) (k : Kind) (handler part2 : Bool) : Checked :=
  match s.translate u asid va with
  | none => .fault tPAGE va part2 false 0
  | some (frame, leaf) =>
    let pa := 4096 * frame + va % 4096
    if walkDenied leaf then .fault tPROT va part2 true 0
    else if !leafAllows leaf k handler then .fault tPROT va part2 false 0
    else if !s.passes asid u pa k then .fault tPROT va part2 true 0
    else
      match s.place asid u pa k (leafPolicy leaf) with
      | .at_ pa1 cp => .mem ((List.range n).map fun j => (pa1 + j, cp))
      | .gone code port denied => .fault code va part2 denied (if code = tECC then 9 + 256 * port else 0)

/-- `Check` (R229) for an access of `n` bytes at `va`. Of two pages the first is judged wholly before the second, so that its
PROT comes before a PAGE of the second (log entry 96). -/
def State.check (s : State) (u : Unit') (asid : Nat) (va : Nat) (n : Nat) (k : Kind) (handler : Bool) : Checked :=
  if 2 ^ 57 ≤ va then .fault tPAGE va false false 0
  else if aliasBase ≤ va then
    if k == .rmw || k == .acquire || k == .release then .fault tPROT va false false 0 else .spad (va - aliasBase)
  else if (k == .rmw || k == .acquire || k == .release) && va % n != 0 then .fault tALIGN va false false 0
  else
    let first := min n (4096 - va % 4096)
    match s.checkPage u asid va first k handler false with
    | .mem ps =>
      if first = n then .mem ps
      else
        match s.checkPage u asid (va + first) (n - first) k handler true with
        | .mem ps2 => .mem (ps ++ ps2)
        | f => f
    | f => f

/-- An access of a unit within one page, before it is made: its translation cached, its lines taken back from the host (R193,
R360), and the places to which it goes. -/
def State.reach (s : State) (u : Unit') (asid va n : Nat) : State × List Nat :=
  let t := if va < aliasBase then s.fillTlb u asid va else s
  match t.check u asid va n .load false with
  | .mem ps => (t.recall (ps.map (·.1 / 64)), ps.map (·.1))
  | _ => (t, [])

/-- A denial of the access of a peer at the exporter's hub: of a table entry of its walk, or of the byte it reaches, under
the export's address space (R341, R364, R370). -/
def State.noteExportDenial (s : State) (idx off : Nat) : State :=
  let asid := exASID (s.exportWord idx 0)
  match s.translate .hub asid (bits (s.exportWord idx 1) 56 0 + off) with
  | some (f, leaf) => if walkDenied leaf then s.denied asid f 4 else s.denied asid (4096 * f + off % 4096) 3
  | none => s

/-- A denial of an access by the firewalls, counted and reported with the physical address of the access or of the table
entry that the Chain was denied (R341, R364); one that the importer's own firewall passes was denied at the exporter. -/
def State.noteFault (s : State) (u : Unit') (asid va requester : Nat) : State :=
  match s.translate u asid va with
  | none => s
  | some (f, leaf) =>
    let pa := 4096 * f + va % 4096
    if walkDenied leaf then s.denied asid f 4
    else
      let die := match u with
        | .core c => dieOf c
        | .engine d _ => d
        | .hub => 40
      match targetOf pa with
      | .peer slot off =>
        let h := sget 0 s.links.peerHandle (256 * die + slot)
        if [Kind.load, .store, .rmw].any (s.passes asid u pa) && hMod h = s.ownModule then s.noteExportDenial (hIdx h) off
        else s.denied asid pa requester
      | _ => s.denied asid pa requester

/-- The same for an access that a unit is about to make. -/
def State.noteDeniedAt (s : State) (u : Unit') (asid va n : Nat) (k : Kind) (requester : Nat) : State :=
  match s.check u asid va n k false with
  | .fault _ fva _ true _ => s.noteFault u asid fva requester
  | _ => s

/-- The core of the issuing group as a requester. -/
def State.me (s : State) : Unit' := .core s.blk.core

/-! ## Requests under way (R192, R194, R202) -/

/-- Are a request's translation, and the one that the hub made for it under an export, of the current generations
(R192, R370)? -/
def State.fresh (s : State) (asid gen cp : Nat) : Bool :=
  gen == s.gen asid && match exportOf cp with
    | some i => exportGen cp == s.gen (exASID (s.exportWord i 0))
    | none => true

/-- Do two requests come from one split? -/
def Request.sameSplit (q r : Request) : Bool := q.core == r.core && q.slot == r.slot && q.spl == r.spl

/-- The lines of memory or scratchpad to which a request goes. -/
def Request.lines (r : Request) : List Nat := distinct (r.pa / 64 :: r.data.map fun b => (r.pa + b.1) / 64)

/-- Might two requests of one split act on one line: both at their places, or by the place in its page of one that is to
be translated again (R202, R220)? -/
def Request.meetsLine (q : Request) (spad : Bool) (line : Nat) : Bool :=
  q.spad == spad && (q.lines.contains line || (q.rejected && q.va / 64 % 64 == line % 64))

/-- A request put back among those that wait, before what its split issued after it (R202). -/
def insertRequest (r : Request) (rs : List Request) : List Request :=
  let before := rs.takeWhile fun q => !(q.sameSplit r && r.origin.stamp < q.origin.stamp)
  before ++ r :: rs.drop before.length

/-- The lanes for which a request acts. -/
def Request.lanes (r : Request) : Word :=
  match r.red with
  | some d => d.lanes
  | none => maskOfLanes [r.lane]

/-! ## Reading memory -/

/-- The L1 copy of a line on a core (R200). -/
def State.l1Line (s : State) (core line : Nat) : Option (List Byte) :=
  (s.mem.l1.find? fun c => c.core == core && c.line == line).map (·.bytes)

/-- Does a plain load of a place meet an L1 copy of the core (R191, R200)? -/
def State.hitsL1 (s : State) (core : Nat) (at_ : Nat × Nat) (home : Bool) : Bool :=
  at_.2 % 4 = 0 && !home && (s.l1Line core (at_.1 / 64)).isSome

/-- A byte as a plain load reads it: from the core's L1 copy where the page's policy lets it be cached and a copy is
held, else from the home (R200). -/
def State.loadByte (s : State) (asid core : Nat) (at_ : Nat × Nat) (home : Bool) : Byte :=
  if s.hitsL1 core at_ home then ((s.l1Line core (at_.1 / 64)).getD []).getD (at_.1 % 64) 0 else s.readAt asid at_

/-- The L1 filled with the lines of places that it does not hold, where their policy lets it (R182, R200). -/
def State.fillL1 (s : State) (asid core : Nat) : List (Nat × Nat) → State
  | [] => s
  | (line, cp) :: rest =>
    if cp % 4 != 0 || (s.l1Line core line).isSome then s.fillL1 asid core rest
    else
      let bs := (List.range 64).map fun j => s.readByte (actAs asid cp) (64 * line + j)
      let c : CacheLine := ⟨core, line, bs, cp / 4 % 2 ^ 17 != 0 || targetOf (64 * line) != .hbm⟩
      State.fillL1 { s with mem := { s.mem with l1 := c :: s.mem.l1 } } asid core rest

/-- A core's L1 copies discarded, as an acquire or fence of die scope or wider makes later reads current (R182, R206). -/
def State.dropL1 (s : State) (core : Nat) : State :=
  { s with mem := { s.mem with l1 := s.mem.l1.filter (·.core != core) } }

/-! ## Links and snoops (R374, R375) -/

/-- The link-state word of a link: 0-31 K-dies, 32-39 M-dies, 40-55 fabric ports, 56-59 host modules. -/
def State.linkWord (s : State) (l : Nat) : DWord := sget 0 s.links.state l
/-- ST of a link: 0 DOWN, 1 TRAINING, 2 ACTIVE, 3 SLEEP, 4 WAKING. -/
def State.linkST (s : State) (l : Nat) : Nat := bits (s.linkWord l) 3 0

/-- Does the dead-die timer of a link run, and did it run before (R375)? Kept as the link's number, and 100 more. -/
def State.timerRuns (s : State) (l : Nat) : Bool := s.links.deadTimer.contains l
def State.timerRan (s : State) (l : Nat) : Bool := s.links.deadTimer.contains (l + 100)

/-- A link in a state: the dead-die timer starts where a snoop waits for a link that is neither WAKING nor ACTIVE, and is
cleared where the link enters one of them (R375). -/
def State.setLink (s : State) (l st : Nat) : State :=
  let live := st == 2 || st == 4
  let rest := s.links.deadTimer.filter (· != l)
  let timers :=
    if live then (if s.timerRuns l && !s.timerRan l then rest ++ [l + 100] else rest)
    else if (s.links.snoops.any (·.1 == l)) && !s.timerRuns l then s.links.deadTimer ++ [l]
    else s.links.deadTimer
  { s with links := { s.links with state := sset 0 s.links.state l (setBits (s.linkWord l) 3 0 st), deadTimer := timers } }

/-- L1 copies of a line on a die dropped by a snoop (R375). -/
def State.dropCopies (s : State) (die line : Nat) : State :=
  { s with mem := { s.mem with l1 := s.mem.l1.filter fun c => !(dieOf c.core == die && c.line == line) } }

/-- Every snoop that waits for a link done with a log code: 0 DIRECT, 1 WOKEN, 2 RETRAINED, 3 DEAD (R375). -/
def State.endSnoops (s : State) (l code : Nat) : State :=
  let mine := s.links.snoops.filter (·.1 == l)
  let t := mine.foldl (fun (u : State) x => if l < 40 then u.dropCopies l x.2.1 else u) s
  { t with
    links := { t.links with
      snoops := t.links.snoops.filter (·.1 != l)
      snoopLog := t.links.snoopLog ++ mine.map fun _ => code
      deadTimer := t.links.deadTimer.filter fun x => x != l && x != l + 100 } }

/-- A snoop of a line over a link, of a module where the link is a port: delivered at once over an ACTIVE link; else it waits,
waking a link that sleeps (R375). -/
def State.snoop (s : State) (link line module : Nat) : State :=
  let t := { s with links := { s.links with snoops := s.links.snoops ++ [(link, line, module)] } }
  match s.linkST link with
  | 2 => t.endSnoops link 0
  | 3 => t.setLink link 4
  | st => t.setLink link st

/-- The hub directory's snoops of a line that other modules cache under an export, one for each (R181, R375). -/
def State.snoopAway (s : State) (line : Nat) : State :=
  let u := { s with links := { s.links with copies := s.links.copies.filter (·.2.1 != line) } }
  (s.links.copies.filter (·.2.1 == line)).foldl (fun u x =>
    if (u.portsTo x.1).isEmpty then u else u.snoop (40 + portFor line (u.portsTo x.1)) line x.1) u

/-- The hub directory's snoops of a line that has been written: one for each die on which another core holds a copy of
it as a host or peer line, and those of other modules (R181, R375). -/
def State.snoopOthers (s : State) (core line : Nat) : State :=
  let dies := distinct ((s.mem.l1.filter fun c => c.peer && c.line == line && c.core != core).map fun c => dieOf c.core)
  (dies.foldl (fun t d => t.snoop d line 0) s).snoopAway line

/-! ## Writing memory -/

/-- Who performs a write: a split of a core's slot, or another agent (R199). -/
abbrev Who := Option (Nat × Nat × Nat)

/-- A group after another agent has written a line: LR reservations on it lost (R238), an open region that has read or
buffered it doomed to CONFLICT (R218), unless it is the writer's own group. -/
def Group.sawWrite (core : Nat) (who : Who) (spad : Bool) (line : Nat) (g : Group) : Group :=
  let mine := match who with
    | some (c, sl, _) => c == core && sl == g.slot
    | none => false
  let g1 := if spad then g else { g with lr := g.lr.filter fun r => r.2.granule != line }
  match g1.region with
  | none => g1
  | some r =>
    if !mine && (r.reads.contains (spad, line) || r.buffer.any fun h => h.spad == spad && h.addr / 64 == line) then
      { g1 with region := some { r with doomed := some 2 } }
    else g1

/-- A split rolled back to its incomplete fence (R209). -/
def Group.rollback (g : Group) (k : Nat) : Group :=
  let p := g.splitAt k
  match p.spec with
  | none => g
  | some f =>
    let keep := lanes.filter fun i => !p.dm.getLsbD i
    let regs := (List.range 64).foldl (fun m r => keep.foldl (fun m i =>
      sset 0 m (32 * r + i) (sget 0 g.regs (32 * r + i))) m) f.regs
    let p1 : Split := { p with pc := f.pc, em := f.em, gm := f.gm, windows := f.windows, spec := none, wait := none,
                               pending := p.pending.filter (·.stamp < f.stamp) }
    let h := if f.alone then { g with fl := f.fl, gs := f.gs, sp := f.sp } else g
    { h with regs := regs, splits := sset {} g.splits k p1 }

/-- Flags of an instruction of a split that land once it has issued on: an incomplete fence behind that instruction keeps them
in a rollback (R97, R209). -/
def Group.lateFlags (g : Group) (k : Nat) (f : BitVec 6) : Group :=
  match (g.splitAt k).spec with
  | none => { g with fl := g.fl ||| f }
  | some q =>
    { g with fl := g.fl ||| f, splits := sset {} g.splits k { g.splitAt k with spec := some { q with fl := q.fl ||| f } } }

/-- A group whose splits roll back when another agent has written a line they monitor (R209). -/
def Group.rollbacks (core : Nat) (who : Who) (spad : Bool) (line : Nat) (g : Group) : Group :=
  (List.range 4).foldl (fun g k =>
    let mine := who == some (core, g.slot, k)
    match (g.splitAt k).spec with
    | some f => if !mine && f.monitored.contains (spad, line) then g.rollback k else g
    | none => g) g

/-- How many splits of a group would roll back (R209): the fence-rollback counter of its core counts them. -/
def Group.rollbackCount (core : Nat) (who : Who) (spad : Bool) (line : Nat) (g : Group) : Nat :=
  ((List.range 4).filter fun k =>
    match (g.splitAt k).spec with
    | some f => who != some (core, g.slot, k) && f.monitored.contains (spad, line)
    | none => false).length

/-- Every group told of a write to a line at its home, of a scratchpad line those of the issuing block (R209, R218,
R238). -/
def State.notify (s : State) (who : Who) (spad : Bool) (line : Nat) : State :=
  let f := fun core g => (Group.sawWrite core who spad line g).rollbacks core who spad line
  let count := fun (bg : Block × Group) => (bg.1.core, Group.rollbackCount bg.1.core who spad line bg.2)
  let told := if spad then s.wholeBlk.groups.map fun g => (s.blk, g) else s.allGroups
  let rb := told.foldl (fun m bg =>
    let c := count bg
    sset 0 m c.1 (sget 0 m c.1 + c.2)) s.cores.rollbacks
  let s1 := { s with grp := f s.blk.core s.grp, cores := { s.cores with rollbacks := rb } }
  if spad then { s1 with blk := s1.blk.mapGroups (f s.blk.core) } else s1.mapOthers f

/-- The format tag of a line of HBM at its writeback (R196, R271): compressed where its writer's page asks for it and
the chunk takes at most 32 bytes. -/
def State.tagLine (s : State) (line : Nat) (cmp : Bool) (bs : List Byte) : State :=
  let rest := s.mem.compressed.filter (· != line)
  { s with mem := { s.mem with compressed := if cmp && (compressLine bs).length ≤ 32 then line :: rest else rest } }

/-- A dirty line written back to HBM in the format that its writer chose (R196, R246). -/
def State.writeBackLine (s : State) (e : L2Line) : State := s.tagLine e.line e.cmp (s.plainLine e.line)

/-- The dirty lines that a test names written back and clean (R196, R246). A clean line older than HBM leaves the slice, so
that both views of it return the same bytes (R197). -/
def State.clean (s : State) (named : Nat → Bool) : State :=
  let t := (s.mem.l2.filter fun e => named e.line).foldl State.writeBackLine s
  { t with mem := { t.mem with
    l2 := s.mem.l2.filter fun e => !named e.line
    stale := s.mem.stale.filter fun c => !named c.1 } }

/-- The L2 entry of a line replaced, or one more. -/
def State.setL2 (s : State) (e : L2Line) : State :=
  { s with mem := { s.mem with
    l2 := if (s.l2Entry e.line).isSome then s.mem.l2.map fun x => if x.line = e.line then e else x else e :: s.mem.l2 } }

/-- A line read under the key that holds it and held under another (R346). -/
def State.rekey (s : State) (line mark : Nat) : State :=
  let m := sget 0 s.mem.lineKey line
  if m = mark then s
  else
    { s with
      mem := { s.mem with
        lineKey := sset 0 s.mem.lineKey line mark
        stale := s.mem.stale.filter (·.1 != line)
        past := if m = 0 then s.mem.past
          else
            let unit := dataUnit (s.mem.compressed.contains line) (s.plainLine line)
            (List.range 64).foldl (fun p j => sput (64 * line + j) (m, unit) p) s.mem.past } }

/-- Has the home slice of a line room for one more line (32 MiB for each M-die, R10)? A slice without room writes the
line that is written back at once. -/
def State.l2Room (s : State) (line : Nat) : Bool :=
  (s.mem.l2.filter fun e => 64 * e.line / 2 ^ 37 == 64 * line / 2 ^ 37).length < 524288

/-- A clean line that the L2 slice may hold as a write goes to HBM beneath it: it keeps its bytes, freely (R197). -/
def State.keepStale (s : State) (mark line : Nat) : State :=
  if sget 0 s.mem.lineKey line == mark && !(s.mem.stale.any (·.1 == line)) then
    { s with mem := { s.mem with
      stale := if Config.choice s.tick (2 ^ 24 + line) then (line, s.plainLine line) :: s.mem.stale else s.mem.stale } }
  else s

/-- A clean line older than HBM discarded by its slice. -/
def State.dropStale (s : State) (line : Nat) : State :=
  { s with mem := { s.mem with stale := s.mem.stale.filter (·.1 != line) } }

/-- A line of HBM made ready for a write of a policy under a key mark (R346): with UC in HBM, else in the L2 slice, which
writes back a line that another key holds. A write to the slice finds no line there older than HBM (log entry 47). -/
def State.openLine (s : State) (mark cp line : Nat) : State :=
  if targetOf (64 * line) != .hbm then s
  else
    match s.l2Entry line with
    | some e =>
      if uncached cp then
        let unit := dataUnit (s.mem.compressed.contains line) e.below
        s.setL2 { e with below := (List.range 64).map fun j => rekeyed (64 * line + j) e.key mark unit (e.below.getD j 0)
                         key := mark }
      else
        let m := sget 0 s.mem.lineKey line
        if m = mark then s.setL2 { e with cmp := compresses cp }
        else
          ((s.writeBackLine e).setL2 { e with below := s.plainLine line, key := m, cmp := compresses cp }).rekey line mark
    | none =>
      if uncached cp then (s.keepStale mark line).rekey line mark
      else if !s.l2Room line then (s.dropStale line).rekey line mark
      else ((s.dropStale line).setL2 ⟨line, s.plainLine line, sget 0 s.mem.lineKey line, compresses cp⟩).rekey line mark

/-- One byte written at a place: in the L2 slice or the other home, with UC under it (R187, R191), and in the core's own
L1 copy (R201). -/
def State.pokeByte (s : State) (core : Nat) (at_ : Nat × Nat) (v : Byte) : State :=
  let line := at_.1 / 64
  let j := at_.1 % 64
  let under := uncached at_.2 && (s.l2Entry line).isSome
  { s with
    mem := { s.mem with
      bytes := if under then s.mem.bytes else sset 0 s.mem.bytes at_.1 v
      past := if under then s.mem.past else serase s.mem.past at_.1
      l2 := if under then s.mem.l2.map fun e => if e.line = line then { e with below := e.below.set j v } else e
        else s.mem.l2
      l1 := s.mem.l1.map fun c => if c.core == core && c.line == line then { c with bytes := c.bytes.set j v } else c } }

/-- Bytes written at their places, one after another. -/
def State.pokeBytes (s : State) (core : Nat) : List ((Nat × Nat) × Byte) → State
  | [] => s
  | (a, v) :: rest => (s.pokeByte core a v).pokeBytes core rest

/-- The format tag of a line after a write that has reached HBM (R187, R196). -/
def State.sealLine (s : State) (cp line : Nat) : State :=
  if targetOf (64 * line) != .hbm then s
  else
    match s.l2Entry line with
    | some e => if uncached cp then s.tagLine line (compresses cp) e.below else s
    | none => s.tagLine line (compresses cp) (s.plainLine line)

/-- A write performed at its home: every covered byte takes its value at one time, the bytes in the order they stand, and
every agent that watches the lines is told (R185, R199, R201). A write of a whole line makes an uncorrectable error of it
good (R393). The hub directory snoops the copies of a host or peer line that other cores hold (R181, R375), and takes back
a line of HBM that the host caches (R360). -/
def State.perform (s : State) (who : Who) (asid core : Nat) (ws : List ((Nat × Nat) × Byte)) : State :=
  let ls := (ws.map fun w => (w.1.1 / 64, w.1.2)).eraseDups
  let whole := fun (l : Nat) => (List.range 64).all fun j => ws.any (·.1.1 == 64 * l + j)
  let s1 := ls.foldl (fun t x => t.openLine (t.keyMark (actAs asid x.2)) x.2 x.1) s
  let s2 := { s1 with mem := { s1.mem with
    upsets := s1.mem.upsets.filter fun u => !((u.1 == 6 || u.1 == 7) && whole u.2.1)
    hostLines := s1.mem.hostLines.filter fun l => !(ls.any (·.1 == l)) } }
  let s3 := ls.foldl (fun t x => t.sealLine x.2 x.1) (s2.pokeBytes core ws)
  (distinct (ls.map (·.1))).foldl (fun t l => (t.notify who false l).snoopOthers core l) s3

/-! ## Scratchpad and banks -/

/-- The block's bank count (R166, R234). -/
def Block.bankCount (b : Block) : Nat := b.banks.length

/-- The number of scratchpad bytes the block owns (R13, R234). -/
def Block.spadSize (b : Block) : Nat := if isNear b.core then min (32768 * b.bankCount) 0x100000 else 32768 * b.bankCount

/-- Fields of a reservation record (R139). -/
def Resv.handle (r : Resv) : Nat := bits r.w1 63 48
def Resv.mode (r : Resv) : Nat := bits r.w1 31 30
def Resv.anch (r : Resv) : Int := (r.w1.extractLsb' 18 12).toInt
def Resv.accb (r : Resv) : Nat := bits r.w1 17 9
def Resv.accl (r : Resv) : Nat := bits r.w1 8 0
def Resv.first (r : Resv) : Nat := bits r.w0 63 58
def Resv.count (r : Resv) : Nat := bits r.w0 57 52 + 1
def Resv.ta (r : Resv) : Nat := bits r.w0 51 47
def Resv.tb (r : Resv) : Nat := bits r.w0 46 42
def Resv.blen (r : Resv) : Nat := bits r.w0 41 40
def Resv.soff (r : Resv) : Nat := bits r.w0 39 25
def Resv.ncol (r : Resv) : Nat := 16 * bits r.w0 24 19
def Resv.kb (r : Resv) : Nat := bits r.w0 18 11
def Resv.pfl (r : Resv) : BitVec 6 := r.w0.extractLsb' 5 6
/-- The record with another MODE. -/
def Resv.setMode (r : Resv) (m : Nat) : Resv := { r with w1 := setBits r.w1 31 30 m }
/-- The record with other flags of unfinished rows. -/
def Resv.setPfl (r : Resv) (f : BitVec 6) : Resv := { r with w0 := setBits r.w0 10 5 f.toNat }

/-- The mode of a block's bank: that of the reservation that covers it, else STORAGE (R135, R139). -/
def Block.bankMode (b : Block) (bank : Nat) : Nat :=
  match b.resvs.find? fun r => r.first ≤ bank && bank < r.first + r.count with
  | some r => r.mode
  | none => 0

/-- Does any of `n` bytes at a scratchpad offset lie in a COMPUTE or DRAINING bank (R136)? -/
def Block.computing (b : Block) (off n : Nat) : Bool :=
  b.bankMode (off / 32768) != 0 || b.bankMode ((off + n - 1) / 32768) != 0

/-- The byte at a scratchpad offset of the block (R134). -/
def Block.byte (b : Block) (off : Nat) : Byte := sget 0 b.bytes off

/-- The block with bytes written at scratchpad offsets. -/
def Block.setBytes (b : Block) : List (Nat × Byte) → Block
  | [] => b
  | (o, v) :: rest => Block.setBytes { b with bytes := sset 0 b.bytes o v } rest

/-- A physical bank of a core, as errors name it (R393). -/
def bankPlace (core bank : Nat) : Nat := 1024 * core + bank

/-- A scratchpad write performed at its banks; every watcher of the lines in the block is told (R209, R222). A write of
an error's 8 bytes makes it good (R393). -/
def State.performSpad (s : State) (who : Who) (ws : List (Nat × Byte)) : State :=
  let bankOf := fun (o : Nat) => bankPlace s.blk.core (s.blk.banks.getD (o / 32768) 0)
  let whole := fun (u : Nat × Nat × Nat) => u.1 == 2 && (List.range 8).all fun j =>
    ws.any fun w => bankOf w.1 == u.2.1 && w.1 % 32768 == 8 * u.2.2 + j
  let s1 := { s with blk := s.blk.setBytes ws, mem := { s.mem with upsets := s.mem.upsets.filter fun u => !whole u } }
  (distinct (ws.map (·.1 / 64))).foldl (fun s l => s.notify who true l) s1

/-- Does an uncorrectable error of a bank meet bytes at a scratchpad offset (R393)? -/
def State.bankUpset (s : State) (off n : Nat) : Bool :=
  s.mem.upsets.any fun u => u.1 == 2 && (List.range n).any fun j =>
    u.2.1 == bankPlace s.blk.core (s.blk.banks.getD ((off + j) / 32768) 0) && u.2.2 == (off + j) % 32768 / 8

/-! ## Removal of a context (R390, R391) -/

/-- The removal of a context requested: its groups stop at once and its stages follow (R377, R391). -/
def State.remove (s : State) (asid cause : Nat) : State :=
  if s.mgmt.removing.any (·.1 == asid) then s
  else { s with mgmt := { s.mgmt with removing := s.mgmt.removing ++ [(asid, cause, 0)] } }

/-! ## Aborting a try region (R321) -/

/-- Bits CODE, IMM, ACT, PRI, CC, SLOT of ts (R36). -/
def tsAct (ts : Word) : Bool := ts.getLsbD 12
def tsCC (ts : Word) : Nat := bits ts 17 14

/-- ts after an abort of the whole region (R321). -/
def tsAbort (ts : Word) (code imm : Nat) : Word :=
  let t := setBits (setBits (setBits ts 12 12 0) 13 13 0) 3 0 code
  let t := if code = 1 then setBits t 11 4 imm else t
  if code = 2 then setBits t 17 14 (min (tsCC ts + 1) 8) else t

/-- The group with its open region rolled back to the checkpoint and its handler entered (R321): every checkpointed item
restored, ts updated, the status word in lane c of the region's register, LR reservations lost. -/
def Group.abort (g : Group) (code imm : Nat) : Group :=
  match g.region with
  | none => g
  | some r =>
    let p := g.splitAt 0
    let p1 : Split := { p with em := r.em, gm := r.gm, pc := r.handler, windows := [], spec := none, wait := none,
                               redo := [], pending := [] }
    let g1 : Group := { g with regs := r.regs, splits := sset {} g.splits 0 p1, sp := r.sp, gs := r.gs,
                               ts := tsAbort g.ts code imm, region := none, lr := [] }
    g1.setReg r.reg.toNat r.lane (BitVec.ofNat 32 (code + imm % 256 * 16))

/-- The issuing group's open region aborted. -/
def State.abortRegion (s : State) (code imm : Nat) : State := { s with grp := s.grp.abort code imm }

/-! ## Taking an exception (R376-R380) -/

/-- Trap-record word 0 (R380). -/
def trapWord0 (t : TrapInfo) (spl pend nflt : Nat) : DWord :=
  BitVec.ofNat 64 (t.code + pend * 2 ^ 13 + spl * 2 ^ 15 + t.lane * 2 ^ 17 + (if t.part2 then 2 ^ 22 else 0)
    + nflt * 2 ^ 23 + t.imm.toNat * 2 ^ 28 + t.flags.toNat * 2 ^ 36 + t.enabled.toNat * 2 ^ 42)

/-- The split of a group whose trap waits for the others, the lowest (R377, R378). -/
def Group.trapping (g : Group) : Option Nat := (List.range 4).find? fun k => match (g.splitAt k).wait with
  | some (.trap, _) => (g.splitAt k).st == .live
  | _ => false

/-- Of two faults of one instruction, that of the lower lane, with the lanes that neither left undone (R186). -/
def TrapInfo.join (a b : TrapInfo) : TrapInfo := { (if b.lane < a.lane then b else a) with done := a.done &&& b.done }

/-- A fault left pending for a split of a group, in program order among its others, and one with another of the same
instruction (R60, R186, R378). -/
def Group.pend (g : Group) (spl : Nat) (t : TrapInfo) (pc : Addr) (stamp : Nat) (late : Bool) : Group :=
  let p := g.splitAt spl
  let older := p.pending.takeWhile (·.stamp < stamp)
  let now := match p.pending.find? (·.stamp == stamp) with
    | some q => ⟨q.info.join t, pc, stamp, q.late && late⟩
    | none => ⟨t, pc, stamp, late⟩
  let p1 : Split := { p with pending := older ++ now :: p.pending.filter (stamp < ·.stamp), wait := none }
  { g with splits := sset {} g.splits spl p1 }

/-- The pending traps of a group (R378). -/
def Group.pendCount (g : Group) : Nat := ((List.range 4).filter fun k => !(g.splitAt k).pending.isEmpty).length
/-- Those of the splits other than `spl` (R380). -/
def Group.pendOthers (g : Group) (spl : Nat) : Nat :=
  ((List.range 4).filter fun k => k != spl && !(g.splitAt k).pending.isEmpty).length

/-- Trap routine entry of an address space (R377, R389). -/
def State.tvec (s : State) (asid : Nat) : DWord := sget 0 s.iso.tvec asid

/-- Delivery of a trap of the issuing split (R377): the record written (R380, R389), handler mode entered, em and gm set,
the split at TVEC. `faulted` holds the listed instructions with the lanes each performed, `npc` the first instruction not
issued; at most 16 are listed (R60). -/
def State.deliver (s : State) (t : TrapInfo) (faulted : List (Addr × Word)) (npc : Addr) : State :=
  let p := s.spl
  let list := faulted.take 16
  let rec0 := sset 0 (sset 0 (sset 0 (sset 0 (sset 0 (sset 0 [] 0 (trapWord0 t s.cur (s.grp.pendOthers s.cur) list.length))
      1 (BitVec.ofNat 64 ((list.head?.map (·.2.toNat)).getD 0 + t.port * 2 ^ 52 + t.str * 2 ^ 56)))
      2 t.fva) 3 (npc.setWidth 64)) 4 (p.em.setWidth 64)) 5 p.gm
  let rec1 := (List.range 16).foldl (fun m k => sset 0 m (6 + k) (((list[k]?).map fun x => x.1.setWidth 64).getD 0)) rec0
  let ld := (List.range 16).foldl (fun m k => sset 0 m k (((list[k]?).map (·.2)).getD 0)) []
  let p1 : Split := { p with em := p.dm, gm := 0, pc := (s.tvec s.blk.asid).setWidth 57, windows := [], wait := none,
                             redo := [], pending := [] }
  { s with
    grp := { s.grp with
      trap := rec1, ldone := ld, handler := some s.cur, splits := sset {} s.grp.splits s.cur p1 } }

/-- Takes an exception of the issuing split: inside an open try region the region aborts with FAULT (R319); in handler
mode the context is removed with cause DOUBLE (R379); without a trap routine with cause NOTVEC (R377); otherwise the
trap is delivered. -/
def State.takeTrap (s : State) (t : TrapInfo) (list : List (Addr × Word)) (npc : Addr) : State :=
  if s.grp.region.isSome then s.abortRegion 4 t.code
  else if s.grp.handler.isSome then s.remove s.blk.asid 0x12
  else if s.tvec s.blk.asid = 0 then s.remove s.blk.asid 0x13
  else s.deliver t list npc

/-- The waiting faults of the issuing split delivered, oldest first and with the code of the oldest, with more instructions
listed after them (R60). -/
def State.takePending (s : State) (q : Pending) (more : List (Addr × Word)) (npc : Addr) : State :=
  s.takeTrap q.info (s.spl.pending.map (fun q => (q.pc, q.info.done)) ++ more) npc

/-- The waiting faults of the issuing split delivered, so that the instruction at its pc comes after the return. -/
def State.takeWaiting (s : State) (q : Pending) : State :=
  s.takePending q s.spl.redo (if s.spl.redo.isEmpty then s.spl.pc else s.spl.redoNpc)

/-- The exception of the instruction at the split's pc: listed (R60), but for SWTRAP and BRK, which go on after it
(R383). The rest of a list under re-execution stays listed after it, and earlier faults of the split before it. -/
def State.trapHere (s : State) (t : TrapInfo) : State :=
  let p := s.spl
  let me := if t.listed then [(p.pc, t.done)] else []
  let npc := if p.redo.isEmpty then p.pc + 4 else p.redoNpc
  match p.pending with
  | [] => s.takeTrap t (me ++ p.redo.drop 1) npc
  | q :: _ => if t.listed then s.takePending q (me ++ p.redo.drop 1) npc else s.takeWaiting q

/-- The exception of a fetch at the split's pc: nothing listed, NPC the pc itself (R49). A list under re-execution is
kept for the return. Earlier faults of the split come first. -/
def State.trapFetch (s : State) (t : TrapInfo) : State :=
  let p := s.spl
  match p.pending, p.redo with
  | q :: _, _ => s.takeWaiting q
  | [], [] => s.takeTrap t [] p.pc
  | [], list => (s.setSpl { p with kept := list, keptNpc := p.redoNpc }).takeTrap t [] p.pc

/-- The return from an exception (R383): em and gm of the record's split restored, handler mode left, the listed
instructions due for re-execution one by one, then NPC. A list that a fetch trap cut off is taken up where NPC is its
first address (R49). -/
def State.returnFromTrap (s : State) : State :=
  let g := s.grp
  let w := fun k => sget 0 g.trap k
  let spl := bits (w 0) 16 15
  let nflt := bits (w 0) 27 23
  let npc : Addr := (w 3).setWidth 57
  let list := (List.range nflt).map fun k => (((w (6 + k)).setWidth 57 : Addr), sget 0 g.ldone k)
  let p := g.splitAt spl
  let pc1 := match list with
    | (a, _) :: _ => a
    | [] => npc
  let back := list.isEmpty && (p.kept.head?.map (·.1)) == some npc
  let p1 : Split := { p with em := (low32 (w 4)) &&& p.dm, gm := w 5, pc := pc1, kept := [], keptNpc := 0
                             redo := if back then p.kept else list, redoNpc := if back then p.keptNpc else npc }
  { s with grp := { g with handler := none, splits := sset {} g.splits spl p1 }, cur := spl }

/-- Delivers the next pending trap of the group, in ascending split index (R378): its record lists every instruction of
the split that faulted, and the code is that of the oldest (R60). -/
def State.deliverPending (s : State) : State :=
  match (List.range 4).find? fun k => !(s.grp.splitAt k).pending.isEmpty with
  | none => s
  | some k =>
    let p := s.grp.splitAt k
    match p.pending with
    | [] => s
    | t :: _ => { s with cur := k }.takeWaiting t

end Sys2Proof.Machine
end

