-- ==== Sys2Proof/Machine/Flags.lean ====
section
/-! DEFINITION. Number formats, exact values, rounding and the sticky flags (04_results_formats.md R73-R97), and the
exact functions of R117. A value is exact: a sign with a natural number times a power of two. A value that is no such
number (a quotient, a root, a power) is given by its first bits followed by a one, which every rounding of R88 treats
as it treats the value itself. -/

namespace Sys2Proof.Machine

/-! ## Formats (R73-R83) -/

/-- The element formats: floating, integer of a signedness and width, and the block elements. -/
inductive Fmt where
  | f64 | f32 | f16 | bf16 | e5m2 | e4m3 | e2m1
  | int (signed : Bool) (w : Nat)
  | mxint8 | q4u | q4p | q4h
deriving DecidableEq, Repr

/-- Fraction bits (R74). -/
def Fmt.frac : Fmt → Nat
  | .f64 => 52 | .f32 => 23 | .f16 => 10 | .bf16 => 7 | .e5m2 => 2 | .e4m3 => 3 | .e2m1 => 1 | _ => 0
/-- Exponent bits (R74). -/
def Fmt.expBits : Fmt → Nat
  | .f64 => 11 | .f32 => 8 | .f16 => 5 | .bf16 => 8 | .e5m2 => 5 | .e4m3 => 4 | .e2m1 => 2 | _ => 0
/-- Exponent bias (R74). -/
def Fmt.bias : Fmt → Nat
  | .f64 => 1023 | .f32 => 127 | .f16 => 15 | .bf16 => 127 | .e5m2 => 15 | .e4m3 => 7 | .e2m1 => 1 | _ => 0
/-- Bits of an element (R73). -/
def Fmt.width : Fmt → Nat
  | .f64 => 64 | .f32 => 32 | .f16 => 16 | .bf16 => 16 | .e5m2 => 8 | .e4m3 => 8 | .e2m1 => 4
  | .int _ w => w | .mxint8 => 8 | .q4u => 4 | .q4p => 4 | .q4h => 4
/-- The floating formats of R74. -/
def Fmt.isFloat : Fmt → Bool
  | .int _ _ | .mxint8 | .q4u | .q4p | .q4h => false
  | _ => true
def Fmt.isInt : Fmt → Bool
  | .int _ _ => true
  | _ => false
/-- The Infinity and NaN columns of R74. -/
def Fmt.hasInf : Fmt → Bool
  | .f64 | .f32 | .f16 | .bf16 | .e5m2 => true
  | _ => false
def Fmt.hasNaN (T : Fmt) : Bool := T.hasInf || T == .e4m3

/-- The format of a type code that names one for a single element (R73). -/
def fmtOf : Nat → Option Fmt
  | 0 => some .f32 | 1 => some .f64 | 2 => some .f16 | 3 => some .bf16 | 4 => some .e4m3 | 5 => some .e5m2
  | 11 => some (.int true 8) | 12 => some (.int true 16) | 13 => some (.int true 32)
  | 14 => some (.int false 8) | 15 => some (.int false 16) | 16 => some (.int false 32)
  | 20 => some .e2m1
  | _ => none

/-- The format of a type code, FP32 where the code names no single element; callers check the code first. -/
def fmtD (t : Nat) : Fmt := (fmtOf t).getD .f32

/-- The type codes f32, f64, f16 and bf16 (R111, R112). -/
def isArithFloat (t : Nat) : Bool := t ≤ 3
/-- The floating type codes that the conversions take (R115). -/
def isConvFloat (t : Nat) : Bool := t ≤ 5 || t == 20
/-- The integer and natural type codes. -/
def isIntCode (t : Nat) : Bool := 11 ≤ t && t ≤ 16

/-- Bits of an element of a block type (R122). -/
def elemWidth (tb : Nat) : Nat := if tb = 6 || tb = 10 then 4 else 8

/-! ## Exact values -/

/-- A decoded value: NaN with its sign and whether it is signalling, an infinity, or a sign with `m * 2 ^ e`. -/
inductive Val where
  | nan (neg sig : Bool)
  | inf (neg : Bool)
  | fin (neg : Bool) (m : Nat) (e : Int)
deriving DecidableEq, Repr

def Val.isNaN : Val → Bool
  | .nan _ _ => true
  | _ => false
def Val.isSig : Val → Bool
  | .nan _ sig => sig
  | _ => false
def Val.neg : Val → Bool
  | .nan n _ => n
  | .inf n => n
  | .fin n _ _ => n
def Val.isZero : Val → Bool
  | .fin _ 0 _ => true
  | _ => false

/-- `Dec` (R75, R77, R79, R81, R83). -/
def decodeVal (T : Fmt) (w : Nat) : Val :=
  match T with
  | .int true n => if w / 2 ^ (n - 1) % 2 = 1 then .fin true (2 ^ n - w % 2 ^ n) 0 else .fin false (w % 2 ^ n) 0
  | .int false n => .fin false (w % 2 ^ n) 0
  | .mxint8 => if w / 128 % 2 = 1 then .fin true (256 - w % 256) (-6) else .fin false (w % 256) (-6)
  | .q4u => if w / 8 % 2 = 1 then .fin true (16 - w % 16) 0 else .fin false (w % 16) 0
  | .q4p =>
    let k := w % 8
    if k = 0 then .fin false 0 0 else .fin (w / 8 % 2 == 1) 1 ((k : Int) - 4)
  | .q4h =>
    let k := w % 8
    if k = 0 then .fin false 0 0 else .fin (w / 8 % 2 == 1) (if k = 7 then 8 else k) 0
  | T =>
    let F := T.frac
    let E := T.expBits
    let f := w % 2 ^ F
    let e := w / 2 ^ F % 2 ^ E
    let s := w / 2 ^ (F + E) % 2 == 1
    if e = 2 ^ E - 1 && T.hasInf then
      if f = 0 then .inf s else .nan s (f / 2 ^ (F - 1) == 0)
    else if T = .e4m3 && e = 15 && f = 7 then .nan s false
    else if e = 0 then .fin s f (1 - (T.bias : Int) - F)
    else .fin s (f + 2 ^ F) ((e : Int) - T.bias - F)

/-- The binary exponent of a non-zero magnitude: `2 ^ k ≤ m * 2 ^ e < 2 ^ (k + 1)`. -/
def topExp (m : Nat) (e : Int) : Int := (Nat.log2 m : Int) + e

/-- A magnitude written at exponent `e0`, which is at most its own. -/
def scaleTo (m : Nat) (e e0 : Int) : Nat := m * 2 ^ (e - e0).toNat

/-- The default NaN with a sign (R77). -/
def nanCode (T : Fmt) (neg : Bool) : Nat :=
  let s := if neg then 2 ^ (T.width - 1) else 0
  match T with
  | .e4m3 => s + 0x7F
  | T => s + (2 ^ T.expBits - 1) * 2 ^ T.frac + 2 ^ (T.frac - 1)
/-- The infinity with a sign (R75). -/
def infCode (T : Fmt) (neg : Bool) : Nat :=
  (if neg then 2 ^ (T.width - 1) else 0) + (2 ^ T.expBits - 1) * 2 ^ T.frac
/-- `MaxCode` (R87): the code of the largest magnitude of a sign. -/
def maxCode (T : Fmt) (neg : Bool) : Nat :=
  match T with
  | .int true w => if neg then 2 ^ (w - 1) else 2 ^ (w - 1) - 1
  | .int false w => if neg then 0 else 2 ^ w - 1
  | .mxint8 => if neg then 0x80 else 0x7F
  | .q4u => if neg then 8 else 7
  | .q4p | .q4h | .e2m1 => if neg then 0xF else 0x7
  | .e4m3 => if neg then 0xFE else 0x7E
  | T => (if neg then 2 ^ (T.width - 1) else 0) + (2 ^ T.expBits - 1) * 2 ^ T.frac - 1

/-! ## Grids and rounding (R87-R93) -/

/-- A grid on which `Pick` rounds: a floating format's (bounded below and above), the same precision without bounds,
multiples of `2 ^ q`, or the q4 hybrid and power-of-two sets. -/
inductive Grid' where
  | flt (frac : Nat) (emin emax : Int)
  | prec (frac : Nat)
  | step (q : Int)
  | hybrid | power
deriving DecidableEq, Repr

/-- `Grid(T)` (R87). -/
def Fmt.grid : Fmt → Grid'
  | .int _ _ | .q4u => .step 0
  | .mxint8 => .step (-6)
  | .q4h => .hybrid
  | .q4p => .power
  | .e4m3 => .flt 3 (-6) 8
  | .e2m1 => .flt 1 0 2
  | T => .flt T.frac (1 - (T.bias : Int)) T.bias

/-- The two neighbours of a magnitude on a grid at a common exponent with the magnitude itself, and whether the lower
one's index is even: (magnitude, lower, upper, even, exponent). The lower one is the magnitude itself where it lies on
the grid. -/
def neighbours (G : Grid') (m : Nat) (e : Int) : Nat × Nat × Nat × Bool × Int :=
  let onStep := fun (q : Int) =>
    let e0 := min e q
    let x := scaleTo m e e0
    let u := scaleTo 1 q e0
    let n := x / u
    (x, n * u, n * u + u, n % 2 == 0, e0)
  match G with
  | .step q => onStep q
  | .flt F emin emax => onStep (min (max (topExp m e) emin) emax - F)
  | .prec F => onStep (topExp m e - F)
  | .hybrid =>
    let e0 := min e 0
    let x := scaleTo m e e0
    let u := scaleTo 1 0 e0
    if x < 6 * u then onStep 0
    else
      let j := (x - 6 * u) / (2 * u)
      (x, 6 * u + j * (2 * u), 6 * u + (j + 1) * (2 * u), j % 2 == 0, e0)
  | .power =>
    let e0 := min e (-3)
    let x := scaleTo m e e0
    let u := scaleTo 1 (-3) e0
    if x < u then (x, 0, u, true, e0)
    else if x < 64 * u then
      let k := Nat.log2 (x / u)
      (x, 2 ^ k * u, 2 ^ (k + 1) * u, k % 2 == 1, e0)
    else
      let j := (x - 64 * u) / (32 * u)
      (x, 64 * u + j * (32 * u), 64 * u + (j + 1) * (32 * u), j % 2 == 1, e0)

/-- `Pick` (R88) on a magnitude with its sign: the magnitude chosen and whether it is exact. -/
def pick (G : Grid') (rm r : Nat) (neg : Bool) (m : Nat) (e : Int) : Nat × Int × Bool :=
  if m = 0 then (0, 0, true)
  else
    let (x, lo, hi, even, e0) := neighbours G m e
    if x = lo then (x, e0, true)
    else
      let near := fun (tieHi : Bool) =>
        if 2 * (x - lo) < hi - lo then lo else if hi - lo < 2 * (x - lo) then hi else if tieHi then hi else lo
      let z := match rm with
        | 0 => near (!even)
        | 1 => lo
        | 2 => if neg then lo else hi
        | 3 => if neg then hi else lo
        | 4 => near true
        | _ => if r < 2 ^ 32 * (x - lo) / (hi - lo) then hi else lo
      (z, e0, false)

/-- Is `m1 * 2 ^ e1` less than `m2 * 2 ^ e2`? -/
def magLt (m1 : Nat) (e1 : Int) (m2 : Nat) (e2 : Int) : Bool :=
  let e0 := min e1 e2
  scaleTo m1 e1 e0 < scaleTo m2 e2 e0

/-- `MaxMag` (R87). -/
def maxMag (T : Fmt) (neg : Bool) : Nat × Int :=
  match decodeVal T (maxCode T neg) with
  | .fin _ m e => (m, e)
  | _ => (0, 0)

/-- The magnitude of the smallest normal (R74). -/
def minNormal (T : Fmt) : Nat × Int := (1, if T = .e4m3 then -6 else if T = .e2m1 then 0 else 1 - (T.bias : Int))

/-- The flags of fl (R35). -/
def fIV : BitVec 6 := 1
def fDZ : BitVec 6 := 2
def fOF : BitVec 6 := 4
def fUF : BitVec 6 := 8
def fNX : BitVec 6 := 16
def fSA : BitVec 6 := 32

/-- `Encode` (R87) of a magnitude that lies in the format. -/
def encodeVal (T : Fmt) (neg : Bool) (m : Nat) (e : Int) : Nat :=
  let whole := fun (q : Int) => scaleTo m e (min e q) / scaleTo 1 q (min e q)
  let twos := fun (w n : Nat) => if neg then (2 ^ w - n) % 2 ^ w else n % 2 ^ w
  match T with
  | .int _ w => twos w (whole 0)
  | .mxint8 => twos 8 (whole (-6))
  | .q4u => twos 4 (whole 0)
  | .q4h =>
    let n := whole 0
    let k := if n = 8 then 7 else n
    if k = 0 then 0 else k + (if neg then 8 else 0)
  | .q4p => if m = 0 then 0 else (topExp m e + 4).toNat + (if neg then 8 else 0)
  | T =>
    let s := if neg then 2 ^ (T.width - 1) else 0
    if m = 0 then s
    else
      let emin := (minNormal T).2
      let k := topExp m e
      if k < emin then s + whole (emin - T.frac)
      else s + (k - emin + 1).toNat * 2 ^ T.frac + (whole (k - T.frac) - 2 ^ T.frac)

/-- What an overflow of a finite value gives (R90). -/
def overflowCode (T : Fmt) (neg : Bool) (rm : Nat) : Nat :=
  let top := if T.hasInf then infCode T neg else nanCode T neg
  match rm with
  | 1 => maxCode T neg
  | 2 => if neg then maxCode T neg else top
  | 3 => if neg then top else maxCode T neg
  | _ => top

/-- `RoundInt` (R93). -/
def roundInt (x : Val) (T : Fmt) (rm r : Nat) : Nat × BitVec 6 :=
  match x with
  | .nan _ _ => (0, fIV)
  | .inf n => (maxCode T n, fIV)
  | .fin n m e =>
    let (z, e0, exact) := pick (.step 0) rm r n m e
    let lim := match T with
      | .int false w => if n then 0 else 2 ^ w - 1
      | .int true w => if n then 2 ^ (w - 1) else 2 ^ (w - 1) - 1
      | _ => 0
    if magLt lim 0 z e0 then (maxCode T n, fIV) else (encodeVal T n z e0, if exact then 0 else fNX)

/-- `RoundTo` (R87) with a given rounding mode, saturation and draw: the code and the flags. -/
def roundTo (rm : Nat) (sat : Bool) (r : Nat) (x : Val) (T : Fmt) : Nat × BitVec 6 :=
  let maxOr := fun (n : Bool) (other : Nat) (fl : BitVec 6) =>
    if sat || !T.hasNaN then (maxCode T n, fl ||| fSA) else (other, fl)
  match x with
  | .nan n sig =>
    if T.isInt || !T.hasNaN then (0, fIV) else (nanCode T n, if sig then fIV else 0)
  | .inf n =>
    if T.isInt then (maxCode T n, fIV)
    else if T.hasInf then (infCode T n, 0)
    else maxOr n (nanCode T n) fOF
  | .fin n m e =>
    if T.isInt then roundInt x T rm r
    else
      let (z, e0, exact) := pick T.grid rm r n m e
      let (mm, me) := maxMag T n
      if magLt mm me z e0 then maxOr n (overflowCode T n rm) (fOF ||| fNX)
      else if exact then (encodeVal T n z e0, 0)
      else
        let (p, pe, _) := pick (.prec T.frac) rm r n m e
        let (nm, ne) := minNormal T
        let tiny := T.isFloat && magLt p pe nm ne
        (encodeVal T n z e0, if tiny then fNX ||| fUF else fNX)

/-- `SatTo` (R94): the code of an exact integer narrowed to an integer type, and SA where it clamps. -/
def satTo (z : Int) (signed : Bool) (w : Nat) : Nat × BitVec 6 :=
  let lo : Int := if signed then -(2 ^ (w - 1) : Nat) else 0
  let hi : Int := if signed then (2 ^ (w - 1) : Nat) - 1 else (2 ^ w : Nat) - 1
  if z < lo then ((lo % (2 ^ w : Nat)).toNat, fSA)
  else if hi < z then (hi.toNat, fSA)
  else ((z % (2 ^ w : Nat)).toNat, 0)

/-! ## Exact arithmetic (R95, R111) -/

/-- The quiet positive NaN that an arithmetic entry hands to RoundTo (R111). -/
def qNaN : Val := .nan false false

/-- Exact sum, and whether it is invalid (opposite infinities). -/
def addVal (rm : Nat) (x y : Val) : Val × Bool :=
  match x, y with
  | .nan _ _, _ => (qNaN, false)
  | _, .nan _ _ => (qNaN, false)
  | .inf a, .inf b => if a = b then (.inf a, false) else (qNaN, true)
  | .inf a, .fin _ _ _ => (.inf a, false)
  | .fin _ _ _, .inf b => (.inf b, false)
  | .fin a m e, .fin b n f =>
    let e0 := min e f
    let p := scaleTo m e e0
    let q := scaleTo n f e0
    if a = b then (.fin a (p + q) e0, false)
    else if p = q then (.fin (rm == 3) 0 0, false)
    else if q < p then (.fin a (p - q) e0, false)
    else (.fin b (q - p) e0, false)

/-- Exact product, and whether it is invalid (zero times infinity). -/
def mulVal (x y : Val) : Val × Bool :=
  match x, y with
  | .nan _ _, _ => (qNaN, false)
  | _, .nan _ _ => (qNaN, false)
  | .inf a, .inf b => (.inf (a != b), false)
  | .inf a, .fin b m _ => if m = 0 then (qNaN, true) else (.inf (a != b), false)
  | .fin a m _, .inf b => if m = 0 then (qNaN, true) else (.inf (a != b), false)
  | .fin a m e, .fin b n f => (.fin (a != b) (m * n) (e + f), false)

/-- The value with its sign inverted. -/
def negVal : Val → Val
  | .nan n s => .nan n s
  | .inf n => .inf (!n)
  | .fin n m e => .fin (!n) m e

/-- The flags of an operation: IV for a signalling operand or an invalid operation (R111). -/
def ivIf (b : Bool) : BitVec 6 := if b then fIV else 0

/-- `x * y + w` exactly, with IV (R112). -/
def fmaVal (rm : Nat) (x y w : Val) : Val × BitVec 6 :=
  let (p, i1) := mulVal x y
  let (z, i2) := addVal rm p w
  (z, ivIf (i1 || i2 || x.isSig || y.isSig || w.isSig))

/-- Is `x` less than `y`, both no NaN? Zeros of either sign are equal. -/
def ltVal (x y : Val) : Bool :=
  match x, y with
  | .nan _ _, _ => false
  | _, .nan _ _ => false
  | .inf a, .inf b => a && !b
  | .inf a, .fin _ _ _ => a
  | .fin _ _ _, .inf b => !b
  | .fin a m e, .fin b n f =>
    if m = 0 && n = 0 then false
    else if a && !b then true
    else if !a && b then false
    else if a then magLt n f m e
    else magLt m e n f

/-- Are `x` and `y` equal numbers? -/
def eqVal (x y : Val) : Bool := !x.isNaN && !y.isNaN && !ltVal x y && !ltVal y x

/-- The order of `fmin` and `fmax` on numbers: −0 below +0 (R113). -/
def belowVal (x y : Val) : Bool := ltVal x y || (x.isZero && y.isZero && x.neg && !y.neg)

/-- The exact sum of a list, and whether it is invalid; order does not matter (R125). -/
def sumVals (rm : Nat) : List Val → Val × Bool
  | [] => (.fin false 0 0, false)
  | v :: rest =>
    let z := rest.foldl (fun acc y => (addVal rm acc y).1) v
    let all := v :: rest
    let bad := all.any (· == .inf false) && all.any (· == .inf true)
    if bad then (qNaN, true) else if all.any Val.isNaN then (qNaN, false) else (z, false)

/-! ## The exact functions of R117 -/

/-- `⌊√n⌋` bit by bit from bit `k` down. -/
def isqrtFrom (n : Nat) : Nat → Nat → Nat
  | 0, r => r
  | k + 1, r => let c := r + 2 ^ k; isqrtFrom n k (if c * c ≤ n then c else r)

/-- `⌊√n⌋`. -/
def isqrt (n : Nat) : Nat := isqrtFrom n (Nat.log2 n / 2 + 1) 0

/-- The bits a value that is no dyadic number is given with. -/
def workBits : Nat := 640

/-- A value given by its first bits `q` at exponent `e`, exact or with more below. -/
def sticky (neg : Bool) (q : Nat) (e : Int) (exact : Bool) : Val :=
  if exact then .fin neg q e else .fin neg (2 * q + 1) (e - 1)

/-- `1 / x` (R117). -/
def rcpVal : Val → Val × BitVec 6
  | .nan _ s => (qNaN, ivIf s)
  | .inf n => (.fin n 0 0, 0)
  | .fin n 0 _ => (.inf n, fDZ)
  | .fin n m e =>
    let k := 128 + Nat.log2 m
    (sticky n (2 ^ k / m) (-(k : Int) - e) (2 ^ k % m == 0), 0)

/-- `√x` (R117). -/
def sqrtVal : Val → Val × BitVec 6
  | .nan _ s => (qNaN, ivIf s)
  | .inf n => if n then (qNaN, fIV) else (.inf false, 0)
  | .fin n 0 _ => (.fin n 0 0, 0)
  | .fin true _ _ => (qNaN, fIV)
  | .fin false m e =>
    let sh : Nat := 256 + (e % 2).toNat
    let y := m * 2 ^ sh
    let q := isqrt y
    (sticky false q ((e - sh) / 2) (q * q == y), 0)

/-- `1 / √x` (R117). -/
def rsqVal : Val → Val × BitVec 6
  | .nan _ s => (qNaN, ivIf s)
  | .inf n => if n then (qNaN, fIV) else (.fin false 0 0, 0)
  | .fin n 0 _ => (.inf n, fDZ)
  | .fin true _ _ => (qNaN, fIV)
  | .fin false m e =>
    let k : Nat := 2 * (128 + Nat.log2 m) + (e % 2).toNat
    let q := isqrt (2 ^ k / m)
    (sticky false q ((-(k : Int) - e) / 2) (q * q * m == 2 ^ k), 0)

/-- `Σ z ^ (2 j + 1) / (2 j + 1)` with alternating or equal signs, in units of `2 ^ -workBits`: fuel, current power
(already with its sign), square of the argument as a fraction, odd number. -/
def oddSeries (num den : Nat) (alt : Bool) : Nat → Int → Nat → Int
  | 0, _, _ => 0
  | fuel + 1, p, k =>
    let next := p * num / den
    p / (k : Int) + oddSeries num den alt fuel (if alt then -next else next) (k + 2)

/-- `atanh (a / b)` in units of `2 ^ -workBits`. -/
def atanhFix (a b : Nat) : Int := oddSeries (a * a) (b * b) false 220 ((2 ^ workBits * a / b : Nat) : Int) 1
/-- `arctan (1 / b)` in units of `2 ^ -workBits`. -/
def atanFix (b : Nat) : Int := oddSeries 1 (b * b) true 300 ((2 ^ workBits / b : Nat) : Int) 1
/-- `ln 2` and `π` in units of `2 ^ -workBits`. -/
def ln2Fix : Int := 2 * atanhFix 1 3
def piFix : Int := 16 * atanFix 5 - 4 * atanFix 239

/-- `Σ y ^ j / j!` of an argument in units of `2 ^ -workBits`. -/
def expSeries (y : Int) : Nat → Int → Nat → Int
  | 0, _, _ => 0
  | fuel + 1, t, k => t + expSeries y fuel (t * y / (2 ^ workBits : Nat) / (k : Int)) (k + 1)

/-- `Σ ± y ^ j / j!` over every second j, given `y ^ 2`: cosine from term 1 with k = 1, sine from term y with k = 2. -/
def trigSeries (y2 : Int) : Nat → Int → Nat → Int
  | 0, _, _ => 0
  | fuel + 1, t, k => t + trigSeries y2 fuel (-(t * y2 / (2 ^ workBits : Nat) / ((k * (k + 1) : Nat) : Int))) (k + 2)

/-- A positive number in units of `2 ^ -workBits`, as its first 96 bits with more below, at an additional exponent.
The last bits of the working number are inexact; they would matter only below a run of hundreds of equal bits
(log entry 12). -/
def fromFix (neg : Bool) (v : Int) (extra : Int) : Val :=
  let n := v.toNat
  let k := Nat.log2 n - 96
  sticky neg (n / 2 ^ k) ((k : Int) - workBits + extra) false

/-- Integer part (toward minus infinity) and fraction of `± m * 2 ^ e`, the fraction in units of `2 ^ -sh`. -/
def splitInt (neg : Bool) (m : Nat) (e : Int) : Int × Nat × Nat :=
  let sh := (-e).toNat
  let v : Int := (scaleTo m e (min e 0) : Nat)
  let w := if neg then -v else v
  (w / (2 ^ sh : Nat), (w % (2 ^ sh : Nat)).toNat, sh)

/-- `2 ^ x` (R117). Arguments beyond ± 2 ^ 12 lie beyond every format's range and are taken at that bound. -/
def exp2Val : Val → Val × BitVec 6
  | .nan _ s => (qNaN, ivIf s)
  | .inf n => (if n then .fin false 0 0 else .inf false, 0)
  | .fin _ 0 _ => (.fin false 1 0, 0)
  | .fin n m e =>
    if 12 ≤ topExp m e then (.fin false 1 (if n then -4096 else 4096), 0)
    else
      let (k, f, sh) := splitInt n m e
      if f = 0 then (.fin false 1 k, 0)
      else
        let y : Int := (f : Int) * ln2Fix / (2 ^ sh : Nat)
        let v := expSeries y 160 ((2 ^ workBits : Nat) : Int) 1
        -- 2 ^ f differs from 1 and 2 by at least 2 ^ -150 for the arguments of the formats
        (fromFix2 v k, 0)
where
  /-- A result between 1 and 2: its first 300 bits, so that a result next to 1 or 2 stays on its side. -/
  fromFix2 (v k : Int) : Val := sticky false (v.toNat / 2 ^ (workBits - 300)) (k - 300) false

/-- `log₂ x` (R117). -/
def log2Val : Val → Val × BitVec 6
  | .nan _ s => (qNaN, ivIf s)
  | .inf n => if n then (qNaN, fIV) else (.inf false, 0)
  | .fin _ 0 _ => (.inf true, fDZ)
  | .fin true _ _ => (qNaN, fIV)
  | .fin false m e =>
    let h := Nat.log2 m
    let k := topExp m e
    if m = 2 ^ h then (if k = 0 then .fin false 0 0 else .fin (k < 0) k.natAbs 0, 0)
    else
      let frac := 2 * atanhFix (m - 2 ^ h) (m + 2 ^ h) * (2 ^ workBits : Nat) / ln2Fix
      let v := k * (2 ^ workBits : Nat) + frac
      (fromFix (v < 0) v.natAbs 0, 0)

/-- `sin (π x)` for `x = f / 2 ^ sh` between 0 and 1/2, both excluded. -/
def sinFix (f sh : Nat) : Int :=
  let y : Int := (f : Int) * piFix / (2 ^ sh : Nat)
  trigSeries (y * y / (2 ^ workBits : Nat)) 100 y 2

/-- `cos (π x)` for `x = f / 2 ^ sh` between 0 and 1/2, both excluded. -/
def cosFix (f sh : Nat) : Int :=
  let y : Int := (f : Int) * piFix / (2 ^ sh : Nat)
  trigSeries (y * y / (2 ^ workBits : Nat)) 100 (2 ^ workBits : Nat) 1

/-- The first 300 bits of a cosine or sine, which may lie next to 1. -/
def trigVal (neg : Bool) (v : Int) : Val :=
  let n := v.toNat
  let k := Nat.log2 n - 300
  sticky neg (n / 2 ^ k) ((k : Int) - workBits) false

/-- `sin (π x)` or `cos (π x)` of a quarter-turn reduced argument: `x` modulo 2 as quadrant and fraction of a half. -/
def sinTurn (neg : Bool) (m : Nat) (e : Int) : Val :=
  let (k, f, sh) := splitInt neg m (e + 1)
  -- the angle is (k + f / 2 ^ sh) quarter turns
  let q := (k % 4).toNat
  if f = 0 then
    match q with
    | 1 => .fin false 1 0
    | 3 => .fin true 1 0
    | _ => .fin neg 0 0
  else if q % 2 = 0 then trigVal (q == 2) (sinFix f (sh + 1)) else trigVal (q == 3) (cosFix f (sh + 1))

/-- `sin (π x)` (R117). -/
def sinVal : Val → Val × BitVec 6
  | .nan _ s => (qNaN, ivIf s)
  | .inf _ => (qNaN, fIV)
  | .fin n 0 _ => (.fin n 0 0, 0)
  | .fin n m e => (sinTurn n m e, 0)

/-- `cos (π x)` (R117): the sine a quarter turn on; an exact zero is +0. -/
def cosVal : Val → Val × BitVec 6
  | .nan _ s => (qNaN, ivIf s)
  | .inf _ => (qNaN, fIV)
  | .fin _ m e =>
    if m = 0 then (.fin false 1 0, 0)
    else
      let e0 := min e (-1)
      match sinTurn false (scaleTo m e e0 + scaleTo 1 (-1) e0) e0 with
      | .fin _ 0 _ => (.fin false 0 0, 0)
      | v => (v, 0)

/-! ## Flags and draws in the state -/

/-- Flags raised in a lane: ORed into fl, or held with the lane's flags of an open try region (R97). -/
def State.raise (s : State) (i : Nat) (f : BitVec 6) : State :=
  if f = 0 then s else
  match s.grp.region with
  | none => { s with grp := { s.grp with fl := s.grp.fl ||| f } }
  | some r => { s with grp := { s.grp with region := some { r with flags := sset 0 r.flags i (sget 0 r.flags i ||| f) } } }

/-- One step of the recurrence of R131. -/
def xorshift (s : DWord) : DWord :=
  let a := s ^^^ (s <<< 13)
  let b := a ^^^ (a >>> 7)
  b ^^^ (b <<< 17)

/-- `Draw32` (R131). -/
def State.draw (s : State) (i : Nat) : State × Nat :=
  let x := xorshift (sget 0 s.grp.gs i)
  ({ s with grp := { s.grp with gs := sset 0 s.grp.gs i x } }, (x * 0x2545F4914F6CDD1D).toNat / 2 ^ 32)

/-- The draw a rounding step makes: only under SR (R89). -/
def State.drawSR (s : State) (rm i : Nat) : State × Nat := if rm = 5 then s.draw i else (s, 0)

/-- `RoundTo` of a lane with the modes of a gm (R87): the code, its flags raised. -/
def State.roundIn (s : State) (gm : DWord) (x : Val) (T : Fmt) (i : Nat) : State × Nat :=
  let (s1, r) := s.drawSR (gmRM gm) i
  let (c, f) := roundTo (gmRM gm) (gmSAT gm) r x T
  (s1.raise i f, c)

/-- `RoundTo` of a lane with the issuing split's modes (R87). -/
def State.round (s : State) (x : Val) (T : Fmt) (i : Nat) : State × Nat := s.roundIn s.spl.gm x T i

/-- `IntVal` (R100). -/
def intVal (gm : DWord) (w : Word) : Int := if isNat gm then w.toNat else w.toInt

/-- `IntRes` (R100): the word and SA where it clamps. -/
def intRes (gm : DWord) (z : Int) : Word × BitVec 6 :=
  if gmSAT gm then
    let (c, f) := satTo z (!isNat gm) 32
    (BitVec.ofNat 32 c, f)
  else (BitVec.ofInt 32 z, 0)

/-- `Src` (R100): the encoding in format `T` of operand `pos`. -/
def State.srcAt (s : State) (pos r : Nat) (p : Perm) (i : Nat) (T : Fmt) : Nat :=
  let w := fun k => s.view pos (r + k) (laneMap s.spl.gm p i)
  if T = .f64 then (join64 (w 0) (w 1)).toNat else (w 0).toNat % 2 ^ T.width

/-- `Src` (R100) of the first source. -/
def State.src (s : State) (r : Nat) (p : Perm) (i : Nat) (T : Fmt) : Nat := s.srcAt 0 r p i T

/-- `Dec(Src(...))` (R100) of operand `pos`. -/
def State.srcVal (s : State) (pos r : Nat) (p : Perm) (i : Nat) (T : Fmt) : Val := decodeVal T (s.srcAt pos r p i T)

/-- `Put` (R100). -/
def State.put (s : State) (r i c : Nat) (T : Fmt) : State :=
  if T = .f64 then s.setPair r i (BitVec.ofNat 64 c) else s.setReg r i (BitVec.ofNat 32 c)

/-- Encodings put in the lanes listed with them. -/
def State.puts (s : State) (r : Nat) (T : Fmt) : List (Nat × Nat) → State
  | [] => s
  | (i, c) :: rest => (s.put r i c T).puts r T rest

/-- A computation run lane by lane in the order given, its results kept with their lanes; the state carries draws and
flags from one lane to the next. -/
def State.eachLane {α : Type} (f : Nat → State → State × α) : List Nat → State → State × List (Nat × α)
  | [], s => (s, [])
  | i :: rest, s =>
    let (s1, v) := f i s
    let (s2, vs) := State.eachLane f rest s1
    (s2, (i, v) :: vs)

end Sys2Proof.Machine
end

