-- ==== Sys2Proof/Machine/Operands.lean ====
section
/-! DEFINITION. What each instruction reads and writes, which gm it accepts, its lookahead count and its standing in a
try region, past a fence and under privilege: the operand forms of 03_encoding.md R51-R67 and of each entry. -/

namespace Sys2Proof
open Machine

/-! ## Registers read and written (R56) -/

/-- The lanes that the lanes of a mask read through a permute code (R54). -/
def permMask (gm : DWord) (p : Perm) (m : Word) : Word :=
  (lanesOf m).foldl (fun acc i => acc ||| (1#32 <<< laneMap gm p i)) 0

/-- Registers `r` to `r + n - 1`, each in the lanes of a mask. -/
def span (r : Reg) (n : Nat) (m : Word) : List (Nat × Word) := (List.range n).map fun k => (r.toNat + k, m)

/-- How many registers an operand of a type code takes (R30, R84). -/
def regsOf (t : Nat) : Nat := if t = 1 || t = 17 then 2 else if t = 18 then 4 else 1

/-- How many registers a width code of R226 takes. -/
def widthRegs (w : BitVec 3) : Nat := if w.toNat = 5 then 2 else if w.toNat = 6 then 4 else 1

/-- How many registers a width code of the atomics takes. -/
def wideRegs (w : BitVec 2) : Nat := if w.toNat = 1 then 2 else 1

/-- How many registers an operand of a group reduction or scan takes: a pair for f64, else one (R125, R126). -/
def groupRegs (gm : DWord) : Nat := if gmTA gm = 1 then 2 else 1

/-- Index registers of an `mmas`: how many, from the reservation its block names (R179). -/
def Machine.State.indexRegs (s : State) (k : BitVec 3) (m : BitVec 2) (sl : BitVec 3) : Nat :=
  let hnd := bits (s.source (8 * k.toNat + 3) s.ctl) 15 0
  match s.blk.resvs.find? (·.handle == hnd) with
  | none => 0
  | some r =>
    let w := if r.ta = 6 || r.ta = 10 || r.ta = 20 then 4
      else if r.ta = 3 || r.ta = 2 || r.ta = 12 || r.ta = 15 then 16 else if r.ta = 0 || r.ta = 13 || r.ta = 16 then 32
      else if r.ta = 1 || r.ta = 17 then 64 else if r.ta = 18 then 128 else 8
    ((8 * sl.toNat + 16 * 2 ^ m.toNat) * 2 * (512 / w) + 1023) / 1024

/-- Is a selector of `sys.rd` and `sys.wr` indexed (R355, R356)? -/
def indexed (sel : Nat) : Bool := 0x200 ≤ sel

/-- The lanes of its first operand that an `lperm` reads: those that the active lanes of the second name through the
permute code (R123); any of them where the second bears a future, whose end decides (R256). -/
def Machine.State.permRead (s : State) (p : Perm) (b : Reg) (q : Perm) : Word :=
  if s.active.isEmpty then 0
  else if s.grp.futures.any (·.1 == b.toNat) then 0xFFFFFFFF
  else maskOfLanes ((s.active.filter fun i => !(s.operandB b.toNat q i).getLsbD 7).map fun i =>
    laneMap s.spl.gm p ((s.operandB b.toNat q i).toNat % 32))

/-- The lanes of its first operand that an `mxunp` reads: those that hold the elements of active lanes (R122). -/
def Machine.State.unpackRead (s : State) (p : Perm) : Word :=
  let dom := s.domLanes
  let per := 32 / elemWidth (gmTB s.spl.gm)
  maskOfLanes (s.active.map fun i => laneMap s.spl.gm p (dom.getD (dom.findIdx (· == i) / per) 0))

/-- The lanes whose values an `acc.wr` takes: the active ones whose column the reservation has (R171, R173). -/
def Machine.State.accRead (s : State) (d : Reg) : Word :=
  let w := s.source d.toNat s.ctl
  match s.blk.resvs.find? (·.handle == bits w 15 0) with
  | none => 0
  | some r => maskOfLanes (s.active.filter fun i => 32 * bits w 29 25 + i < 16 * bits r.w0 24 19)

/-- The registers an instruction reads, with the lanes it reads them in: R56 counts results lane by lane and does not say so
of sources, which count here in the lanes that the instruction takes (log entry 92). -/
def Instr.reads (i : Instr) (s : State) : List (Nat × Word) :=
  let gm := s.spl.gm
  let act := s.activeMask
  let c : Word := 1#32 <<< s.ctl
  let dom := s.spl.dm
  let lane := fun (r : Reg) (p : Perm) (n : Nat) => span r n (permMask gm p act)
  let ctl := fun (r : Reg) (p : Perm) (n : Nat) => span r n (permMask gm p c)
  let own := fun (r : Reg) (n : Nat) => span r n act
  let ta := regsOf (gmTA gm)
  match i with
  | .bz r _ | .bnz r _ | .bmz r _ | .bmnz r _ => span r 1 c
  | .ret r | .jmpr r _ | .split r _ => span r 2 c
  | .lhi d _ => span d 1 (act ||| c)
  | .mode _ a p b q => ctl a p 2 ++ ctl b q 2
  | .emSet _ a p | .emAnd _ a p | .emAndn _ a p => ctl a p 1
  | .add _ a p b q | .sub _ a p b q | .mul _ a p b q | .mulh _ a p b q | .mulhn _ a p b q | .min _ a p b q
  | .max _ a p b q | .and _ a p b q | .or _ a p b q | .xor _ a p b q | .andn _ a p b q | .shl _ a p b q
  | .shr _ a p b q | .sar _ a p b q | .rot _ a p b q | .dsh _ a p b q | .bxt _ a p b q | .cmpeq _ a p b q
  | .cmpne _ a p b q | .cmplt _ a p b q | .cmple _ a p b q | .sxt _ a p b q | .zxt _ a p b q | .srnd _ a p b q =>
    lane a p 1 ++ lane b q 1
  | .addc d a p b q | .subb d a p b q => lane a p 1 ++ lane b q 1 ++ [(d.toNat + 1, act)]
  | .mad d a p b q | .bdp d a p b q => lane a p 1 ++ lane b q 1 ++ own d 1
  | .sel d a p b q => lane a p 1 ++ lane b q 1 ++ span d 1 c
  | .abs _ a p | .neg _ a p | .not _ a p | .lzc _ a p | .tzc _ a p | .ones _ a p | .rvb _ a p | .mov _ a p
  | .lqAny _ a p | .lqAll _ a p | .lqSet _ a p | .gredAnd _ a p | .gredOr _ a p | .gredXor _ a p
  | .fcvtf _ a p | .topk _ a p _ _ | .dgrp _ a p _ _ | .tabl a p => lane a p 1
  | .add64 _ a p b q => lane a p 2 ++ lane b q 2
  | .lea _ a p b q => lane a p 2 ++ lane b q 1
  | .fadd _ a p b q | .fsub _ a p b q | .fmul _ a p b q | .fmin _ a p b q | .fmax _ a p b q
  | .fcmpeq _ a p b q | .fcmplt _ a p b q | .fcmple _ a p b q | .fcmpun _ a p b q | .zmul _ a p b q =>
    lane a p ta ++ lane b q ta
  | .ffma d a p b q | .ffms d a p b q | .zfma d a p b q => lane a p ta ++ lane b q ta ++ own d ta
  | .fabs _ a p | .fneg _ a p | .fcls _ a p | .fcvt _ a p | .fcvti _ a p | .frnd _ a p | .frcp _ a p | .frsq _ a p
  | .fsqrt _ a p | .fex2 _ a p | .flg2 _ a p | .fsin _ a p | .fcos _ a p | .zcnj _ a p => lane a p ta
  | .gredAdd _ a p | .gredMin _ a p | .gredMax _ a p | .gscanAdd _ a p | .gscanMax _ a p => lane a p (groupRegs gm)
  | .fscl _ a p b q => lane a p ta ++ lane b q 1
  | .mxscl _ a p b q | .mxpak _ a p b q => lane a p ta ++ ctl b q 1
  | .mxunp _ a p b q => [(a.toNat, s.unpackRead p)] ++ ctl b q 1
  | .lperm _ a p b q => [(a.toNat, s.permRead p b q)] ++ lane b q 1
  | .isect _ a p _ => lane a p 2
  | .prune _ a p _ => lane a p 1
  | .ld _ a p _ _ _ | .ldacq _ a p _ _ _ | .lr _ a p _ _ _ | .pref a p _ _ => lane a p 2
  | .st d a p _ _ w => lane a p 2 ++ own d (widthRegs w)
  | .stm d a p _ _ | .ldsp d a p _ _ _ => lane a p 2 ++ own d 1
  | .ldc _ a p _ _ _ => ctl a p 2
  | .lds _ a p _ _ => lane a p 1
  | .sts d a p _ w => lane a p 1 ++ own d (widthRegs w)
  | .strel d a p _ _ w | .sc d a p _ _ w | .atomAdd d a p _ _ w | .atomSub d a p _ _ w | .atomMin d a p _ _ w
  | .atomMax d a p _ _ w | .atomAnd d a p _ _ w | .atomOr d a p _ _ w | .atomXor d a p _ _ w
  | .atomXchg d a p _ _ w | .atomWinc d a p _ _ w | .atomFadd d a p _ _ w => lane a p 2 ++ own d (wideRegs w)
  | .atomCas d a p _ _ w => lane a p 2 ++ own d (2 * wideRegs w)
  | .redAdd d a p _ w | .redMin d a p _ w | .redMax d a p _ w | .redAnd d a p _ w | .redOr d a p _ w
  | .redXor d a p _ w | .redFadd d a p _ w => lane a p 2 ++ own d (wideRegs w)
  | .pushm d a _ => if act = 0 then [] else span d (a.toNat + 1 - d.toNat) dom
  | .bind _ a p _ => ctl a p 4
  | .unbind _ a p _ | .acq _ a p _ _ | .rel a p _ _ => ctl a p 2
  | .cln d a p _ | .inv d a p _ _ => ctl a p 2 ++ span d 1 c
  | .bankCm a p _ | .bankSm a p _ | .resvRd _ a p _ | .resvFree _ a p _ | .accClr a p _ _ => ctl a p 1
  | .accRd _ a p _ _ => if act = 0 then [] else ctl a p 1
  | .resv _ a p _ => ctl a p 4
  | .accWr d a p _ _ => if act = 0 then [] else span a ta (permMask gm p (s.accRead d)) ++ span d 1 c
  | .mma _ _ k _ | .desc _ _ k _ _ => (List.range 8).map fun j => (8 * k.toNat + j, c)
  | .mmas _ m k x sl _ =>
    ((List.range 8).map fun j => (8 * k.toNat + j, c)) ++ span x (s.indexRegs k m sl) 0xFFFFFFFF
  | .copy _ a p _ | .copyx _ a p _ | .gath _ a p _ | .coll _ a p _ | .qfence _ a p _ => ctl a p 16
  | .cqSeq _ a p _ _ | .boInit _ a p _ _ | .boWt _ a p _ _ | .genBump _ a p _ | .futWait _ a p _ | .futTest _ a p _
  | .futCncl _ a p _ | .futMov _ a p _ => ctl a p 1
  | .yieldc r _ => span r 1 c
  | .task _ a p _ => ctl a p 2
  | .tlbinv _ a p _ _ => ctl a p 4
  | .sysRd d sl => if indexed sl.toNat then span d 1 c else []
  | .sysWr d sl => if sl.toNat = 2 then own d 2
      else if indexed sl.toNat then span d 3 c else span d 2 c
  | _ => []

/-- The lanes at positions of the issuing split's domain; positions beyond it are discarded (R127). -/
def Machine.State.positions (s : State) (ks : List Nat) : Word :=
  (ks.filterMap fun k => s.domLanes[k]?).foldl (fun m i => m ||| (1#32 <<< i)) 0

/-- The lanes that an `acc.rd` writes: the active ones whose column the reservation has (R171). -/
def Machine.State.accLanes (s : State) (a : Reg) (p : Perm) : Word :=
  let w := s.operand a.toNat p s.ctl
  match s.blk.resvs.find? (·.handle == bits w 15 0) with
  | none => 0
  | some r => maskOfLanes (s.active.filter fun i => 32 * bits w 29 25 + i < 16 * bits r.w0 24 19)

/-- The rows of a matrix register block: its VR, at most M (R161). -/
def Machine.State.blockRows (s : State) (k : Nat) (m : Nat) : Nat :=
  min (bits (s.source (8 * k + 4) 0) 15 0) (16 * 2 ^ m)

/-- The groups of four domain positions that a `prune` processes: those with an active lane (R132). -/
def Machine.State.quadsOf (s : State) : List Nat :=
  (List.range 8).filter fun j => (List.range 4).any fun k => match s.domLanes[4 * j + k]? with
    | some i => s.activeMask.getLsbD i
    | none => false

/-- The registers an instruction writes, with the lanes it writes them in. -/
def Instr.writes (i : Instr) (s : State) : List (Nat × Word) :=
  let gm := s.spl.gm
  let act := s.activeMask
  let c : Word := 1#32 <<< s.ctl
  let dom := s.spl.dm
  let own := fun (r : Reg) (n : Nat) => span r n act
  let ta := regsOf (gmTA gm)
  match i with
  | .call r _ => span r 2 c
  | .limm d _ | .lhi d _ | .idx d _ => span d 1 (act ||| c)
  | .mode d _ _ _ _ => span d 2 c
  | .emSet d _ _ | .emGet d | .emAnd d _ _ | .emAndn d _ _ | .commit d | .tstat d => span d 1 c
  | .add d _ _ _ _ | .sub d _ _ _ _ | .mul d _ _ _ _ | .mulh d _ _ _ _ | .mulhn d _ _ _ _ | .min d _ _ _ _
  | .max d _ _ _ _ | .and d _ _ _ _ | .or d _ _ _ _ | .xor d _ _ _ _ | .andn d _ _ _ _ | .shl d _ _ _ _
  | .shr d _ _ _ _ | .sar d _ _ _ _ | .rot d _ _ _ _ | .dsh d _ _ _ _ | .bxt d _ _ _ _ | .sxt d _ _ _ _
  | .zxt d _ _ _ _ | .srnd d _ _ _ _ | .mad d _ _ _ _ | .bdp d _ _ _ _ | .sel d _ _ _ _ | .lperm d _ _ _ _ => own d 1
  | .abs d _ _ | .neg d _ _ | .not d _ _ | .lzc d _ _ | .tzc d _ _ | .ones d _ _ | .rvb d _ _ | .mov d _ _
  | .fcls d _ _ | .fcvti d _ _ => own d 1
  | .addc d _ _ _ _ | .subb d _ _ _ _ | .add64 d _ _ _ _ | .lea d _ _ _ _ => own d 2
  | .cmpeq d _ _ _ _ | .cmpne d _ _ _ _ | .cmplt d _ _ _ _ | .cmple d _ _ _ _ | .fcmpeq d _ _ _ _
  | .fcmplt d _ _ _ _ | .fcmple d _ _ _ _ | .fcmpun d _ _ _ _ | .mxscl d _ _ _ _ => span d 1 c
  | .lqAny d _ _ | .lqAll d _ _ | .lqSet d _ _ => span d 1 c
  | .gredAnd d _ _ | .gredOr d _ _ | .gredXor d _ _ => span d 1 (act ||| c)
  | .gredAdd d _ _ | .gredMin d _ _ | .gredMax d _ _ => span d (groupRegs gm) (act ||| c)
  | .fadd d _ _ _ _ | .fsub d _ _ _ _ | .fmul d _ _ _ _ | .fmin d _ _ _ _ | .fmax d _ _ _ _ | .zmul d _ _ _ _
  | .ffma d _ _ _ _ | .ffms d _ _ _ _ | .zfma d _ _ _ _ | .fscl d _ _ _ _ | .mxunp d _ _ _ _ => own d ta
  | .fabs d _ _ | .fneg d _ _ | .frnd d _ _ | .frcp d _ _ | .frsq d _ _ | .fsqrt d _ _ | .fex2 d _ _ | .flg2 d _ _
  | .fsin d _ _ | .fcos d _ _ | .zcnj d _ _ => own d ta
  | .gscanAdd d _ _ | .gscanMax d _ _ => own d (groupRegs gm)
  | .fcvt d _ _ | .fcvtf d _ _ => own d (regsOf (gmTB gm))
  | .mxpak d _ _ _ _ => if act = 0 then []
      else span d 1 (s.positions (List.range ((s.domLanes.length * elemWidth (gmTB gm) + 31) / 32)))
  | .isect d _ _ _ => [(d.toNat, if act = 0 then 0 else dom), (d.toNat + 1, c)]
  | .topk d _ _ _ x => if act = 0 then [] else span d 2 (s.positions (List.range (x.toNat + 1)))
  | .dgrp d _ _ _ _ => if act = 0 then [] else span d 2 dom
  | .prune d _ _ _ => [(d.toNat, s.positions (s.quadsOf.flatMap fun j => [2 * j, 2 * j + 1])),
      (d.toNat + 1, s.positions s.quadsOf)]
  | .ld d _ _ _ _ w | .ldc d _ _ _ _ w | .lds d _ _ _ w => own d (widthRegs w)
  | .ldacq d _ _ _ _ w | .lr d _ _ _ _ w | .sc d _ _ _ _ w | .atomAdd d _ _ _ _ w | .atomSub d _ _ _ _ w
  | .atomMin d _ _ _ _ w | .atomMax d _ _ _ _ w | .atomAnd d _ _ _ _ w | .atomOr d _ _ _ _ w
  | .atomXor d _ _ _ _ w | .atomXchg d _ _ _ _ w | .atomWinc d _ _ _ _ w | .atomFadd d _ _ _ _ w
  | .atomCas d _ _ _ _ w => own d (wideRegs w)
  | .popm d a _ => if act = 0 then [] else span d (a.toNat + 1 - d.toNat) dom
  | .bind d _ _ _ | .unbind d _ _ _ | .resv d _ _ _ | .resvFree d _ _ _ | .task d _ _ _ | .boInit d _ _ _ _
  | .boArr d _ _ | .boWt d _ _ _ _ | .copy d _ _ _ | .copyx d _ _ _ | .gath d _ _ _ | .coll d _ _ _
  | .qfence d _ _ _ | .futWait d _ _ _ | .futTest d _ _ _ | .futCncl d _ _ _ | .futMov d _ _ _
  | .tlbinv d _ _ _ _ | .genBump d _ _ _ => span d 1 c
  | .acq d _ _ _ _ | .cqSeq d _ _ _ _ | .clk d _ | .grn d _ => span d 2 c
  | .resvRd d _ _ _ => span d 4 c
  | .accRd d a p _ _ => span d (regsOf (gmTB gm)) (s.accLanes a p)
  | .mma _ _ k _ | .mmas _ _ k _ _ _ => [(8 * k.toNat + 5, c)]
  | .desc _ m k x _ => (List.range (if m.toNat = 2 then 2 else 1)).map fun h =>
      (x.toNat + h, maskOfLanes ((List.range 32).filter fun i => 32 * h + i < s.blockRows k.toNat m.toNat))
  | .sysRd d sl => if sl.toNat = 2 then own d 2 else span d 2 c
  | _ => []

/-! ## Field checks that depend on gm (R67 step 2, R99, R111) -/

/-- A register that fits an operand of a type code: even for a pair, a multiple of four for a quad. -/
def fitsType (t : Nat) (r : Reg) : Bool := r.toNat % regsOf t == 0

/-- The block types of R121 and R122. -/
def isBlockType (t : Nat) : Bool := 6 ≤ t && t ≤ 10

/-- The gm conditions of an instruction: its TA and TB sets, and pairs or quads for wide types. -/
def Instr.gmOk (i : Instr) (gm : DWord) : Bool :=
  let ta := gmTA gm
  let tb := gmTB gm
  let d2 := fun (ok : Bool) (d a : Reg) => ok && fitsType ta d && fitsType ta a
  let d3 := fun (ok : Bool) (d a b : Reg) => ok && fitsType ta d && fitsType ta a && fitsType ta b
  match i with
  | .fadd d a _ b _ | .fsub d a _ b _ | .fmul d a _ b _ | .ffma d a _ b _ | .ffms d a _ b _ | .fmin d a _ b _
  | .fmax d a _ b _ => d3 (isArithFloat ta) d a b
  | .fcmpeq _ a _ b _ | .fcmplt _ a _ b _ | .fcmple _ a _ b _ | .fcmpun _ a _ b _ => d2 (isArithFloat ta) a b
  | .fabs d a _ | .fneg d a _ | .frnd d a _ | .frcp d a _ | .frsq d a _ | .fsqrt d a _ => d2 (isArithFloat ta) d a
  | .fscl d a _ _ _ => d2 (isArithFloat ta) d a
  | .fcls _ a _ => isConvFloat ta && fitsType ta a
  | .fcvt d a _ => isConvFloat ta && isConvFloat tb && fitsType tb d && fitsType ta a
  | .fcvti _ a _ => isConvFloat ta && isIntCode tb && fitsType ta a
  | .fcvtf d _ _ => isIntCode ta && isConvFloat tb && fitsType tb d
  | .fex2 _ _ _ | .flg2 _ _ _ | .fsin _ _ _ | .fcos _ _ _ => ta = 0 || ta = 2 || ta = 3
  | .zmul d a _ b _ | .zfma d a _ b _ => d3 (ta = 17 || ta = 18) d a b
  | .zcnj d a _ => d2 (ta = 17 || ta = 18) d a
  | .srnd _ _ _ _ _ => isIntCode tb
  | .mxscl _ a _ _ _ => isArithFloat ta && isBlockType tb && fitsType ta a
  | .mxpak _ a _ _ _ => isArithFloat ta && isBlockType tb && fitsType ta a
  | .mxunp d _ _ _ _ => isArithFloat ta && isBlockType tb && fitsType ta d
  | .gredAdd d a _ | .gredMin d a _ | .gredMax d a _ | .gscanAdd d a _ | .gscanMax d a _ =>
    ta != 1 || (fitsType 1 d && fitsType 1 a)
  | .topk _ _ _ _ _ => ta != 1 && ta != 17 && ta != 18
  | .prune _ _ _ _ => ta = 0 || (2 ≤ ta && ta ≤ 5) || (11 ≤ ta && ta ≤ 13)
  | .atomFadd _ _ _ _ _ w | .redFadd _ _ _ _ w => (ta = 0 && w.toNat = 0) || (ta = 1 && w.toNat = 1)
  | .accRd d _ _ _ _ => (tb ≤ 5 || isIntCode tb) && fitsType tb d
  | .accWr _ a _ _ _ => (ta ≤ 3 || ta = 13 || ta = 16) && fitsType ta a
  | _ => true

/-- The opcode 0x00, which is no instruction (R66). -/
def Instr.isIll : Instr → Bool
  | .ill _ => true
  | _ => false

/-- The opcodes 0xC0 to 0xCA, which a near-memory core does not have (R12, R66). -/
def Instr.isBank : Instr → Bool
  | .bankCm _ _ _ | .bankSm _ _ _ | .resv _ _ _ _ | .resvRd _ _ _ _ | .resvFree _ _ _ _ | .mma _ _ _ _
  | .mmas _ _ _ _ _ _ | .accRd _ _ _ _ _ | .accWr _ _ _ _ _ | .accClr _ _ _ _ | .desc _ _ _ _ _ => true
  | _ => false

/-- The instructions that stream A rows (R26). -/
def Instr.isMatrix : Instr → Bool
  | .mma _ _ _ _ | .mmas _ _ _ _ _ _ | .desc _ _ _ _ _ => true
  | _ => false

/-! ## Lookahead (R56, R59) -/

/-- The lookahead count of an L- or M-format instruction (R51). -/
def Instr.la : Instr → Option Nat
  | .isect _ _ _ l | .prune _ _ _ l | .topk _ _ _ l _ | .dgrp _ _ _ l _
  | .ld _ _ _ l _ _ | .st _ _ _ l _ _ | .ldc _ _ _ l _ _ | .stm _ _ _ l _ | .lds _ _ _ l _ | .sts _ _ _ l _
  | .ldsp _ _ _ l _ _ | .pref _ _ l _ | .ldacq _ _ _ l _ _ | .strel _ _ _ l _ _ | .lr _ _ _ l _ _ | .sc _ _ _ l _ _
  | .atomAdd _ _ _ l _ _ | .atomSub _ _ _ l _ _ | .atomMin _ _ _ l _ _ | .atomMax _ _ _ l _ _ | .atomAnd _ _ _ l _ _
  | .atomOr _ _ _ l _ _ | .atomXor _ _ _ l _ _ | .atomXchg _ _ _ l _ _ | .atomCas _ _ _ l _ _ | .atomWinc _ _ _ l _ _
  | .atomFadd _ _ _ l _ _ | .redAdd _ _ _ l _ | .redMin _ _ _ l _ | .redMax _ _ _ l _ | .redAnd _ _ _ l _
  | .redOr _ _ _ l _ | .redXor _ _ _ l _ | .redFadd _ _ _ l _ | .pushm _ _ l | .popm _ _ l | .fence l _
  | .bind _ _ _ l | .unbind _ _ _ l | .acq _ _ _ l _ | .rel _ _ l _ | .cln _ _ _ l | .inv _ _ _ l _
  | .bankCm _ _ l | .bankSm _ _ l | .resv _ _ _ l | .resvRd _ _ _ l | .resvFree _ _ _ l | .mma _ _ _ l
  | .mmas _ _ _ _ _ l | .accRd _ _ _ l _ | .accWr _ _ _ l _ | .accClr _ _ l _ | .desc _ _ _ _ l
  | .copy _ _ _ l | .copyx _ _ _ l | .gath _ _ _ l | .coll _ _ _ l | .qfence _ _ _ l | .cqSeq _ _ _ l _
  | .futWait _ _ _ l | .futTest _ _ _ l | .futCncl _ _ _ l | .futMov _ _ _ l | .task _ _ _ l
  | .boInit _ _ _ l _ | .boArr _ l _ | .boWt _ _ _ l _ | .tlbinv _ _ _ l _ | .genBump _ _ _ l => some l.toNat
  | _ => none

/-- The instructions that wait for every outstanding instruction of their split and close its windows (R59). A barrier
does the same for its group (R314). -/
def Instr.closes : Instr → Bool
  | .split _ _ | .join _ | .exit | .yield _ | .yieldc _ _ | .tryOpen _ _ | .trylOpen _ _ | .commit _ | .abort _
  | .tfence | .phint _ | .trap _ | .brk _ | .rte | .bar _ | .barArr _ | .barWt _ | .spanbar => true
  | _ => false

/-- Do two lists of registers name one register in a common lane? -/
def meets (xs ys : List (Nat × Word)) : Bool := xs.any fun x => ys.any fun y => x.1 == y.1 && x.2 &&& y.2 != 0

/-! ## Try regions, fences and privilege -/

/-- The instructions that abort an open try region with UNSUPP before they take effect (R216, R248, R257, R311, R313,
R314, R316, R317). -/
def Instr.unsupp : Instr → Bool
  | .fence _ _ | .ldacq _ _ _ _ _ _ | .strel _ _ _ _ _ _ | .acq _ _ _ _ _ | .rel _ _ _ _ | .bind _ _ _ _
  | .unbind _ _ _ _ | .cln _ _ _ _ | .inv _ _ _ _ _ | .atomAdd _ _ _ _ _ _ | .atomSub _ _ _ _ _ _
  | .atomMin _ _ _ _ _ _ | .atomMax _ _ _ _ _ _ | .atomAnd _ _ _ _ _ _ | .atomOr _ _ _ _ _ _
  | .atomXor _ _ _ _ _ _ | .atomXchg _ _ _ _ _ _ | .atomCas _ _ _ _ _ _ | .atomWinc _ _ _ _ _ _
  | .atomFadd _ _ _ _ _ _ | .lr _ _ _ _ _ _ | .sc _ _ _ _ _ _ | .redAdd _ _ _ _ _ | .redMin _ _ _ _ _
  | .redMax _ _ _ _ _ | .redAnd _ _ _ _ _ | .redOr _ _ _ _ _ | .redXor _ _ _ _ _ | .redFadd _ _ _ _ _
  | .ldsp _ _ _ _ _ _ | .copy _ _ _ _ | .copyx _ _ _ _ | .gath _ _ _ _ | .coll _ _ _ _ | .qfence _ _ _ _
  | .cqSeq _ _ _ _ _ | .futWait _ _ _ _ | .futTest _ _ _ _ | .futCncl _ _ _ _ | .futMov _ _ _ _
  | .exit | .yieldc _ _ | .bar _ | .barArr _ | .barWt _ | .spanbar | .boInit _ _ _ _ _ | .boArr _ _ _
  | .boWt _ _ _ _ _ | .task _ _ _ _ => true
  | i => i.isBank

/-- The instructions that read a future-bearing register without blocking (R256, R275, R313). -/
def Instr.readsHandle : Instr → Bool
  | .futWait _ _ _ _ | .futTest _ _ _ _ | .futCncl _ _ _ _ | .futMov _ _ _ _ | .yieldc _ _ => true
  | _ => false

/-- The instructions that every split issues past an incomplete fence (R209): register instructions that raise no flag and make
no draw, and plain loads and stores. -/
def Instr.passesFence : Instr → Bool
  | .nop | .br _ | .bz _ _ | .bnz _ _ | .bmz _ _ | .bmnz _ _ | .call _ _ | .ret _ | .jmpr _ _ | .limm _ _ | .lhi _ _
  | .mode _ _ _ _ _ | .modei _ _ | .emSet _ _ _ | .emGet _ | .emAnd _ _ _ | .emAndn _ _ _ | .idx _ _
  | .add _ _ _ _ _ | .sub _ _ _ _ _ | .addc _ _ _ _ _ | .subb _ _ _ _ _ | .mul _ _ _ _ _ | .mulh _ _ _ _ _
  | .mulhn _ _ _ _ _ | .mad _ _ _ _ _ | .min _ _ _ _ _ | .max _ _ _ _ _ | .abs _ _ _ | .neg _ _ _ | .and _ _ _ _ _
  | .or _ _ _ _ _ | .xor _ _ _ _ _ | .andn _ _ _ _ _ | .not _ _ _ | .shl _ _ _ _ _ | .shr _ _ _ _ _ | .sar _ _ _ _ _
  | .rot _ _ _ _ _ | .dsh _ _ _ _ _ | .lzc _ _ _ | .tzc _ _ _ | .ones _ _ _ | .rvb _ _ _ | .bxt _ _ _ _ _
  | .bdp _ _ _ _ _ | .sel _ _ _ _ _ | .cmpeq _ _ _ _ _ | .cmpne _ _ _ _ _ | .cmplt _ _ _ _ _ | .cmple _ _ _ _ _
  | .mov _ _ _ | .add64 _ _ _ _ _ | .lea _ _ _ _ _ | .sxt _ _ _ _ _ | .zxt _ _ _ _ _ | .lperm _ _ _ _ _
  | .lqAny _ _ _ | .lqAll _ _ _ | .lqSet _ _ _ | .ld _ _ _ _ _ _ | .ldc _ _ _ _ _ _ | .st _ _ _ _ _ _
  | .stm _ _ _ _ _ | .lds _ _ _ _ _ | .sts _ _ _ _ _ | .pref _ _ _ _ => true
  | _ => false

/-- The selectors that name state of the group itself (R356). -/
def ownSelector (sel : Nat) : Bool := sel < 4 || (0x110 ≤ sel && sel < 0x140) || (0x150 ≤ sel && sel < 0x160)

/-- Those that the only split of a group issues past an incomplete fence besides (R209), since a rollback gives the group's
flags, generators and sp back. Every other waits: what R209 names, and what changes or reads state that others change
unmonitored, such as clk, so that a program would see that it came before the fence's completion (log entry 59). -/
def Instr.passesAlone : Instr → Bool
  | .fadd _ _ _ _ _ | .fsub _ _ _ _ _ | .fmul _ _ _ _ _ | .ffma _ _ _ _ _ | .ffms _ _ _ _ _ | .fmin _ _ _ _ _
  | .fmax _ _ _ _ _ | .fabs _ _ _ | .fneg _ _ _ | .fcmpeq _ _ _ _ _ | .fcmplt _ _ _ _ _ | .fcmple _ _ _ _ _
  | .fcmpun _ _ _ _ _ | .fcls _ _ _ | .fcvt _ _ _ | .fcvti _ _ _ | .fcvtf _ _ _ | .frnd _ _ _ | .fscl _ _ _ _ _
  | .frcp _ _ _ | .frsq _ _ _ | .fsqrt _ _ _ | .fex2 _ _ _ | .flg2 _ _ _ | .fsin _ _ _ | .fcos _ _ _
  | .zmul _ _ _ _ _ | .zfma _ _ _ _ _ | .zcnj _ _ _ | .srnd _ _ _ _ _ | .mxscl _ _ _ _ _ | .mxpak _ _ _ _ _
  | .mxunp _ _ _ _ _ | .gredAdd _ _ _ | .gredMin _ _ _ | .gredMax _ _ _ | .gredAnd _ _ _ | .gredOr _ _ _
  | .gredXor _ _ _ | .gscanAdd _ _ _ | .gscanMax _ _ _ | .isect _ _ _ _ | .topk _ _ _ _ _ | .dgrp _ _ _ _ _
  | .prune _ _ _ _ | .pushm _ _ _ | .popm _ _ _ | .tstat _ => true
  | .sysRd _ sl => ownSelector sl.toNat
  | _ => false

/-- The integer instructions that can raise SA under SAT (R100 to R105). -/
def Instr.saturates : Instr → Bool
  | .add _ _ _ _ _ | .sub _ _ _ _ _ | .mul _ _ _ _ _ | .mad _ _ _ _ _ | .abs _ _ _ | .neg _ _ _ | .shl _ _ _ _ _ => true
  | _ => false

/-- The level an instruction needs (R338, R355, R358). -/
def Instr.level : Instr → Level
  | .rte => .handler
  | .tlbinv _ _ _ _ _ | .genBump _ _ _ _ => .supervisor
  | .sysRd _ sl => if sl.toNat < 0x100 then .user else if sl.toNat < 0x200 then .handler else .supervisor
  | .sysWr _ sl =>
    if sl.toNat < 0x100 then .user else if sl.toNat < 0x200 && 0x101 < sl.toNat then .handler else .supervisor
  | _ => .user

/-! ## Energy (R350, R351) -/

/-- How many lines the active lanes' accesses of `n` bytes touch, by virtual address (R351). -/
def Machine.State.linesTouched (s : Machine.State) (a : Reg) (p : Perm) (n : Nat) (is : List Nat) : Nat :=
  (distinct (is.flatMap fun i =>
    let v := (s.operand64 a.toNat p i).toNat
    [v / 64, (v + n - 1) / 64])).length

/-- The class of an instruction's lane operation, and how many units of it are charged at its issue (R350, R351). The
class of an f64 operation has an FP64 or z64 operand: of type TA, of a conversion of type TB also. What a `red` costs at
the home is charged there. Lanes of an atomic that address one location make one request (R188). Control, barrier, queue
and matrix instructions have no lane operation of a class: what they set going is charged where it is done. -/
def Instr.laneUnits (i : Instr) (s : State) : Nat × Nat :=
  let gm := s.spl.gm
  let n := popCount s.activeMask
  let wide := gmTA gm = 1 || gmTA gm = 18
  let atoms := fun (a : Reg) (p : Perm) => (distinct (s.active.map fun i => (s.operand64 a.toNat p i).toNat)).length
  let fp := if wide then 3 else 2
  let conv := if wide || gmTB gm = 1 || gmTB gm = 18 then 3 else 2
  match i with
  | .limm _ _ | .lhi _ _ | .idx _ _ | .add _ _ _ _ _ | .sub _ _ _ _ _ | .addc _ _ _ _ _ | .subb _ _ _ _ _
  | .mul _ _ _ _ _ | .mulh _ _ _ _ _ | .mulhn _ _ _ _ _ | .mad _ _ _ _ _ | .min _ _ _ _ _ | .max _ _ _ _ _
  | .abs _ _ _ | .neg _ _ _ | .and _ _ _ _ _ | .or _ _ _ _ _ | .xor _ _ _ _ _ | .andn _ _ _ _ _ | .not _ _ _
  | .shl _ _ _ _ _ | .shr _ _ _ _ _ | .sar _ _ _ _ _ | .rot _ _ _ _ _ | .dsh _ _ _ _ _ | .lzc _ _ _ | .tzc _ _ _
  | .ones _ _ _ | .rvb _ _ _ | .bxt _ _ _ _ _ | .bdp _ _ _ _ _ | .sel _ _ _ _ _ | .cmpeq _ _ _ _ _ | .cmpne _ _ _ _ _
  | .cmplt _ _ _ _ _ | .cmple _ _ _ _ _ | .mov _ _ _ | .add64 _ _ _ _ _ | .lea _ _ _ _ _ | .sxt _ _ _ _ _
  | .zxt _ _ _ _ _ => (1, n)
  | .fadd _ _ _ _ _ | .fsub _ _ _ _ _ | .fmul _ _ _ _ _ | .ffma _ _ _ _ _ | .ffms _ _ _ _ _ | .fmin _ _ _ _ _
  | .fmax _ _ _ _ _ | .fcmpeq _ _ _ _ _ | .fcmplt _ _ _ _ _ | .fcmple _ _ _ _ _ | .fcmpun _ _ _ _ _
  | .fabs _ _ _ | .fneg _ _ _ | .fcls _ _ _ | .zcnj _ _ _
  | .frnd _ _ _ | .fscl _ _ _ _ _ | .zmul _ _ _ _ _ | .zfma _ _ _ _ _ => (fp, n)
  | .fcvt _ _ _ | .fcvti _ _ _ | .fcvtf _ _ _ => (conv, n)
  | .srnd _ _ _ _ _ => (2, n)
  | .frcp _ _ _ | .frsq _ _ _ | .fsqrt _ _ _ | .fex2 _ _ _ | .flg2 _ _ _ | .fsin _ _ _ | .fcos _ _ _ => (4, n)
  | .lqAny _ _ _ | .lqAll _ _ _ | .lqSet _ _ _ | .gredAdd _ _ _ | .gredMin _ _ _ | .gredMax _ _ _ | .gredAnd _ _ _
  | .gredOr _ _ _ | .gredXor _ _ _ | .gscanAdd _ _ _ | .gscanMax _ _ _ | .mxscl _ _ _ _ _ | .mxpak _ _ _ _ _
  | .mxunp _ _ _ _ _ | .lperm _ _ _ _ _ | .isect _ _ _ _ | .topk _ _ _ _ _ | .dgrp _ _ _ _ _ | .prune _ _ _ _ => (5, 1)
  | .lds _ _ _ _ w | .sts _ _ _ _ w => (9, (n * widthBytes w + 127) / 128)
  | .pushm d a _ | .popm d a _ => (9, if n = 0 then 0 else a.toNat + 1 - d.toNat)
  | .ld _ a p _ _ w => (10, s.linesTouched a p (widthBytes w) s.active)
  | .ldc _ a p _ _ w => (10, if n = 0 then 0 else s.linesTouched a p (widthBytes w) [s.ctl])
  | .pref a p _ _ => (10, s.linesTouched a p 1 s.active)
  | .st _ a p _ _ w => (11, s.linesTouched a p (widthBytes w) s.active)
  | .stm _ a p _ _ => (11, s.linesTouched a p 4 s.active)
  | .ldsp _ a p _ _ w => (11, s.linesTouched a p (if w = 0 then 4 else 16) s.active)
  | .ldacq _ a p _ _ w | .strel _ a p _ _ w => (11, s.linesTouched a p (if w = 1 then 8 else 4) s.active)
  | .lr _ a p _ _ _ | .sc _ a p _ _ _ | .atomAdd _ a p _ _ _ | .atomSub _ a p _ _ _ | .atomMin _ a p _ _ _
  | .atomMax _ a p _ _ _ | .atomAnd _ a p _ _ _ | .atomOr _ a p _ _ _ | .atomXor _ a p _ _ _ | .atomXchg _ a p _ _ _
  | .atomCas _ a p _ _ _ | .atomWinc _ a p _ _ _ | .atomFadd _ a p _ _ _ => (13, atoms a p)
  | .acq _ _ _ _ _ | .rel _ _ _ _ => (13, 1)
  | .redAdd _ _ _ _ _ | .redMin _ _ _ _ _ | .redMax _ _ _ _ _ | .redAnd _ _ _ _ _ | .redOr _ _ _ _ _
  | .redXor _ _ _ _ _ | .redFadd _ _ _ _ _ => (13, 0)
  | _ => (1, 0)

end Sys2Proof
end

