-- ==== Sys2Proof/Machine/Issue.lean ====
section
/-! DEFINITION. Issue of one instruction: the checks of R67 in their order, the waits before issue, futures, and what
every instruction does when it retires, traps, aborts its region or waits (03 R53-R67, 02 R23-R28, 11 R250-R258). -/

namespace Sys2Proof.Machine

/-! ## Queues and futures (R250, R258) -/

/-- The die and queue index that a queue number names for an issuing die; die 40 is the hub (R250). -/
def resolveQn (die qn : Nat) : Option (Nat × Nat) :=
  if qn < 256 then some (die, qn)
  else if qn / 4096 = 1 && qn / 256 % 16 < 8 then some (32 + qn / 256 % 16, qn % 256)
  else if 8192 ≤ qn && qn < 8448 then some (40, qn % 256)
  else none

/-- DONE, ISSUED, LSZ, ring base and address space of a queue (R251). -/
def State.cqDone (s : State) (die q : Nat) : Nat := (s.cqWord die q 3).toNat
def State.cqIssued (s : State) (die q : Nat) : Nat := (s.cqWord die q 4).toNat
def State.cqLsz (s : State) (die q : Nat) : Nat := bits (s.cqWord die q 0) 5 0
def State.cqBase (s : State) (die q : Nat) : Nat := bits (s.cqWord die q 0) 56 6 * 64
def State.cqAsid (s : State) (die q : Nat) : Nat := bits (s.cqWord die q 1) 63 48
def State.cqEn (s : State) (die q : Nat) : Bool := (s.cqWord die q 1).getLsbD 0

/-- Is LSZ in range, so that EN may read one (R251)? -/
def lszOk (w0 : DWord) : Bool := 4 ≤ bits w0 5 0 && bits w0 5 0 ≤ 16

/-- `FullSeq` (R258). Where no command of the queue so far has these low bits, R258 names none: the model takes command 0
(log entry 85). -/
def fullSeq (issued sql : Nat) : Nat :=
  let m := issued / 65536 * 65536 + sql
  if issued < m then m - 65536 else m

/-- Has command `m` of a queue completed (R258)? -/
def State.commandDone (s : State) (die q m : Nat) : Bool := m ≤ s.cqDone die q

/-- The bytes an address space reads at an address through a unit, if it may and no line of them is past correcting
(R190, R191, R341, R393). -/
def State.readVa (s : State) (u : Unit') (asid va n : Nat) : Option (List Byte) :=
  if aliasBase ≤ va && va < 2 ^ 57 then none
  else
    match s.check u asid va n .load false with
    | .mem ps => if ps.any fun at_ => (s.unreadable asid at_).isSome then none else some (ps.map (s.readAt asid))
    | _ => none

/-- The copy engine of a queue: a die has eight, of which the low three bits of ENG name one (R10, R250; log entry 65). -/
def State.engineOf (s : State) (die q : Nat) : Unit' := .engine die (bits (s.cqWord die q 1) 10 8)

/-- The address of the ring slot of command `m` (R251). -/
def State.ringSlot (s : State) (die q m : Nat) : Nat := s.cqBase die q + 64 * (m % 2 ^ s.cqLsz die q)

/-- The status word of command `m` (R258): what words 12 to 14 of its ring slot hold, EXPIRED where the slot no longer
holds it. -/
def State.statusWord (s : State) (die q m : Nat) : Word :=
  let low := m % 65536 * 65536
  match s.readVa (s.engineOf die q) (s.cqAsid die q) (s.ringSlot die q m + 48) 12 with
  | none => BitVec.ofNat 32 (low + 15)
  | some bs =>
    let w14 := natOfBytes (bs.drop 8)
    if natOfBytes (bs.take 8) = m then
      BitVec.ofNat 32 (low + w14 / 2 ^ 16 % 64 * 256 + w14 / 2 ^ 24 % 16)
    else BitVec.ofNat 32 (low + 15)

/-- The read of that word: noted where a firewall denies it (R341), its translation cached, its line taken back from the host
(R193, R360). -/
def State.noteStatus (s : State) (die q m : Nat) : State :=
  ((s.noteDeniedAt (s.engineOf die q) (s.cqAsid die q) (s.ringSlot die q m + 48) 12 .load 1).reach (s.engineOf die q)
    (s.cqAsid die q) (s.ringSlot die q m + 48) 12).1

/-- The future a register bears (R256). -/
def Group.futureOf (g : Group) (r : Nat) : Option Future := (g.futures.find? (·.1 == r)).map (·.2)

/-- The issuing group with a register's bearing ended (R256). -/
def State.dropFuture (s : State) (r : Nat) : State :=
  { s with grp := { s.grp with futures := s.grp.futures.filter (·.1 != r) } }

/-- The blocking read of a future-bearing register once its command has completed: the lane of the handle receives the
status word and the bearing ends (R256, R258); the read is an acquire at die scope or wider (R211, R212). -/
def State.resolveFuture (s : State) (r : Nat) (f : Future) : State :=
  (((s.noteStatus f.die (f.qn % 256) f.seq).setReg r f.lane (s.statusWord f.die (f.qn % 256) f.seq)).dropFuture r).dropL1
    s.blk.core

/-! ## What an instruction's effect comes to -/

/-- The end of an instruction's effect. -/
inductive Res where
  /-- It is performed; the split goes on at the next word. -/
  | next (s : State)
  /-- It is performed and sets pc (R52, R306, R307). -/
  | jump (s : State) (pc : Addr)
  /-- It raises a trap; the state holds what was performed before the fault (R186). -/
  | trap (s : State) (t : TrapInfo)
  /-- It aborts the open try region (R319, R321). -/
  | abort (s : State) (code imm : Nat)
  /-- It waits unissued. -/
  | stall (w : Wait)
  /-- Its first part is performed and it waits, its address in pc, for the second. -/
  | hold (s : State) (w : Wait)
  /-- It is performed and the split issues nothing next, or has been sent elsewhere already. -/
  | gone (s : State)

/-- A trap with a code and no more to say. -/
def trapCode (s : State) (code : Nat) : Res := .trap s { code := code }

/-- Time passes at a move of a die (R357): the tick, the die's clk and the module's time base. -/
def State.pass (s : State) (die : Nat) : State :=
  { s with
    tick := s.tick + 1
    cores := { s.cores with clk := sset 0 s.cores.clk die (sget 0 s.cores.clk die + 1 + Config.extraClk s.tick) }
    mgmt := { s.mgmt with ns := s.mgmt.ns + Config.nsStep s.tick } }

/-- Clk of a die (R357). -/
def State.clkOf (s : State) (die : Nat) : Nat := sget 0 s.cores.clk die

/-- Is a split there that can issue? -/
def State.issuing (s : State) : Bool := s.spl.st == .live && !s.grp.ended

/-- The requests of the issuing split that have not reached their homes (R192, R231, R241). -/
def State.ownRequests (s : State) : List Request :=
  s.mem.requests.filter fun r => r.core == s.blk.core && r.slot == s.grp.slot && r.spl == s.cur

/-- The contributions of the issuing split that have reached their homes and are not performed (R189, R192). -/
def State.ownReductions (s : State) : List Request :=
  s.mem.reductions.filter fun r => r.core == s.blk.core && r.slot == s.grp.slot && r.spl == s.cur

/-- Has a reduction drawn under SR (R189)? -/
def Request.draws (r : Request) : Bool := r.red.any fun d => !d.seeds.isEmpty

/-- Has the issuing split a `desc` outstanding, whose side-area writes come before what it issues next (R180, R222)? -/
def State.descending (s : State) : Bool :=
  s.blk.resvs.any fun r => r.work.any fun w => w.kind = 2 && w.slot == s.grp.slot && w.spl == s.cur

/-- Has every earlier write and `red` contribution of the issuing split completed (R201, R205)? -/
def State.quiet (s : State) : Bool := s.ownRequests.isEmpty && s.ownReductions.isEmpty && !s.descending

/-- Has the issuing split an instruction that may still fault (R56, R59, R192)? -/
def State.outstanding (s : State) : Bool :=
  s.spl.windows.any (·.busy) || !s.ownRequests.isEmpty || !s.ownReductions.isEmpty

/-- How many L- and M-format instructions of the split have not completed (R59): matrix work, stores and reductions on
their way, stores behind a fence. -/
def State.outstandingCount (s : State) : Nat :=
  (s.spl.windows.filter (·.busy)).length +
    (distinct (s.ownRequests.map (·.origin.stamp) ++ match s.spl.spec with
      | some f => f.buffer.map (·.origin.stamp)
      | none => [])).length

/-- Has a split of the issuing group an instruction or a fence that has not completed (R59, R377)? -/
def State.splitBusy (s : State) (k : Nat) : Bool :=
  (s.grp.splitAt k).windows.any (·.busy) || (s.grp.splitAt k).spec.isSome ||
    ((s.mem.requests ++ s.mem.reductions).any fun r => r.core == s.blk.core && r.slot == s.grp.slot && r.spl == k) ||
    s.blk.resvs.any fun r => r.work.any fun w => w.slot == s.grp.slot && w.spl == k

/-- Has another split of the group (R377)? -/
def State.othersBusy (s : State) : Bool := (List.range 4).any fun k => k != s.cur && s.splitBusy k

/-- The state with the issuing split waiting. It is not ready, so that its run and its wait count are over (R300, R326). -/
def State.waitFor (s : State) (w : Wait) : State :=
  { s.setSpl { s.spl with wait := some (w, s.tick), run := 0, waitCount := 0 } with turn := false }

/-- Has the issuing split a matrix instruction that waits at issue for its row slot (R155)? -/
def State.slotWait (s : State) : Bool :=
  s.blk.resvs.any fun r => r.work.any fun w => !w.started && w.slot == s.grp.slot && w.spl == s.cur

/-! ## The checks of R67 -/

/-- Step 1 and 2: opcode and fields (R53, R66). The opcode 0x00 is judged here, before anything of the state. -/
def checkForm (i : Instr) (s : State) : Option Res :=
  if i.isIll || (i.isBank && isNear s.blk.core) || !i.wf || !i.gmOk s.spl.gm then some (trapCode s tILLEGAL) else none

/-- The registers an instruction reads, the guard register among them (R25, R256). -/
def readsAll (i : Instr) (s : State) : List (Nat × Word) :=
  if gmGE s.spl.gm then (gmGR s.spl.gm, 1#32 <<< s.ctl) :: i.reads s else i.reads s

/-- What an open try region aborts at this point (R67). -/
def checkRegion (i : Instr) (s : State) : Option Res :=
  match s.grp.region with
  | none => none
  | some r =>
    match r.doomed with
    | some code => some (.abort s code 0)
    | none =>
      if i.unsupp then some (.abort s 8 0)
      else if i.readsHandle then none
      else if (readsAll i s).any fun (n, m) => m != 0 && (s.grp.futureOf n).isSome then some (.abort s 8 0)
      else none

/-- Step 3: privilege (R338). -/
def checkLevel (i : Instr) (s : State) : Option Res :=
  if s.holds i.level then none else some (trapCode s tPROT)

/-- Does an instruction depend on that of a window: reads or writes a result, or writes a source, in a common lane (R56)? -/
def Window.dependence (w : Window) (rd wr : List (Nat × Word)) : Bool :=
  meets rd w.results || meets wr w.results || meets wr w.sources

/-- Step 4: strict lookahead (R58), and the waits of R56 and R59. An instruction that closes windows issues when no
instruction of one is outstanding, so that it depends on none. A store that a fence has let go is outstanding until it is
performed (R231). Behind a `red.fadd` that has drawn under SR nothing issues until it is performed, so that draws keep the
order of the program where a lane of it fails (R89, R376; log entry 95). An instruction that is performed in the step of its
issue counts as outstanding for as long as its
window is open, as in the example of R60 (log entry 36). -/
def checkWindows (i : Instr) (s : State) : Option Res :=
  let ws := s.spl.windows
  if gmSLA s.spl.gm && !i.closes && ws.any (fun w => 0 < w.left && w.dependence (i.reads s) (i.writes s)) then
    some (trapCode s tLOOKAHEAD)
  else if ws.any (fun w => w.busy && (w.left = 0 || i.closes)) || s.slotWait then some (.stall .matrix)
  else if s.ownRequests.any (fun r => i.closes || !(ws.any fun w => w.stamp == r.origin.stamp && 0 < w.left)) ||
      (s.ownRequests ++ s.ownReductions).any Request.draws then
    some (.stall .fence)
  else if i.la.isSome && 16 ≤ s.outstandingCount then some (.stall .matrix)
  else none

/-- Step 5: all 32 lanes for the matrix and descent instructions, and no split group (R26). -/
def checkLanes (i : Instr) (s : State) : Option Res :=
  if i.isMatrix && (s.effMask != 0xFFFFFFFF || s.grp.isSplit) then some (trapCode s tICONV) else none

/-- Does an instruction issue past an incomplete fence `f` of the split (R209)? In a split group what raises flags, draws or
moves sp waits, since they are the group's; draws wait for those of outstanding matrix work, so that a rollback gives back its
own alone. -/
def passes (i : Instr) (s : State) (f : Spec) : Bool :=
  (i.passesFence && !(gmSAT s.spl.gm && i.saturates)) ||
    (f.alone && (i.passesFence || i.passesAlone && !s.spl.windows.any (·.busy)))

/-- What waits for an incomplete fence of the split (R209): what R209 names, and what would change state that a rollback
could not give back, or show another outcome than a fence that nothing runs past (DEDUCED, log entry 59). -/
def checkFence (i : Instr) (s : State) : Option Res :=
  if s.spl.spec.any fun f => !passes i s f || (i.writes s).any fun x => x.2 != 0 && (s.grp.futureOf x.1).isSome then
    some (.stall .fence)
  else none

/-- A read of a future whose command has not completed blocks the split; so does any such read past a fence (R256). -/
def checkFutures (i : Instr) (s : State) : Option Res :=
  if i.readsHandle then none
  else if (readsAll i s).any fun (n, m) => m != 0 &&
      (match s.grp.futureOf n with
       | some f => !s.commandDone f.die (f.qn % 256) f.seq || s.spl.spec.isSome
       | none => false) then some (.stall .future)
  else none

/-- An uncorrectable error of a register word that the instruction reads (R393, STR 1). -/
def checkUpset (i : Instr) (s : State) : Option Res :=
  if s.mem.upsets.any fun u => u.1 == 1 && u.2.1 == s.blk.core && u.2.2 / 2048 == s.grp.slot &&
      (readsAll i s).any (fun x => x.1 == u.2.2 / 32 % 64 && x.2.getLsbD (u.2.2 % 32)) then
    some (.trap s { code := tECC, str := 1 })
  else none

/-- The first of a list of checks that stops the instruction. -/
def firstStop (i : Instr) (s : State) : List (Instr → State → Option Res) → Option Res
  | [] => none
  | f :: rest =>
    match f i s with
    | some r => some r
    | none => firstStop i s rest

/-- The checks in the order of R67: form, region, level, lookahead, lanes, then the waits before the effect. -/
def State.stopped (s : State) (i : Instr) : Option Res :=
  firstStop i s [checkForm, checkRegion, checkLevel, checkWindows, checkLanes, checkFence, checkFutures, checkUpset]

/-- The futures that an instruction reads have ended (R256). -/
def State.endFutures (s : State) (i : Instr) : State :=
  if i.readsHandle || s.grp.futures.isEmpty then s
  else (readsAll i s).foldl (fun (acc : State) (x : Nat × Word) =>
    match acc.grp.futureOf x.1 with
    | some f => if x.2 == 0#32 then acc else acc.resolveFuture x.1 f
    | none => acc) s

/-- The flags that instructions of open windows have raised, each landed already or not yet found in fl (R57). -/
def State.hideFlags (s : State) : State :=
  let p := s.spl
  if p.windows.all (·.flags == 0) then s
  else
    let ws := ((List.range p.windows.length).zip p.windows).map fun (j, (w : Window)) =>
      if Config.choice s.tick (2 ^ 20 + j) then { w with flags := 0 } else w
    let hidden := ws.foldl (fun (f : BitVec 6) (w : Window) => f ||| w.flags) 0
    { s with grp := { s.grp with fl := s.grp.fl &&& ~~~hidden } }.setSpl { p with windows := ws }

/-- The flags of open windows in fl again; those that the instruction has raised itself are there for good (R57). -/
def State.landFlags (s : State) : State :=
  let p := s.spl
  if p.windows.all (·.flags == 0) then s
  else
    let fl := s.grp.fl
    let ws := p.windows.map fun w => { w with flags := w.flags &&& ~~~fl }
    let all := p.windows.foldl (fun (f : BitVec 6) (w : Window) => f ||| w.flags) fl
    { s with grp := { s.grp with fl := all } }.setSpl { p with windows := ws }

/-- The windows of the issuing split closed (R59). -/
def State.closeWindows (s : State) : State :=
  if s.spl.windows.isEmpty then s else s.setSpl { s.spl with windows := [] }

/-- The state in which an instruction that nothing stops reads its operands (R57, R59, R256). -/
def State.ready (s : State) (i : Instr) : State :=
  let t := s.endFutures i
  if i.closes then t.closeWindows else t.hideFlags

/-! ## Retiring -/

/-- Bearings that an instruction's plain writes end (R256), and upset words that they make good (R393). -/
def State.overwrite (s0 : State) (i : Instr) (s : State) : State :=
  let wr := (i.writes (s0.ready i)).filter (·.2 != 0)
  { s with
    grp := { s.grp with futures := s.grp.futures.filter fun f => !(s0.grp.futures.contains f && wr.any (·.1 == f.1)) }
    mem := { s.mem with upsets := s.mem.upsets.filter fun u => !(u.1 == 1 && u.2.1 == s0.blk.core &&
      u.2.2 / 2048 == s0.grp.slot && wr.any fun x => x.1 == u.2.2 / 32 % 64 && x.2.getLsbD (u.2.2 % 32)) } }

/-- Lanes of results of open windows that an instruction of the window has written as well: each ends with its value, or
with the one that was there, whichever lands last; the other may still be found while the window is open (R57). -/
def State.crossLandings (s0 : State) (i : Instr) (s : State) : State :=
  let p := s.spl
  let watched := fun (k : Nat) => p.windows.any fun w => 0 < w.left && w.before.any (·.1 == k)
  let hit := ((i.writes (s0.ready i)).flatMap fun x => (lanesOf x.2).map (32 * x.1 + ·)).filter fun k =>
    watched k && (s.grp.futureOf (k / 32)).isNone
  if hit.isEmpty then s
  else
    let u := s0.ready i
    let older := hit.filter fun k => Config.choice s0.tick (2 ^ 21 + k)
    let t := older.foldl (fun (t : State) k => t.setReg (k / 32) (k % 32) (u.reg (k / 32) (k % 32))) s
    let after := fun (w : Window) => { w with before :=
      (w.before.filter fun e => !hit.contains e.1 || i.la.any (0 < ·)) ++
        ((older.filter fun k => w.before.any (·.1 == k)).map fun k => (k, s.reg (k / 32) (k % 32))) }
    t.setSpl { p with windows := p.windows.map after }

/-- The windows of the split after one more instruction has issued (R56); one that closes windows leaves none (R59). An
instruction under re-execution opens none (R60). In a split group a window stands until the next instruction of its split
has issued, since another split may read its lanes (R28). `fl` holds the flags as the instruction has left them. -/
def windowsAfter (i : Instr) (s0 : State) (ws : List Window) (fl : BitVec 6) : List Window :=
  if i.closes then []
  else
    let old := ((ws.filter fun w => w.busy || 1 < w.left || (s0.grp.isSplit && 0 < w.left))).map fun w =>
      { w with left := w.left - 1 }
    let la := if s0.spl.redo.isEmpty then i.la.getD 0 else 0
    if i.la.isSome && (0 < la || i.isMatrix || s0.grp.isSplit) then
      let u := s0.ready i
      let results := (i.writes u).filter (·.2 != 0)
      let before := if i.isMatrix then []
        else results.flatMap fun x => (lanesOf x.2).map fun k => (32 * x.1 + k, u.reg x.1 k)
      old ++ [⟨s0.spl.pc, la, results, (i.reads u).filter (·.2 != 0), i.isMatrix, s0.tick, before, fl &&& ~~~u.grp.fl⟩]
    else old

/-- The issuing split sent on to its next instruction: the next word, a target, or the next listed instruction of a
re-execution (R47, R383). -/
def Split.advance (p : Split) (ws : List Window) (target : Option Addr) : Split :=
  match target with
  | some pc => { p with pc := pc, windows := ws, wait := none, redo := [] }
  | none =>
    match p.redo with
    | (a, _) :: (b, m) :: rest =>
      if a = p.pc then { p with pc := b, windows := ws, wait := none, redo := (b, m) :: rest }
      else { p with pc := p.pc + 4, windows := ws, wait := none }
    | [(a, _)] =>
      if a = p.pc then { p with pc := p.redoNpc, windows := ws, wait := none, redo := [] }
      else { p with pc := p.pc + 4, windows := ws, wait := none }
    | [] => { p with pc := p.pc + 4, windows := ws, wait := none }

/-- The energy of an instruction, be it performed, trapped or aborted (R350, R351). -/
def State.chargeInstr (s : State) (i : Instr) (s0 : State) : State :=
  let die := dieOf s0.blk.core
  let (cls, units) := i.laneUnits s0
  s.chargeGrains s0.blk.asid (s0.costOf 0 die + s0.costOf cls die * units + s0.trafficCost die wayClasses)

/-- An instruction has been performed (`s`, from `s0`): bearings, windows, pc, energy and time. -/
def State.retire (s0 : State) (i : Instr) (s : State) (target : Option Addr) : State :=
  let s1 := (s0.overwrite i (s0.crossLandings i s)).landFlags
  let s2 := s1.setSpl (s1.spl.advance (windowsAfter i s0 s1.spl.windows s.grp.fl) target)
  { (s2.chargeInstr i s0).pass (dieOf s0.blk.core) with turn := false }

/-- Is the fault of a lane of an instruction found only after other splits of its group have gone on, freely (R378)? -/
def State.foundLate (s : State) (i : Instr) : Bool :=
  s.grp.isSplit && s.grp.handler.isNone && i.la.isSome && Config.choice s.tick (2 ^ 18)

/-- Must the trap of an instruction wait, `s` being what it has performed: for an incomplete fence, for what is outstanding
in the group, its own lanes among it, for an earlier trap of another split, or until it is found (R59, R186, R209, R377,
R378)? -/
def State.trapWaits (s0 : State) (i : Instr) (s : State) : Bool :=
  s0.spl.spec.isSome || s0.outstanding || s.outstanding || s0.othersBusy ||
    (s0.grp.handler.isNone && s0.grp.pendOthers s0.cur != 0) || s0.foundLate i

/-- The trap of a listed instruction kept until it can be delivered: the lanes that it has performed stand, and the split
stops behind it (R58, R60, R377). -/
def State.keepTrap (s0 : State) (i : Instr) (s : State) (t : TrapInfo) : State :=
  let u := { s with grp := s.grp.pend s.cur t s.spl.pc s0.tick (s0.foundLate i) }
  { ((u.setSpl (u.spl.advance u.spl.windows none)).chargeInstr i s0).pass (dieOf s0.blk.core) with turn := false }

/-- A trap of the issuing split that lists nothing, or in a try region: once every outstanding instruction of its group has
completed, and past an incomplete fence once the fence has (R59, R209, R377). -/
def State.trapWhenQuiet (s0 : State) (taken : State) : State :=
  if s0.spl.spec.isSome then s0.waitFor .fence
  else if s0.outstanding || s0.othersBusy then s0.waitFor .trap
  else { taken.pass (dieOf s0.blk.core) with turn := false }

/-- An instruction traps, with `s` what it has performed: at once, or once it need not wait (R59, R60, R377). -/
def State.endTrap (s0 : State) (i : Instr) (s : State) (t : TrapInfo) : State :=
  let u := s.countRoute t.code t.str
  if t.listed && s0.grp.region.isNone && s0.trapWaits i s then s0.keepTrap i u.landFlags t
  else s0.trapWhenQuiet ((u.landFlags.trapHere t).chargeInstr i s0)

/-- How the step of an instruction ends: `s0` is the state before it. -/
def State.settle (s0 : State) (i : Instr) : Res → State
  | .next s => s0.retire i s none
  | .jump s pc => s0.retire i s (some pc)
  | .trap s t => s0.endTrap i s t
  | .abort s code imm => { ((s.abortRegion code imm).chargeInstr i s0).pass (dieOf s0.blk.core) with turn := false }
  | .stall w => s0.waitFor w
  | .hold s w => (s.landFlags.pass (dieOf s0.blk.core)).waitFor w
  | .gone s => { (s.chargeInstr i s0).pass (dieOf s0.blk.core) with turn := false }

/-- One instruction of the issuing split: its checks, then its effect. -/
def gate (i : Instr) (s : State) (effect : State → Res) : Host.Outcome State Fault Refusal :=
  if s.issuing then
    .next (s.settle i (match s.stopped i with
      | some r => r
      | none => effect (s.ready i)))
  else .fault .noIssuer

/-- A move of another agent: what it does, then time. -/
def move (s : State) : Host.Outcome State Fault Refusal :=
  .next { s with tick := s.tick + 1, mgmt := { s.mgmt with ns := s.mgmt.ns + Config.nsStep s.tick } }

end Sys2Proof.Machine
end

