-- ==== Sys2Proof/Machine/Integer.lean ====
section
/-! DEFINITION. Integer arithmetic, logic, shifts, bit fields, selection, comparison and 64-bit forms: opcodes 0x20 to
0x45 (05_results_vector_instructions.md R100-R110). -/

namespace Sys2Proof.Machine

/-! ## Shared shapes -/

/-- A value per active lane, without flags: every lane is read before any is written. -/
def State.mapLanes (s : State) (d : Reg) (f : Nat → Word) : State :=
  s.setLanes d.toNat (s.active.map fun i => (i, f i))

/-- The state with the flags of a list of lanes raised. -/
def State.raiseAll (s : State) : List (Nat × BitVec 6) → State
  | [] => s
  | (i, f) :: rest => (s.raise i f).raiseAll rest

/-- A value and its flags per active lane. -/
def State.mapFlags (s : State) (d : Reg) (f : Nat → Word × BitVec 6) : State :=
  (s.raiseAll (s.active.map fun i => (i, (f i).2))).mapLanes d fun i => (f i).1

/-- A 64-bit value per active lane, written to a pair. -/
def State.mapPairs (s : State) (d : Reg) (f : Nat → DWord) : State :=
  (s.active.map fun i => (i, f i)).foldl (fun t v => t.setPair d.toNat v.1 v.2) s

/-- The mask of the active lanes that a predicate picks (R109). -/
def State.maskOf (s : State) (pr : Nat → Bool) : Word :=
  s.active.foldl (fun m i => if pr i then m ||| (1#32 <<< i) else m) 0

/-- A scalar result: the control lane only (R23). -/
def State.setCtl (s : State) (d : Reg) (v : Word) : State := s.setReg d.toNat s.ctl v

/-- The integer value of an operand lane (R100). -/
def State.int (s : State) (r : Reg) (p : Perm) (i : Nat) : Int := intVal s.spl.gm (s.operand r.toNat p i)
/-- `IntVal` of the second source. -/
def State.intB (s : State) (r : Reg) (p : Perm) (i : Nat) : Int := intVal s.spl.gm (s.operandB r.toNat p i)

/-- An integer operation of two operands with `IntRes` (R101, R102). -/
def intOp (d a : Reg) (p : Perm) (b : Reg) (q : Perm) (f : Int → Int → Int) (s : State) : Res :=
  .next (s.mapFlags d fun i => intRes s.spl.gm (f (s.int a p i) (s.intB b q i)))

/-- A lane operation on two words. -/
def wordOp (d a : Reg) (p : Perm) (b : Reg) (q : Perm) (f : Word → Word → Word) (s : State) : Res :=
  .next (s.mapLanes d fun i => f (s.operand a.toNat p i) (s.operandB b.toNat q i))

/-- A lane operation on one word. -/
def wordOp1 (d a : Reg) (p : Perm) (f : Word → Word) (s : State) : Res :=
  .next (s.mapLanes d fun i => f (s.operand a.toNat p i))

/-- A comparison of two operands to a scalar mask (R109). -/
def compareOp (d : Reg) (pr : Nat → Bool) (s : State) : Res := .next (s.setCtl d (s.maskOf pr))

/-! ## Arithmetic (R101-R103) -/

/-- `add` (R101). -/
def execAdd (d a : Reg) (p : Perm) (b : Reg) (q : Perm) (s : State) : Host.Outcome State Fault Refusal :=
  gate (.add d a p b q) s (intOp d a p b q fun x y => x + y)

/-- `sub` (R101). -/
def execSub (d a : Reg) (p : Perm) (b : Reg) (q : Perm) (s : State) : Host.Outcome State Fault Refusal :=
  gate (.sub d a p b q) s (intOp d a p b q fun x y => x - y)

/-- Sum with carry in and carry out (R101): the 33-bit sum, carry in the high word. -/
def addCarry (x y cin : Word) : DWord := BitVec.ofNat 64 (x.toNat + y.toNat + cin.toNat % 2)

/-- Difference with borrow in and borrow out (R101). -/
def subBorrow (x y bin : Word) : DWord :=
  join64 (x - y - (bin &&& 1)) (if x.toNat < y.toNat + bin.toNat % 2 then 1 else 0)

/-- `addc` (R101). -/
def execAddc (d a : Reg) (p : Perm) (b : Reg) (q : Perm) (s : State) : Host.Outcome State Fault Refusal :=
  gate (.addc d a p b q) s fun s => .next (s.mapPairs d fun i =>
    addCarry (s.operand a.toNat p i) (s.operandB b.toNat q i) (s.source (d.toNat + 1) i))

/-- `subb` (R101). -/
def execSubb (d a : Reg) (p : Perm) (b : Reg) (q : Perm) (s : State) : Host.Outcome State Fault Refusal :=
  gate (.subb d a p b q) s fun s => .next (s.mapPairs d fun i =>
    subBorrow (s.operand a.toNat p i) (s.operandB b.toNat q i) (s.source (d.toNat + 1) i))

/-- `mul` (R102). -/
def execMul (d a : Reg) (p : Perm) (b : Reg) (q : Perm) (s : State) : Host.Outcome State Fault Refusal :=
  gate (.mul d a p b q) s (intOp d a p b q fun x y => x * y)

/-- `mulh` (R102). -/
def execMulh (d a : Reg) (p : Perm) (b : Reg) (q : Perm) (s : State) : Host.Outcome State Fault Refusal :=
  gate (.mulh d a p b q) s fun s => .next (s.mapLanes d fun i =>
    BitVec.ofInt 32 ((s.int a p i * s.intB b q i).fdiv 4294967296))

/-- `mulhn` (R102). -/
def execMulhn (d a : Reg) (p : Perm) (b : Reg) (q : Perm) (s : State) : Host.Outcome State Fault Refusal :=
  gate (.mulhn d a p b q) s fun s => .next (s.mapLanes d fun i =>
    BitVec.ofInt 32 ((s.int a p i * s.intB b q i + 2147483648).fdiv 4294967296))

/-- `mad` (R102). -/
def execMad (d a : Reg) (p : Perm) (b : Reg) (q : Perm) (s : State) : Host.Outcome State Fault Refusal :=
  gate (.mad d a p b q) s fun s => .next (s.mapFlags d fun i =>
    intRes s.spl.gm (s.int a p i * s.intB b q i + intVal s.spl.gm (s.source d.toNat i)))

/-- `min` (R103). -/
def execMin (d a : Reg) (p : Perm) (b : Reg) (q : Perm) (s : State) : Host.Outcome State Fault Refusal :=
  gate (.min d a p b q) s fun s => .next (s.mapLanes d fun i =>
    if s.intB b q i < s.int a p i then s.operandB b.toNat q i else s.operand a.toNat p i)

/-- `max` (R103). -/
def execMax (d a : Reg) (p : Perm) (b : Reg) (q : Perm) (s : State) : Host.Outcome State Fault Refusal :=
  gate (.max d a p b q) s fun s => .next (s.mapLanes d fun i =>
    if s.int a p i < s.intB b q i then s.operandB b.toNat q i else s.operand a.toNat p i)

/-- `abs` (R103). -/
def execAbs (d a : Reg) (p : Perm) (s : State) : Host.Outcome State Fault Refusal :=
  gate (.abs d a p) s fun s => .next (s.mapFlags d fun i =>
    if isNat s.spl.gm then (s.operand a.toNat p i, 0) else intRes s.spl.gm (s.int a p i).natAbs)

/-- `neg` (R103). -/
def execNeg (d a : Reg) (p : Perm) (s : State) : Host.Outcome State Fault Refusal :=
  gate (.neg d a p) s fun s => .next (s.mapFlags d fun i => intRes s.spl.gm (-(s.int a p i)))

/-! ## Logic, shifts and counts (R104-R107) -/

/-- `and` (R104). -/
def execAnd (d a : Reg) (p : Perm) (b : Reg) (q : Perm) (s : State) : Host.Outcome State Fault Refusal :=
  gate (.and d a p b q) s (wordOp d a p b q fun x y => x &&& y)

/-- `or` (R104). -/
def execOr (d a : Reg) (p : Perm) (b : Reg) (q : Perm) (s : State) : Host.Outcome State Fault Refusal :=
  gate (.or d a p b q) s (wordOp d a p b q fun x y => x ||| y)

/-- `xor` (R104). -/
def execXor (d a : Reg) (p : Perm) (b : Reg) (q : Perm) (s : State) : Host.Outcome State Fault Refusal :=
  gate (.xor d a p b q) s (wordOp d a p b q fun x y => x ^^^ y)

/-- `andn` (R104). -/
def execAndn (d a : Reg) (p : Perm) (b : Reg) (q : Perm) (s : State) : Host.Outcome State Fault Refusal :=
  gate (.andn d a p b q) s (wordOp d a p b q fun x y => x &&& ~~~y)

/-- `not` (R104). -/
def execNot (d a : Reg) (p : Perm) (s : State) : Host.Outcome State Fault Refusal :=
  gate (.not d a p) s (wordOp1 d a p fun x => ~~~x)

/-- The shift amount `n` of R105. -/
def shiftAmount (b : Word) : Nat := b.toNat % 256

/-- `shl` (R105). -/
def execShl (d a : Reg) (p : Perm) (b : Reg) (q : Perm) (s : State) : Host.Outcome State Fault Refusal :=
  gate (.shl d a p b q) s fun s => .next (s.mapFlags d fun i =>
    if gmSAT s.spl.gm then intRes s.spl.gm (s.int a p i * (2 ^ shiftAmount (s.operandB b.toNat q i) : Nat))
    else (s.operand a.toNat p i <<< shiftAmount (s.operandB b.toNat q i), 0))

/-- `shr` (R105). -/
def execShr (d a : Reg) (p : Perm) (b : Reg) (q : Perm) (s : State) : Host.Outcome State Fault Refusal :=
  gate (.shr d a p b q) s (wordOp d a p b q fun x y => x >>> shiftAmount y)

/-- `sar` (R105). -/
def execSar (d a : Reg) (p : Perm) (b : Reg) (q : Perm) (s : State) : Host.Outcome State Fault Refusal :=
  gate (.sar d a p b q) s (wordOp d a p b q fun x y => x.sshiftRight (shiftAmount y))

/-- `rot` (R105). -/
def execRot (d a : Reg) (p : Perm) (b : Reg) (q : Perm) (s : State) : Host.Outcome State Fault Refusal :=
  gate (.rot d a p b q) s (wordOp d a p b q fun x y => x.rotateLeft (shiftAmount y % 32))

/-- `dsh` (R105): the amount is K of gm. -/
def execDsh (d a : Reg) (p : Perm) (b : Reg) (q : Perm) (s : State) : Host.Outcome State Fault Refusal :=
  gate (.dsh d a p b q) s (wordOp d a p b q fun x y => low32 (join64 x y >>> gmK s.spl.gm))

/-- The number of zero bits above the highest one bit (R106). -/
def leadingZeros (x : Word) : Word := BitVec.ofNat 32 (if x = 0 then 32 else 31 - Nat.log2 x.toNat)

/-- The number of zero bits below the lowest one bit (R106). -/
def trailingZeros (x : Word) : Word :=
  BitVec.ofNat 32 (((List.range 32).find? x.getLsbD).getD 32)

/-- `lzc` (R106). -/
def execLzc (d a : Reg) (p : Perm) (s : State) : Host.Outcome State Fault Refusal :=
  gate (.lzc d a p) s (wordOp1 d a p leadingZeros)

/-- `tzc` (R106). -/
def execTzc (d a : Reg) (p : Perm) (s : State) : Host.Outcome State Fault Refusal :=
  gate (.tzc d a p) s (wordOp1 d a p trailingZeros)

/-- `ones` (R106). -/
def execOnes (d a : Reg) (p : Perm) (s : State) : Host.Outcome State Fault Refusal :=
  gate (.ones d a p) s (wordOp1 d a p fun x => BitVec.ofNat 32 (popCount x))

/-- `rvb` (R106). -/
def execRvb (d a : Reg) (p : Perm) (s : State) : Host.Outcome State Fault Refusal :=
  gate (.rvb d a p) s (wordOp1 d a p BitVec.reverse)

/-- Position and length of a bit field (R107). -/
def fieldOf (b : Word) : Nat × Nat := (b.toNat % 32, min (b.toNat / 256 % 64) (32 - b.toNat % 32))

/-- The low `l` bits of a word, sign- or zero-extended (R107, R110). -/
def extendFrom (signed : Bool) (l : Nat) (x : Word) : Word :=
  let f := x.toNat % 2 ^ l
  if signed && l != 0 && x.getLsbD (l - 1) then BitVec.ofInt 32 ((f : Int) - (2 ^ l : Nat)) else BitVec.ofNat 32 f

/-- `bxt` (R107). -/
def execBxt (d a : Reg) (p : Perm) (b : Reg) (q : Perm) (s : State) : Host.Outcome State Fault Refusal :=
  gate (.bxt d a p b q) s (wordOp d a p b q fun x y =>
    extendFrom (!isNat s.spl.gm) (fieldOf y).2 (x >>> (fieldOf y).1))

/-- `bdp` (R107). -/
def execBdp (d a : Reg) (p : Perm) (b : Reg) (q : Perm) (s : State) : Host.Outcome State Fault Refusal :=
  gate (.bdp d a p b q) s fun s => .next (s.mapLanes d fun i =>
    let (pos, l) := fieldOf (s.operandB b.toNat q i)
    let m : Word := BitVec.ofNat 32 ((2 ^ l - 1) * 2 ^ pos)
    (s.source d.toNat i &&& ~~~m) ||| ((s.operand a.toNat p i <<< pos) &&& m))

/-! ## Selection, comparison, moves and 64-bit forms (R108-R110) -/

/-- `sel` (R108): the mask stands in the control lane of the destination. -/
def execSel (d a : Reg) (p : Perm) (b : Reg) (q : Perm) (s : State) : Host.Outcome State Fault Refusal :=
  gate (.sel d a p b q) s fun s => .next (s.mapLanes d fun i =>
    if (s.source d.toNat s.ctl).getLsbD i then s.operand a.toNat p i else s.operandB b.toNat q i)

/-- `cmpeq` (R109). -/
def execCmpeq (d a : Reg) (p : Perm) (b : Reg) (q : Perm) (s : State) : Host.Outcome State Fault Refusal :=
  gate (.cmpeq d a p b q) s fun s => compareOp d (fun i => s.operand a.toNat p i == s.operandB b.toNat q i) s

/-- `cmpne` (R109). -/
def execCmpne (d a : Reg) (p : Perm) (b : Reg) (q : Perm) (s : State) : Host.Outcome State Fault Refusal :=
  gate (.cmpne d a p b q) s fun s => compareOp d (fun i => s.operand a.toNat p i != s.operandB b.toNat q i) s

/-- `cmplt` (R109). -/
def execCmplt (d a : Reg) (p : Perm) (b : Reg) (q : Perm) (s : State) : Host.Outcome State Fault Refusal :=
  gate (.cmplt d a p b q) s fun s => compareOp d (fun i => s.int a p i < s.intB b q i) s

/-- `cmple` (R109). -/
def execCmple (d a : Reg) (p : Perm) (b : Reg) (q : Perm) (s : State) : Host.Outcome State Fault Refusal :=
  gate (.cmple d a p b q) s fun s => compareOp d (fun i => s.int a p i ≤ s.intB b q i) s

/-- `mov` (R108). -/
def execMov (d a : Reg) (p : Perm) (s : State) : Host.Outcome State Fault Refusal :=
  gate (.mov d a p) s (wordOp1 d a p fun x => x)

/-- `add64` (R110). -/
def execAdd64 (d a : Reg) (p : Perm) (b : Reg) (q : Perm) (s : State) : Host.Outcome State Fault Refusal :=
  gate (.add64 d a p b q) s fun s => .next (s.mapPairs d fun i =>
    s.operand64 a.toNat p i + join64 (s.operandB b.toNat q i) (s.operandB (b.toNat + 1) q i))

/-- `lea` (R110). -/
def execLea (d a : Reg) (p : Perm) (b : Reg) (q : Perm) (s : State) : Host.Outcome State Fault Refusal :=
  gate (.lea d a p b q) s fun s => .next (s.mapPairs d fun i =>
    let o := s.operandB b.toNat q i
    s.operand64 a.toNat p i + ((if isNat s.spl.gm then o.setWidth 64 else o.signExtend 64) <<< gmK s.spl.gm))

/-- The width of `sxt` and `zxt` applied to a word (R110). -/
def extendWord (signed : Bool) (x y : Word) : Word :=
  let w := y.toNat % 64
  if 1 ≤ w ∧ w ≤ 31 then extendFrom signed w x else x

/-- `sxt` (R110). -/
def execSxt (d a : Reg) (p : Perm) (b : Reg) (q : Perm) (s : State) : Host.Outcome State Fault Refusal :=
  gate (.sxt d a p b q) s (wordOp d a p b q (extendWord true))

/-- `zxt` (R110). -/
def execZxt (d a : Reg) (p : Perm) (b : Reg) (q : Perm) (s : State) : Host.Outcome State Fault Refusal :=
  gate (.zxt d a p b q) s (wordOp d a p b q (extendWord false))

end Sys2Proof.Machine
end

