-- ==== Sys2Proof/Machine/Float.lean ====
section
/-! DEFINITION. Floating-point, complex, scaled and block-format instructions: opcodes 0x50 to 0x70
(05_results_vector_instructions.md R111-R122). -/

namespace Sys2Proof.Machine

/-! ## Shared shapes -/

/-- The operand format T of a gm (R111). -/
def gmT (gm : DWord) : Fmt := fmtD (gmTA gm)

/-- A value per active lane, rounded once and put in its format; the flags of forming it are raised with those of the
rounding (R111, R112). -/
def State.floatLanes (s : State) (d : Reg) (T : Fmt) (f : Nat → Val × BitVec 6) : State :=
  let (t, cs) := State.eachLane (fun i t => (t.raise i (f i).2).round (f i).1 T i) s.active s
  t.puts d.toNat T cs

/-- An encoding per active lane, put without rounding, with flags. -/
def State.codeLanes (s : State) (d : Reg) (T : Fmt) (f : Nat → Nat × BitVec 6) : State :=
  (s.raiseAll (s.active.map fun i => (i, (f i).2))).puts d.toNat T (s.active.map fun i => (i, (f i).1))

/-- The value of an operand lane in TA (R100). -/
def State.fp (s : State) (r : Reg) (p : Perm) (i : Nat) : Val := s.srcVal 0 r.toNat p i (gmT s.spl.gm)
/-- The second source's operand value. -/
def State.fpB (s : State) (r : Reg) (p : Perm) (i : Nat) : Val := s.srcVal 1 r.toNat p i (gmT s.spl.gm)
/-- The value of a lane of the destination register. -/
def State.fpD (s : State) (r : Reg) (i : Nat) : Val := s.srcVal 2 r.toNat 0 i (gmT s.spl.gm)

/-- An operation of two operands rounded once (R112). -/
def floatOp (d a : Reg) (p : Perm) (b : Reg) (q : Perm) (f : Val → Val → Val × BitVec 6) (s : State) : Res :=
  .next (s.floatLanes d (gmT s.spl.gm) fun i => f (s.fp a p i) (s.fpB b q i))

/-- An operation of one operand rounded once (R116, R117). -/
def floatOp1 (d a : Reg) (p : Perm) (f : Val → Val × BitVec 6) (s : State) : Res :=
  .next (s.floatLanes d (gmT s.spl.gm) fun i => f (s.fp a p i))

/-- `x + y` exactly, with IV (R112). -/
def sumOf (rm : Nat) (x y : Val) : Val × BitVec 6 :=
  let (z, bad) := addVal rm x y
  (z, ivIf (bad || x.isSig || y.isSig))

/-- `x * y` exactly, with IV (R112). -/
def productOf (x y : Val) : Val × BitVec 6 :=
  let (z, bad) := mulVal x y
  (z, ivIf (bad || x.isSig || y.isSig))

/-! ## Arithmetic (R112) -/

/-- `fadd` (R112). -/
def execFadd (d a : Reg) (p : Perm) (b : Reg) (q : Perm) (s : State) : Host.Outcome State Fault Refusal :=
  gate (.fadd d a p b q) s fun s => floatOp d a p b q (fun x y => sumOf (gmRM s.spl.gm) x y) s

/-- `fsub` (R112). -/
def execFsub (d a : Reg) (p : Perm) (b : Reg) (q : Perm) (s : State) : Host.Outcome State Fault Refusal :=
  gate (.fsub d a p b q) s fun s => floatOp d a p b q (fun x y => sumOf (gmRM s.spl.gm) x (negVal y)) s

/-- `fmul` (R112). -/
def execFmul (d a : Reg) (p : Perm) (b : Reg) (q : Perm) (s : State) : Host.Outcome State Fault Refusal :=
  gate (.fmul d a p b q) s (floatOp d a p b q productOf)

/-- `ffma` (R112). -/
def execFfma (d a : Reg) (p : Perm) (b : Reg) (q : Perm) (s : State) : Host.Outcome State Fault Refusal :=
  gate (.ffma d a p b q) s fun s => .next (s.floatLanes d (gmT s.spl.gm) fun i =>
    fmaVal (gmRM s.spl.gm) (s.fp a p i) (s.fpB b q i) (s.fpD d i))

/-- `ffms` (R112): the product enters with its sign inverted. -/
def execFfms (d a : Reg) (p : Perm) (b : Reg) (q : Perm) (s : State) : Host.Outcome State Fault Refusal :=
  gate (.ffms d a p b q) s fun s => .next (s.floatLanes d (gmT s.spl.gm) fun i =>
    fmaVal (gmRM s.spl.gm) (negVal (s.fp a p i)) (s.fpB b q i) (s.fpD d i))

/-! ## Minimum, maximum, sign, comparison and class (R113, R114) -/

/-- The encoding that `fmin` (`least`) or `fmax` chooses of two (R113). -/
def chooseCode (least : Bool) (T : Fmt) (cx cy : Nat) : Nat :=
  let x := decodeVal T cx
  let y := decodeVal T cy
  if x.isNaN && y.isNaN then nanCode T false
  else if x.isNaN then cy
  else if y.isNaN then cx
  else if least then (if belowVal y x then cy else cx)
  else if belowVal x y then cy else cx

/-- `fmin` and `fmax` (R113). -/
def chooseOp (least : Bool) (d a : Reg) (p : Perm) (b : Reg) (q : Perm) (s : State) : Res :=
  let T := gmT s.spl.gm
  .next (s.codeLanes d T fun i =>
    (chooseCode least T (s.src a.toNat p i T) (s.srcAt 1 b.toNat q i T),
      ivIf ((s.fp a p i).isSig || (s.fpB b q i).isSig)))

/-- `fmin` (R113). -/
def execFmin (d a : Reg) (p : Perm) (b : Reg) (q : Perm) (s : State) : Host.Outcome State Fault Refusal :=
  gate (.fmin d a p b q) s (chooseOp true d a p b q)

/-- `fmax` (R113). -/
def execFmax (d a : Reg) (p : Perm) (b : Reg) (q : Perm) (s : State) : Host.Outcome State Fault Refusal :=
  gate (.fmax d a p b q) s (chooseOp false d a p b q)

/-- The sign bit of an encoding cleared or inverted (R113). -/
def signOp (f : Nat → Nat → Nat) (d a : Reg) (p : Perm) (s : State) : Res :=
  let T := gmT s.spl.gm
  .next (s.puts d.toNat T (s.active.map fun i => (i, f (2 ^ (T.width - 1)) (s.src a.toNat p i T))))

/-- `fabs` (R113). -/
def execFabs (d a : Reg) (p : Perm) (s : State) : Host.Outcome State Fault Refusal :=
  gate (.fabs d a p) s (signOp (fun top c => c % top) d a p)

/-- `fneg` (R113). -/
def execFneg (d a : Reg) (p : Perm) (s : State) : Host.Outcome State Fault Refusal :=
  gate (.fneg d a p) s (signOp (fun top c => if c < top then c + top else c - top) d a p)

/-- A floating comparison to a scalar mask, IV raised in the lanes that `iv` picks (R114). -/
def fcompare (d : Reg) (pr iv : Nat → Bool) (s : State) : Res :=
  .next ((s.raiseAll (s.active.map fun i => (i, ivIf (iv i)))).setCtl d (s.maskOf pr))

/-- Is either operand signalling; is either a NaN (R114)? -/
def anySig (x y : Val) : Bool := x.isSig || y.isSig
def anyNaN (x y : Val) : Bool := x.isNaN || y.isNaN

/-- `fcmpeq` (R114). -/
def execFcmpeq (d a : Reg) (p : Perm) (b : Reg) (q : Perm) (s : State) : Host.Outcome State Fault Refusal :=
  gate (.fcmpeq d a p b q) s fun s =>
    fcompare d (fun i => eqVal (s.fp a p i) (s.fpB b q i)) (fun i => anySig (s.fp a p i) (s.fpB b q i)) s

/-- `fcmplt` (R114). -/
def execFcmplt (d a : Reg) (p : Perm) (b : Reg) (q : Perm) (s : State) : Host.Outcome State Fault Refusal :=
  gate (.fcmplt d a p b q) s fun s =>
    fcompare d (fun i => ltVal (s.fp a p i) (s.fpB b q i)) (fun i => anyNaN (s.fp a p i) (s.fpB b q i)) s

/-- `fcmple` (R114). -/
def execFcmple (d a : Reg) (p : Perm) (b : Reg) (q : Perm) (s : State) : Host.Outcome State Fault Refusal :=
  gate (.fcmple d a p b q) s fun s =>
    fcompare d (fun i => ltVal (s.fp a p i) (s.fpB b q i) || eqVal (s.fp a p i) (s.fpB b q i))
      (fun i => anyNaN (s.fp a p i) (s.fpB b q i)) s

/-- `fcmpun` (R114). -/
def execFcmpun (d a : Reg) (p : Perm) (b : Reg) (q : Perm) (s : State) : Host.Outcome State Fault Refusal :=
  gate (.fcmpun d a p b q) s fun s =>
    fcompare d (fun i => anyNaN (s.fp a p i) (s.fpB b q i)) (fun i => anySig (s.fp a p i) (s.fpB b q i)) s

/-- The class bit of an encoding (R114). -/
def classBit (T : Fmt) (c : Nat) : Nat :=
  match decodeVal T c with
  | .inf n => if n then 0 else 7
  | .nan _ sig => if sig then 8 else 9
  | .fin n m e =>
    if m = 0 then (if n then 3 else 4)
    else if topExp m e < (minNormal T).2 then (if n then 2 else 5)
    else if n then 1 else 6

/-- `fcls` (R114). -/
def execFcls (d a : Reg) (p : Perm) (s : State) : Host.Outcome State Fault Refusal :=
  gate (.fcls d a p) s fun s =>
    let T := gmT s.spl.gm
    .next (s.mapLanes d fun i => BitVec.ofNat 32 (2 ^ classBit T (s.src a.toNat p i T)))

/-! ## Conversions, rounding, scaling (R115, R116) -/

/-- A conversion from TA to TB (R115). -/
def convert (d a : Reg) (p : Perm) (s : State) : Res :=
  .next (s.floatLanes d (fmtD (gmTB s.spl.gm)) fun i => (s.fp a p i, 0))

/-- `fcvt` (R115). -/
def execFcvt (d a : Reg) (p : Perm) (s : State) : Host.Outcome State Fault Refusal :=
  gate (.fcvt d a p) s (convert d a p)

/-- `fcvti` (R115). -/
def execFcvti (d a : Reg) (p : Perm) (s : State) : Host.Outcome State Fault Refusal :=
  gate (.fcvti d a p) s (convert d a p)

/-- `fcvtf` (R115): `IntOf` is the decoding of the integer format. -/
def execFcvtf (d a : Reg) (p : Perm) (s : State) : Host.Outcome State Fault Refusal :=
  gate (.fcvtf d a p) s (convert d a p)

/-- The code and flags of `frnd` (R116). -/
def roundWhole (T : Fmt) (rm r : Nat) (x : Val) : Nat × BitVec 6 :=
  match x with
  | .nan _ sig => (nanCode T false, ivIf sig)
  | .inf n => (infCode T n, 0)
  | .fin n m e =>
    let (z, e0, exact) := pick (.step 0) rm r n m e
    (encodeVal T n z e0, if exact then 0 else fNX)

/-- `frnd` (R116). -/
def execFrnd (d a : Reg) (p : Perm) (s : State) : Host.Outcome State Fault Refusal :=
  gate (.frnd d a p) s fun s =>
    let T := gmT s.spl.gm
    let (t, cs) := State.eachLane (fun i t =>
      let (t1, r) := t.drawSR (gmRM s.spl.gm) i
      let (c, f) := roundWhole T (gmRM s.spl.gm) r (s.fp a p i)
      (t1.raise i f, c)) s.active s
    .next (t.puts d.toNat T cs)

/-- `x * 2 ^ n`; beyond every format's range a larger amount changes no result (R116). -/
def scaleVal (x : Val) (n : Int) : Val × BitVec 6 :=
  match x with
  | .nan _ sig => (qNaN, ivIf sig)
  | .inf s => (.inf s, 0)
  | .fin s m e => (.fin s m (e + max (-8192) (min 8192 n)), 0)

/-- `fscl` (R116). -/
def execFscl (d a : Reg) (p : Perm) (b : Reg) (q : Perm) (s : State) : Host.Outcome State Fault Refusal :=
  gate (.fscl d a p b q) s fun s => .next (s.floatLanes d (gmT s.spl.gm) fun i =>
    scaleVal (s.fp a p i) (s.operandB b.toNat q i).toInt)

/-! ## Reciprocal, roots and transcendentals (R117) -/

/-- `frcp` (R117). -/
def execFrcp (d a : Reg) (p : Perm) (s : State) : Host.Outcome State Fault Refusal :=
  gate (.frcp d a p) s (floatOp1 d a p rcpVal)

/-- `frsq` (R117). -/
def execFrsq (d a : Reg) (p : Perm) (s : State) : Host.Outcome State Fault Refusal :=
  gate (.frsq d a p) s (floatOp1 d a p rsqVal)

/-- `fsqrt` (R117). -/
def execFsqrt (d a : Reg) (p : Perm) (s : State) : Host.Outcome State Fault Refusal :=
  gate (.fsqrt d a p) s (floatOp1 d a p sqrtVal)

/-- `fex2` (R117). -/
def execFex2 (d a : Reg) (p : Perm) (s : State) : Host.Outcome State Fault Refusal :=
  gate (.fex2 d a p) s (floatOp1 d a p exp2Val)

/-- `flg2` (R117). -/
def execFlg2 (d a : Reg) (p : Perm) (s : State) : Host.Outcome State Fault Refusal :=
  gate (.flg2 d a p) s (floatOp1 d a p log2Val)

/-- `fsin` (R117). -/
def execFsin (d a : Reg) (p : Perm) (s : State) : Host.Outcome State Fault Refusal :=
  gate (.fsin d a p) s (floatOp1 d a p sinVal)

/-- `fcos` (R117). -/
def execFcos (d a : Reg) (p : Perm) (s : State) : Host.Outcome State Fault Refusal :=
  gate (.fcos d a p) s (floatOp1 d a p cosVal)

/-! ## Complex arithmetic (R119) -/

/-- The format of a part of a complex type (R119). -/
def partFmt (ta : Nat) : Fmt := if ta = 18 then .f64 else .f32

/-- The register of part `k` of a complex operand (R84). -/
def partReg (F : Fmt) (r : Reg) (k : Nat) : Nat := r.toNat + (if F = .f64 then 2 * k else k)

/-- Part `k` of a lane of a complex operand `pos` (R84, R119). -/
def State.part (s : State) (pos : Nat) (F : Fmt) (r : Reg) (p : Perm) (i k : Nat) : Val := s.srcVal pos (partReg F r k) p i F

/-- A sum of products and values taken on the extended reals, one exact value with IV (R119). -/
def combine (rm : Nat) (prods : List (Val × Val)) (extra : List Val) : Val × BitVec 6 :=
  let ps := prods.map fun (x, y) => mulVal x y
  let (z, bad) := sumVals rm (ps.map (·.1) ++ extra)
  (z, ivIf (bad || ps.any (·.2) || prods.any (fun (x, y) => x.isSig || y.isSig) || extra.any Val.isSig))

/-- `zmul` and `zfma` (R119): the real part is rounded first. -/
def complexOp (add : Bool) (d a : Reg) (p : Perm) (b : Reg) (q : Perm) (s : State) : Res :=
  let F := partFmt (gmTA s.spl.gm)
  let rm := gmRM s.spl.gm
  let (t, cs) := State.eachLane (fun i t =>
    let ar := s.part 0 F a p i 0
    let ai := s.part 0 F a p i 1
    let br := s.part 1 F b q i 0
    let bi := s.part 1 F b q i 1
    let re := combine rm [(ar, br), (negVal ai, bi)] (if add then [s.part 2 F d 0 i 0] else [])
    let im := combine rm [(ar, bi), (ai, br)] (if add then [s.part 2 F d 0 i 1] else [])
    let (t1, c1) := (t.raise i re.2).round re.1 F i
    let (t2, c2) := (t1.raise i im.2).round im.1 F i
    (t2, (c1, c2))) s.active s
  .next ((t.puts (partReg F d 0) F (cs.map fun (i, c) => (i, c.1))).puts (partReg F d 1) F
    (cs.map fun (i, c) => (i, c.2)))

/-- `zmul` (R119). -/
def execZmul (d a : Reg) (p : Perm) (b : Reg) (q : Perm) (s : State) : Host.Outcome State Fault Refusal :=
  gate (.zmul d a p b q) s (complexOp false d a p b q)

/-- `zfma` (R119). -/
def execZfma (d a : Reg) (p : Perm) (b : Reg) (q : Perm) (s : State) : Host.Outcome State Fault Refusal :=
  gate (.zfma d a p b q) s (complexOp true d a p b q)

/-- `zcnj` (R119). -/
def execZcnj (d a : Reg) (p : Perm) (s : State) : Host.Outcome State Fault Refusal :=
  gate (.zcnj d a p) s fun s =>
    let F := partFmt (gmTA s.spl.gm)
    let top := 2 ^ (F.width - 1)
    let flip := fun (c : Nat) => if c < top then c + top else c - top
    .next ((s.puts (partReg F d 0) F (s.active.map fun i => (i, s.src (partReg F a 0) p i F))).puts (partReg F d 1) F
      (s.active.map fun i => (i, flip (s.src (partReg F a 1) p i F))))

/-! ## Requantisation and block formats (R120-R122) -/

/-- The integer format's signedness and width (R83). -/
def intShape (t : Nat) : Bool × Nat :=
  match fmtD t with
  | .int sg w => (sg, w)
  | _ => (true, 32)

/-- `srnd` (R120). -/
def execSrnd (d a : Reg) (p : Perm) (b : Reg) (q : Perm) (s : State) : Host.Outcome State Fault Refusal :=
  gate (.srnd d a p b q) s fun s =>
    let gm := s.spl.gm
    let (sg, w) := intShape (gmTB gm)
    let (t, cs) := State.eachLane (fun i t =>
      let x := s.int a p i
      let n := (s.operandB b.toNat q i).toNat % 64
      let (t1, r) := t.drawSR (gmRM gm) i
      let (m, e, exact) := pick (.step 0) (gmRM gm) r (x < 0) x.natAbs (-(n : Int))
      let z : Int := if x < 0 then -((scaleTo m e (min e 0) / 2 ^ (-(min e 0)).toNat : Nat) : Int)
        else (scaleTo m e (min e 0) / 2 ^ (-(min e 0)).toNat : Nat)
      let (c, f) := if gmSAT gm then satTo z sg w else ((z % (2 ^ w : Nat)).toNat, 0)
      (t1.raise i (if exact then f else f ||| fNX), BitVec.ofNat 32 c)) s.active s
    .next (t.setLanes d.toNat cs)

/-- The largest exponent of an element type (R121). -/
def elemMax (tb ty : Nat) : Int :=
  match tb with
  | 6 => 2 | 7 => 8 | 8 => 15 | 9 => 0
  | _ => if ty ≤ 1 then 2 else 3

/-- The scale byte of a block of values (R121). -/
def blockScale (tb ty : Nat) (vs : List Val) : Nat :=
  let q4 := tb = 10
  if vs.any fun v => match v with
      | .fin _ _ _ => false
      | _ => true then (if q4 then ty * 64 + 63 else 0xFF)
  else
    match (vs.filterMap fun v => match v with
        | .fin _ m e => if m = 0 then none else some (topExp m e)
        | _ => none) with
    | [] => if q4 then ty * 64 else 0
    | k :: ks =>
      let x := ks.foldl max k - elemMax tb ty
      if q4 then ty * 64 + (max 0 (min 62 (x + 32))).toNat else (max 0 (min 254 (x + 127))).toNat

/-- Element format, exponent of the scale value and NaN mark of a block type's scale byte (R79, R80, R122). -/
def scaleOf (tb byte : Nat) : Fmt × Int × Bool :=
  match tb with
  | 6 => (.e2m1, (byte : Int) - 127, byte == 255)
  | 7 => (.e4m3, (byte : Int) - 127, byte == 255)
  | 8 => (.e5m2, (byte : Int) - 127, byte == 255)
  | 9 => (.mxint8, (byte : Int) - 127, byte == 255)
  | _ =>
    (match byte / 64 with
      | 0 => .q4u | 1 => .e2m1 | 2 => .q4p | _ => .q4h, ((byte % 64 : Nat) : Int) - 32, byte % 64 == 63)

/-- A value with its exponent moved (R122). A NaN keeps its sign, as in a conversion (log entry 69). -/
def shiftVal (x : Val) (k : Int) : Val :=
  match x with
  | .fin n m e => .fin n m (e + k)
  | v => v

/-- `mxscl` (R121). -/
def execMxscl (d a : Reg) (p : Perm) (b : Reg) (q : Perm) (s : State) : Host.Outcome State Fault Refusal :=
  gate (.mxscl d a p b q) s fun s =>
    let ty := (s.operandB b.toNat q s.ctl).toNat % 4
    .next (s.setCtl d (BitVec.ofNat 32 (blockScale (gmTB s.spl.gm) ty (s.active.map (s.fp a p)))))

/-- Elements packed into words, `32 / w` to a word, the first lowest (R82, R122). -/
def packWords (w : Nat) (codes : List Nat) : List Word :=
  let per := 32 / w
  (List.range ((codes.length + per - 1) / per)).map fun j =>
    BitVec.ofNat 32 (((List.range per).map fun t => codes.getD (j * per + t) 0 * 2 ^ (w * t)).foldl (· + ·) 0)

/-- Values at positions of the domain, written to its lanes; positions beyond the domain are discarded (R127). With no lane
in the mask of those that act, no lane state changes (R26; log entry 70). -/
def State.setDomain (s : State) (act : Word) (r : Nat) (vs : List (Nat × Word)) : State :=
  if act = 0 then s else s.setLanes r (vs.filterMap fun (k, v) => (s.domLanes[k]?).map fun i => (i, v))

/-- `mxpak` (R122). -/
def execMxpak (d a : Reg) (p : Perm) (b : Reg) (q : Perm) (s : State) : Host.Outcome State Fault Refusal :=
  gate (.mxpak d a p b q) s fun s =>
    let (E, k, nanBlock) := scaleOf (gmTB s.spl.gm) ((s.operandB b.toNat q s.ctl).toNat % 256)
    let act := s.activeMask
    let (t, cs) := State.eachLane (fun i t =>
      if !act.getLsbD i then (t, 0)
      else if nanBlock then ((t.drawSR (gmRM s.spl.gm) i).1, 0)
      else t.round (shiftVal (s.fp a p i) (-k)) E i) s.domLanes s
    let ws := packWords (elemWidth (gmTB s.spl.gm)) (cs.map (·.2))
    .next (t.setDomain act d.toNat ((List.range ws.length).map fun j => (j, ws.getD j 0)))

/-- `mxunp` (R122). An element of a NaN block is a positive quiet NaN and raises nothing (R79; log entry 64). -/
def execMxunp (d a : Reg) (p : Perm) (b : Reg) (q : Perm) (s : State) : Host.Outcome State Fault Refusal :=
  gate (.mxunp d a p b q) s fun s =>
    let (E, k, nanBlock) := scaleOf (gmTB s.spl.gm) ((s.operandB b.toNat q s.ctl).toNat % 256)
    let w := elemWidth (gmTB s.spl.gm)
    let per := 32 / w
    let dom := s.domLanes
    .next (s.floatLanes d (gmT s.spl.gm) fun i =>
      let pos := dom.findIdx (· == i)
      let word := s.operand a.toNat p (dom.getD (pos / per) 0)
      if nanBlock then (qNaN, 0)
      else (shiftVal (decodeVal E (word.toNat / 2 ^ (w * (pos % per)) % 2 ^ w)) k, 0))

end Sys2Proof.Machine
end

