-- ==== Sys2Proof/Machine/Control.lean ====
section
/-! DEFINITION. Control: constants, indices, branches, the execution mask, the mode register, splits, join, exit and
yielding: opcodes 0x00 to 0x17 (13_progress_control_instructions.md R303-R313; 03_encoding.md R61-R62;
02_execution_model.md R22-R27). -/

namespace Sys2Proof.Machine

/-! ## Branch targets (R52, R306) -/

/-- `T` of R306, exactly. -/
def branchTarget (pc : Addr) (o : BitVec 18) : Int := (pc.toNat : Int) + o.toInt * 4

/-- Does a target lie inside the virtual address space (R306)? -/
def targetOk (t : Int) : Bool := 0 ≤ t && t < 2 ^ 57

/-- PAGE at an instruction whose target lies outside, the target as the faulting address (R306). -/
def badTarget (s : State) (t : Int) : Res := .trap s { code := tPAGE, fva := BitVec.ofInt 64 t }

/-- A branch taken (R306). -/
def branchTo (o : BitVec 18) (s : State) : Res :=
  let t := branchTarget s.spl.pc o
  if targetOk t then .jump s (BitVec.ofInt 57 t) else badTarget s t

/-- A conditional branch (R306). -/
def branchIf (taken : Bool) (o : BitVec 18) (s : State) : Res := if taken then branchTo o s else .next s

/-- A register's control lane. -/
def State.scalar (s : State) (c : Reg) : Word := s.source c.toNat s.ctl

/-- A pair's control lane (R307). -/
def State.scalar64 (s : State) (c : Reg) : DWord := join64 (s.source c.toNat s.ctl) (s.source (c.toNat + 1) s.ctl)

/-- `ill`: the opcode 0x00 raises ILLEGAL (R66). -/
def execIll (x : BitVec 24) (s : State) : Host.Outcome State Fault Refusal :=
  gate (.ill x) s fun s => trapCode s tILLEGAL

/-- `nop` (R305). -/
def execNop (s : State) : Host.Outcome State Fault Refusal := gate .nop s fun s => .next s

/-- `br` (R306). -/
def execBr (o : BitVec 18) (s : State) : Host.Outcome State Fault Refusal := gate (.br o) s (branchTo o)

/-- `bz` (R306). -/
def execBz (c : Reg) (o : BitVec 18) (s : State) : Host.Outcome State Fault Refusal :=
  gate (.bz c o) s fun s => branchIf (s.scalar c == 0) o s

/-- `bnz` (R306). -/
def execBnz (c : Reg) (o : BitVec 18) (s : State) : Host.Outcome State Fault Refusal :=
  gate (.bnz c o) s fun s => branchIf (s.scalar c != 0) o s

/-- `bmz` (R306). -/
def execBmz (c : Reg) (o : BitVec 18) (s : State) : Host.Outcome State Fault Refusal :=
  gate (.bmz c o) s fun s => branchIf (s.scalar c &&& s.effMask == 0) o s

/-- `bmnz` (R306). -/
def execBmnz (c : Reg) (o : BitVec 18) (s : State) : Host.Outcome State Fault Refusal :=
  gate (.bmnz c o) s fun s => branchIf (s.scalar c &&& s.effMask != 0) o s

/-- `call` (R307). -/
def execCall (c : Reg) (o : BitVec 18) (s : State) : Host.Outcome State Fault Refusal :=
  gate (.call c o) s fun s =>
    let t := branchTarget s.spl.pc o
    if targetOk t then .jump (s.setPair c.toNat s.ctl ((s.spl.pc + 4).setWidth 64)) (BitVec.ofInt 57 t)
    else badTarget s t

/-- pc from a register pair plus an offset (R307). A target that is no multiple of 4 traps when it is fetched (R31). -/
def jumpReg (c : Reg) (o : BitVec 18) (s : State) : Res :=
  let t := s.scalar64 c + (o.signExtend 64 <<< 2)
  if t.toNat < 2 ^ 57 then .jump s (t.setWidth 57) else .trap s { code := tPAGE, fva := t }

/-- `ret` (R307). -/
def execRet (c : Reg) (s : State) : Host.Outcome State Fault Refusal := gate (.ret c) s (jumpReg c 0)

/-- `jmpr` (R307). -/
def execJmpr (c : Reg) (o : BitVec 18) (s : State) : Host.Outcome State Fault Refusal :=
  gate (.jmpr c o) s (jumpReg c o)

/-! ## Constants and indices (R305) -/

/-- A value in every active lane and in the control lane, whatever the mask (R305). -/
def State.mapUniform (s : State) (d : Reg) (f : Nat → Word) : State :=
  s.setLanes d.toNat ((lanesOf (s.activeMask ||| (1#32 <<< s.ctl))).map fun i => (i, f i))

/-- `limm` (R305). -/
def execLimm (d : Reg) (i : BitVec 18) (s : State) : Host.Outcome State Fault Refusal :=
  gate (.limm d i) s fun s => .next (s.mapUniform d fun _ => i.signExtend 32)

/-- `lhi` (R305). -/
def execLhi (d : Reg) (i : BitVec 18) (s : State) : Host.Outcome State Fault Refusal :=
  gate (.lhi d i) s fun s => .next (s.mapUniform d fun k =>
    (i.setWidth 32 <<< 14) ||| (s.source d.toNat k &&& 0x3FFF))

/-- The index of R39 that a selector names, for a lane. -/
def State.index (s : State) (sl i : Nat) : Nat :=
  match sl with
  | 0 => i
  | 1 => s.grp.idx
  | 2 => s.blk.idx
  | 3 => s.blk.spanIdx
  | 4 => s.blk.core % 512
  | 5 => dieOf s.blk.core % 32
  | _ => s.grp.slot

/-- `idx` (R305). -/
def execIdx (d : Reg) (i : BitVec 18) (s : State) : Host.Outcome State Fault Refusal :=
  gate (.idx d i) s fun s => .next (s.mapUniform d fun k => BitVec.ofNat 32 (s.index i.toNat k))

/-! ## The mode register (R61, R62) -/

/-- The issuing split with another gm. -/
def State.setGm (s : State) (gm : DWord) : State := s.setSpl { s.spl with gm := gm }

/-- `mode` (R61). -/
def execMode (d a : Reg) (p : Perm) (b : Reg) (q : Perm) (s : State) : Host.Outcome State Fault Refusal :=
  gate (.mode d a p b q) s fun s =>
    let val := s.operand64 a.toNat p s.ctl
    let msk := join64 (s.operandB b.toNat q s.ctl) (s.operandB (b.toNat + 1) q s.ctl)
    let old := s.spl.gm
    let new := (old &&& ~~~msk) ||| (val &&& msk)
    if gmLegal new then .next ((s.setPair d.toNat s.ctl old).setGm new) else trapCode s tILLEGAL

/-- gm after `modei` with a selector and an immediate that it takes (R62). -/
def modeiGm (gm : DWord) (sl imm : Nat) : DWord :=
  match sl with
  | 0 => setBits gm 6 0 imm
  | 1 => setBits gm 13 9 imm
  | 2 => setBits gm 18 14 imm
  | 3 => setBits gm 21 19 imm
  | 4 => setBits gm 22 22 imm
  | 5 => setBits gm 27 23 imm
  | 6 => setBits gm 32 28 imm
  | 7 => setBits gm 38 33 imm
  | 8 => setBits gm 39 39 imm
  | 9 => setBits gm 18 9 imm
  | _ => setBits gm 22 19 imm

/-- `modei` (R62). -/
def execModei (sl : BitVec 6) (i : BitVec 18) (s : State) : Host.Outcome State Fault Refusal :=
  gate (.modei sl i) s fun s => .next (s.setGm (modeiGm s.spl.gm sl.toNat i.toNat))

/-! ## The execution mask (R308) -/

/-- em replaced and the old em written to the control lane (R24, R308). -/
def maskOp (d a : Reg) (p : Perm) (f : Word → Word → Word) (s : State) : Res :=
  let sp := s.spl
  let new := f sp.em (s.operand a.toNat p s.ctl) &&& sp.dm
  .next ((s.setCtl d sp.em).setSpl { sp with em := new })

/-- `em.set` (R308). -/
def execEmSet (d a : Reg) (p : Perm) (s : State) : Host.Outcome State Fault Refusal :=
  gate (.emSet d a p) s (maskOp d a p fun _ x => x)

/-- `em.get` (R308). -/
def execEmGet (d : Reg) (s : State) : Host.Outcome State Fault Refusal :=
  gate (.emGet d) s fun s => .next (s.setCtl d s.spl.em)

/-- `em.and` (R308). -/
def execEmAnd (d a : Reg) (p : Perm) (s : State) : Host.Outcome State Fault Refusal :=
  gate (.emAnd d a p) s (maskOp d a p fun old x => old &&& x)

/-- `em.andn` (R308). -/
def execEmAndn (d a : Reg) (p : Perm) (s : State) : Host.Outcome State Fault Refusal :=
  gate (.emAndn d a p) s (maskOp d a p fun old x => old &&& ~~~x)

/-! ## Barrier phases (R314) -/

/-- The phase count of a barrier of a block. -/
def Block.phase (b : Block) (k : Nat) : Nat := sget 0 b.phases k

/-- Has every group of a block that has not ended arrived in a phase of a barrier? -/
def Block.allArrived (b : Block) (k phase : Nat) : Bool :=
  b.groups.all fun g => g.ended || sget 0 g.arrived k == phase + 1

/-- Do two blocks belong to one span: one grid, one base index (R293)? -/
def sameSpan (b c : Block) : Bool := b.grid == c.grid && b.idx - b.spanIdx == c.idx - c.spanIdx

/-- The block with a barrier's phase completed. -/
def Block.nextPhase (b : Block) (k : Nat) : Block := { b with phases := sset 0 b.phases k (b.phase k + 1) }

/-- Completes the current phase of a block barrier if every party has arrived (R314). -/
def State.tryPhase (s : State) (k : Nat) : State :=
  if s.wholeBlk.allArrived k (s.blk.phase k) then { s with blk := s.blk.nextPhase k } else s

/-- Completes the current phase of the span barrier if every party of the span has arrived (R314). -/
def State.trySpanPhase (s : State) : State :=
  let ph := s.blk.phase 16
  if s.wholeBlk.allArrived 16 ph && (s.blocks.filter (sameSpan s.blk)).all (·.allArrived 16 ph) then
    { s with
      blk := s.blk.nextPhase 16
      blocks := s.blocks.map fun b => if sameSpan s.blk b then b.nextPhase 16 else b }
  else s

/-- A barrier of either kind. -/
def State.tryBarrier (s : State) (k : Nat) : State := if k = 16 then s.trySpanPhase else s.tryPhase k

/-! ## Splits, join and exit (R309-R311) -/

/-- Code of a lane in the assignment of `split` (R309). -/
def armCode (q : DWord) (i : Nat) : Nat := bits q (2 * i + 1) (2 * i)

/-- The lanes that take a code (R309). -/
def armMask (q : DWord) (code : Nat) : Word :=
  lanes.foldl (fun m i => if armCode q i = code then m ||| (1#32 <<< i) else m) 0

/-- The codes present, in the order of their lowest lanes (R22, R309). -/
def armCodes (q : DWord) : List Nat := distinct (lanes.map (armCode q))

/-- The group forked: one split per code, numbered by lowest lane (R309). -/
def forked (p : Split) (q : DWord) (table : Int) : Sparse Split :=
  let codes := armCodes q
  (List.range codes.length).map fun k =>
    let code := codes.getD k 0
    let m := armMask q code
    (k, { st := .live, dm := m, em := p.em &&& m, gm := p.gm, pc := BitVec.ofInt 57 (table + 4 * (code : Int)) })

/-- `split` (R309). -/
def execSplit (c : Reg) (o : BitVec 18) (s : State) : Host.Outcome State Fault Refusal :=
  gate (.split c o) s fun s =>
    if s.grp.isSplit then trapCode s tILLEGAL
    else if s.grp.region.isSome then .abort s 7 0
    else
      let q := s.scalar64 c
      let t := branchTarget s.spl.pc o
      match (armCodes q).find? fun (k : Nat) => !targetOk (t + 4 * (k : Int)) with
      | some k => badTarget s (t + 4 * (k : Int))
      | none =>
        match armCodes q with
        | [k] => .jump s (BitVec.ofInt 57 (t + 4 * (k : Int)))
        | _ => .gone { s with grp := { s.grp with splits := forked s.spl q t }, cur := 0 }

/-- A group whose splits have all ended: it is over once all are EXITED, and unsplit again once no split is LIVE and one
has arrived by `join` (R27, R310, R311). -/
def Group.rejoin (g : Group) : Group :=
  let ps := (List.range 4).map g.splitAt
  if ps.any (·.st == .live) then g
  else
    match ps.find? (·.st == .joinWait) with
    | none => { g with splits := [], ended := true }
    | some lead =>
      let em := (ps.filter (·.st == .joinWait)).foldl (fun m p => m ||| p.em) 0
      { g with splits := sset {} [] 0 { lead with st := .live, dm := 0xFFFFFFFF, em := em } }

/-- The group settled after a split has arrived or exited; a group that has ended leaves its barriers (R314). -/
def State.rejoin (s : State) : State :=
  let s1 := { s with grp := s.grp.rejoin, cur := 0 }
  if s1.grp.ended then (List.range 17).foldl State.tryBarrier s1 else s1

/-- `join` (R310): a branch in a group that is not split; else a release by the arriving split (R204, R205), whose
continuation is kept in its pc. -/
def execJoin (o : BitVec 18) (s : State) : Host.Outcome State Fault Refusal :=
  gate (.join o) s fun s =>
    let t := branchTarget s.spl.pc o
    if !targetOk t then badTarget s t
    else if !s.grp.isSplit then .jump s (BitVec.ofInt 57 t)
    else if !s.quiet then .stall .fence
    else .gone (s.setSpl { s.spl with st := .joinWait, pc := BitVec.ofInt 57 t, windows := [], wait := none }).rejoin

/-- `exit` (R311). -/
def execExit (s : State) : Host.Outcome State Fault Refusal :=
  gate .exit s fun s => .gone (s.setSpl { s.spl with st := .exited, windows := [], wait := none }).rejoin

/-! ## Yielding (R312, R313) -/

/-- `yield` (R312). -/
def execYield (n : BitVec 10) (s : State) : Host.Outcome State Fault Refusal :=
  gate (.yield n) s fun s =>
    let p := (s.spl.advance [] none)
    .gone (s.setSpl { p with run := 0, yieldUntil := s.clkOf (dieOf s.blk.core) + n.toNat,
                             wait := if n = 0 then none else some (.clk, s.tick) })

/-- A split made ready again: its wait is over. -/
def Group.wake (g : Group) (spl : Nat) : Group :=
  { g with splits := sset {} g.splits spl { g.splitAt spl with wait := none } }

/-- A change of one group of a core's slot, wherever it stands. -/
def State.updGroup (s : State) (core slot : Nat) (f : Group → Group) : State :=
  let at' := fun (b : Block) => if b.core = core then b.mapGroups fun g => if g.slot = slot then f g else g else b
  if s.blk.core = core && s.grp.slot = slot && !s.blk.record.isEmpty then { s with grp := f s.grp }
  else { s with blk := at' s.blk, blocks := s.blocks.map at' }

/-- A group by core and slot, with its block. -/
def State.groupAt (s : State) (core slot : Nat) : Option (Block × Group) :=
  s.allGroups.find? fun bg => bg.1.core == core && bg.2.slot == slot

/-- YIELD_EXPIRY (R312): the die's clk reaches the end of the count and the split is ready again. -/
def execYieldExpiry (core slot spl : Nat) (s : State) : Host.Outcome State Fault Refusal :=
  match s.groupAt core slot with
  | none => move s
  | some (_, g) =>
    let p := g.splitAt spl
    match p.wait with
    | some (.clk, _) =>
      let now := max (s.clkOf (dieOf core)) p.yieldUntil
      move { s.updGroup core slot (·.wake spl) with cores := { s.cores with clk := sset 0 s.cores.clk (dieOf core) now } }
    | _ => move s

/-- `yieldc` (R313): a future that has completed gives its status word; a pending one keeps the split waiting. -/
def execYieldc (c : Reg) (o : BitVec 18) (s : State) : Host.Outcome State Fault Refusal :=
  gate (.yieldc c o) s fun s =>
    match s.grp.futureOf c.toNat with
    | none => branchTo o s
    | some f =>
      let t := branchTarget s.spl.pc o
      if !s.commandDone f.die (f.qn % 256) f.seq then .stall .future
      else if targetOk t then .jump (s.resolveFuture c.toNat f) (BitVec.ofInt 57 t)
      else badTarget s t

end Sys2Proof.Machine
end

