-- ==== Sys2Proof/Machine/Lane.lean ====
section
/-! DEFINITION. Lane exchange, votes, reductions, scans and the L-format lane instructions: opcodes 0x80 to 0x8F
(05_results_vector_instructions.md R123-R133). -/

namespace Sys2Proof.Machine

/-! ## Exchange and votes (R123, R124) -/

/-- `lperm` (R123). -/
def execLperm (d a : Reg) (p : Perm) (b : Reg) (q : Perm) (s : State) : Host.Outcome State Fault Refusal :=
  gate (.lperm d a p b q) s fun s => .next (s.mapLanes d fun i =>
    let j := s.operandB b.toNat q i
    if j.getLsbD 7 then 0 else s.view 0 a.toNat (laneMap s.spl.gm p (j.toNat % 32)))

/-- `lq.any` (R124). -/
def execLqAny (d a : Reg) (p : Perm) (s : State) : Host.Outcome State Fault Refusal :=
  gate (.lqAny d a p) s fun s =>
    .next (s.setCtl d (if s.active.any fun i => s.operand a.toNat p i != 0 then 1 else 0))

/-- `lq.all` (R124). -/
def execLqAll (d a : Reg) (p : Perm) (s : State) : Host.Outcome State Fault Refusal :=
  gate (.lqAll d a p) s fun s =>
    .next (s.setCtl d (if s.active.all fun i => s.operand a.toNat p i != 0 then 1 else 0))

/-- `lq.set` (R124). -/
def execLqSet (d a : Reg) (p : Perm) (s : State) : Host.Outcome State Fault Refusal :=
  gate (.lqSet d a p) s fun s => .next (s.setCtl d (s.maskOf fun i => s.operand a.toNat p i != 0))

/-! ## Reductions (R125) -/

/-- A word written to every active lane and to the control lane (R125). -/
def State.setGroup (s : State) (d : Reg) (v : Word) : State := s.mapUniform d fun _ => v

/-- An encoding written to every active lane and to the control lane (R125). -/
def State.putGroup (s : State) (d : Reg) (T : Fmt) (c : Nat) : State :=
  s.puts d.toNat T ((lanesOf (s.activeMask ||| (1#32 <<< s.ctl))).map fun i => (i, c))

/-- The flags of a group reduction, set by the lowest active lane (R125). -/
def State.raiseLow (s : State) (f : BitVec 6) : State :=
  match s.active with
  | [] => s
  | g :: _ => s.raise g f

/-- Float `gred.add` (R125): the exact sum, rounded once with the lowest active lane's draw. -/
def State.floatSum (s : State) (d : Reg) (T : Fmt) (vs : List Val) : State :=
  match s.active with
  | [] => s.putGroup d T 0
  | g :: _ =>
    let (z, bad) := sumVals (gmRM s.spl.gm) vs
    let (t, c) := (s.raise g (ivIf (bad || vs.any Val.isSig))).round z T g
    t.putGroup d T c

/-- `gred.add` (R125). -/
def execGredAdd (d a : Reg) (p : Perm) (s : State) : Host.Outcome State Fault Refusal :=
  gate (.gredAdd d a p) s fun s =>
    if isArithFloat (gmTA s.spl.gm) then .next (s.floatSum d (gmT s.spl.gm) (s.active.map (s.fp a p)))
    else
      let (w, f) := intRes s.spl.gm ((s.active.map (s.int a p)).foldl (· + ·) 0)
      .next ((s.raiseLow f).setGroup d w)

/-- The least or greatest of a list of encodings, numbers before NaNs (R113, R125); `none` for no operand. -/
def chooseAll (least : Bool) (T : Fmt) : List Nat → Option Nat
  | [] => none
  | [c] => some (if (decodeVal T c).isNaN then nanCode T false else c)
  | c :: rest =>
    match chooseAll least T rest with
    | none => some c
    | some e => some (chooseCode least T c e)

/-- The least or greatest integer operand of a list. -/
def chooseInt (least : Bool) : List Int → Option Int
  | [] => none
  | x :: rest =>
    match chooseInt least rest with
    | none => some x
    | some y => some (if least then min x y else max x y)

/-- `gred.min` and `gred.max` (R125). -/
def reduceChoose (least : Bool) (d a : Reg) (p : Perm) (s : State) : Res :=
  let gm := s.spl.gm
  if isArithFloat (gmTA gm) then
    let T := gmT gm
    let c := (chooseAll least T (s.active.map fun i => s.src a.toNat p i T)).getD (infCode T (!least))
    .next ((s.raiseLow (ivIf (s.active.any fun i => (s.fp a p i).isSig))).putGroup d T c)
  else
    let none' : Int := if isNat gm then (if least then 0xFFFFFFFF else 0) else if least then 0x7FFFFFFF else -0x80000000
    .next (s.setGroup d (BitVec.ofInt 32 ((chooseInt least (s.active.map (s.int a p))).getD none')))

/-- `gred.min` (R125). -/
def execGredMin (d a : Reg) (p : Perm) (s : State) : Host.Outcome State Fault Refusal :=
  gate (.gredMin d a p) s (reduceChoose true d a p)

/-- `gred.max` (R125). -/
def execGredMax (d a : Reg) (p : Perm) (s : State) : Host.Outcome State Fault Refusal :=
  gate (.gredMax d a p) s (reduceChoose false d a p)

/-- A bitwise reduction (R125). -/
def reduceBits (f : Word → Word → Word) (e : Word) (d a : Reg) (p : Perm) (s : State) : Res :=
  .next (s.setGroup d ((s.active.map (s.operand a.toNat p)).foldl f e))

/-- `gred.and` (R125). -/
def execGredAnd (d a : Reg) (p : Perm) (s : State) : Host.Outcome State Fault Refusal :=
  gate (.gredAnd d a p) s (reduceBits (· &&& ·) 0xFFFFFFFF d a p)

/-- `gred.or` (R125). -/
def execGredOr (d a : Reg) (p : Perm) (s : State) : Host.Outcome State Fault Refusal :=
  gate (.gredOr d a p) s (reduceBits (· ||| ·) 0 d a p)

/-- `gred.xor` (R125). -/
def execGredXor (d a : Reg) (p : Perm) (s : State) : Host.Outcome State Fault Refusal :=
  gate (.gredXor d a p) s (reduceBits (· ^^^ ·) 0 d a p)

/-! ## Scans (R126) -/

/-- The active lanes up to and including a lane. -/
def State.upTo (s : State) (i : Nat) : List Nat := s.active.filter (· ≤ i)

/-- `gscan.add` (R126). -/
def execGscanAdd (d a : Reg) (p : Perm) (s : State) : Host.Outcome State Fault Refusal :=
  gate (.gscanAdd d a p) s fun s =>
    if isArithFloat (gmTA s.spl.gm) then
      .next (s.floatLanes d (gmT s.spl.gm) fun i =>
        let vs := (s.upTo i).map (s.fp a p)
        let (z, bad) := sumVals (gmRM s.spl.gm) vs
        (z, ivIf (bad || vs.any Val.isSig)))
    else .next (s.mapFlags d fun i => intRes s.spl.gm (((s.upTo i).map (s.int a p)).foldl (· + ·) 0))

/-- `gscan.max` (R126). -/
def execGscanMax (d a : Reg) (p : Perm) (s : State) : Host.Outcome State Fault Refusal :=
  gate (.gscanMax d a p) s fun s =>
    if isArithFloat (gmTA s.spl.gm) then
      let T := gmT s.spl.gm
      .next (s.codeLanes d T fun i =>
        ((chooseAll false T ((s.upTo i).map fun j => s.src a.toNat p j T)).getD 0,
          ivIf ((s.upTo i).any fun j => (s.fp a p j).isSig)))
    else .next (s.mapLanes d fun i =>
      BitVec.ofInt 32 ((chooseInt false ((s.upTo i).map (s.int a p))).getD 0))

/-! ## Intersection, selection and grouping (R127-R130) -/

/-- The empty entry of `isect` (R128). -/
def emptyEntry : Word := 0xFFFFFFFF

/-- The matches of two lists of 32 entries: `(j << 8) | i` (R128). -/
def intersect (P Q : List Word) : List Word :=
  lanes.filterMap fun i =>
    let x := P.getD i emptyEntry
    if x = emptyEntry then none
    else (lanes.find? fun j => Q.getD j emptyEntry == x).map fun j => BitVec.ofNat 32 (j * 256 + i)

/-- Entries of a list that are not empty and not above a bound (R128). -/
def countUpTo (P : List Word) (h : Word) : Nat := (P.filter fun x => x != emptyEntry && x.toNat ≤ h.toNat).length

/-- `isect` (R128). -/
def execIsect (d a : Reg) (p : Perm) (l : BitVec 4) (s : State) : Host.Outcome State Fault Refusal :=
  gate (.isect d a p l) s fun s =>
    let act := s.activeMask
    let list := fun (r : Nat) => lanes.map fun i => if act.getLsbD i then s.operand r p i else emptyEntry
    let P := list a.toNat
    let Q := list (a.toNat + 1)
    let ms := intersect P Q
    let last := fun (l : List Word) => (l.getD 31 emptyEntry).toNat
    let h : Word := BitVec.ofNat 32 (min (last P) (last Q))
    let w := ms.length * 2 ^ 16 + countUpTo Q h * 256 + countUpTo P h
    .next ((s.setDomain act d.toNat (lanes.map fun k => (k, ms.getD k emptyEntry))).setReg (d.toNat + 1) s.ctl
      (BitVec.ofNat 32 w))

/-- A list with an element put before the first that it must precede. -/
def insertBy {α : Type} (before : α → α → Bool) (x : α) : List α → List α
  | [] => [x]
  | y :: r => if before x y then x :: y :: r else y :: insertBy before x r

/-- A stable sort. -/
def sortBy {α : Type} (before : α → α → Bool) (l : List α) : List α :=
  l.foldl (fun acc x => insertBy before x acc) []

/-- Does an operand rank above another in the order of `topk` (R129)? -/
def ranksAbove (ta : Nat) (x y : Word) : Bool :=
  match fmtOf ta with
  | some T =>
    if T.isFloat && T != .e2m1 then
      let vx := decodeVal T (x.toNat % 2 ^ T.width)
      let vy := decodeVal T (y.toNat % 2 ^ T.width)
      if vx.isNaN then false else if vy.isNaN then true else belowVal vy vx
    else if 14 ≤ ta && ta ≤ 16 then y.toNat < x.toNat
    else y.toInt < x.toInt
  | none => y.toInt < x.toInt

/-- `topk` (R129). -/
def execTopk (d a : Reg) (p : Perm) (l : BitVec 4) (x : BitVec 5) (s : State) : Host.Outcome State Fault Refusal :=
  gate (.topk d a p l x) s fun s =>
    let k := x.toNat + 1
    let ranked := sortBy (fun u v => ranksAbove (gmTA s.spl.gm) u.2 v.2)
      (s.active.map fun i => (i, s.operand a.toNat p i))
    let at' := fun (t : Nat) => ranked[t]?
    .next ((s.setDomain s.activeMask d.toNat ((List.range k).map fun t => (t, (at' t).elim 0 (·.2)))).setDomain
      s.activeMask (d.toNat + 1)
      ((List.range k).map fun t => (t, (at' t).elim emptyEntry fun e => BitVec.ofNat 32 e.1)))

/-- The leaf that a path trace of a depth leads to (R130). -/
def leafKey (depth : Nat) (w : Word) : Nat :=
  (List.range depth).foldl (fun k lvl => 2 * k + (if w.getLsbD lvl then 1 else 0)) 0

/-- `dgrp` (R130). -/
def execDgrp (d a : Reg) (p : Perm) (l : BitVec 4) (x : BitVec 5) (s : State) : Host.Outcome State Fault Refusal :=
  gate (.dgrp d a p l x) s fun s =>
    let rows := s.active.map fun i => (i, leafKey x.toNat (s.operand a.toNat p i))
    let order := sortBy (fun u v => u.2 < v.2) rows
    let leaves := distinct (order.map (·.2))
    let start := fun (key : Nat) => order.findIdx fun e => e.2 == key
    let count := fun (key : Nat) => (order.filter fun e => e.2 == key).length
    let first := lanes.map fun t =>
      (t, (order[t]?).elim emptyEntry fun e => BitVec.ofNat 32 (e.1 * 2 ^ 27 + e.2))
    let second := lanes.map fun j =>
      (j, (leaves[j]?).elim (0 : Word) fun key => BitVec.ofNat 32 (start key * 256 + count key))
    .next ((s.setDomain s.activeMask d.toNat first).setDomain s.activeMask (d.toNat + 1) second)

/-! ## Pruning (R131, R132) -/

/-- Magnitudes at a common exponent. -/
def commonMags (vs : List Val) : List Nat :=
  let e0 := vs.foldl (fun e v => match v with
    | .fin _ _ f => min e f
    | _ => e) 0
  vs.map fun v => match v with
    | .fin _ m e => scaleTo m e e0
    | _ => 0

/-- The position one draw picks among candidates with their values (R132). -/
def prunePick (u : Nat) (cand : List (Nat × Val)) : Nat :=
  match cand.find? fun c => match c.2 with
      | .fin _ _ _ => false
      | _ => true with
  | some c => c.1
  | none =>
    let mags := commonMags (cand.map (·.2))
    let total := mags.foldl (· + ·) 0
    if total = 0 then (cand.headD (0, qNaN)).1
    else
      let cums := (List.range cand.length).map fun k => (mags.take (k + 1)).foldl (· + ·) 0
      match (List.range cand.length).find? fun k => u * total < 2 ^ 32 * cums.getD k 0 with
      | some k => (cand.getD k (0, qNaN)).1
      | none => (cand.getLastD (0, qNaN)).1

/-- `prune` (R132): per group of four domain positions, two draws of its lowest active lane. -/
def execPrune (d a : Reg) (p : Perm) (l : BitVec 4) (s : State) : Host.Outcome State Fault Refusal :=
  gate (.prune d a p l) s fun s =>
    let T := gmT s.spl.gm
    let act := s.activeMask
    let dom := s.domLanes
    let elem := fun (pos : Nat) =>
      match dom[pos]? with
      | some i => if act.getLsbD i then s.src a.toNat p i T else 0
      | none => 0
    let quads := (List.range 8).filterMap fun j =>
      ((List.range 4).filterMap fun k => dom[4 * j + k]?).find? act.getLsbD |>.map fun g => (j, g)
    let step := fun (acc : State × List (Nat × Nat × Nat)) (jg : Nat × Nat) =>
      let cand := (List.range 4).map fun k => (k, decodeVal T (elem (4 * jg.1 + k)))
      let (t1, u1) := acc.1.draw jg.2
      let (t2, u2) := t1.draw jg.2
      let k1 := prunePick u1 cand
      let k2 := prunePick u2 (cand.filter (·.1 != k1))
      (t2, acc.2 ++ [(jg.1, min k1 k2, max k1 k2)])
    let (t, kept) := quads.foldl step (s, [])
    .next ((t.setDomain act d.toNat (kept.flatMap fun (j, p0, p1) =>
        [(2 * j, BitVec.ofNat 32 (elem (4 * j + p0))), (2 * j + 1, BitVec.ofNat 32 (elem (4 * j + p1)))])).setDomain
      act (d.toNat + 1) (kept.map fun (j, p0, p1) => (j, BitVec.ofNat 32 (p1 * 4 + p0))))

end Sys2Proof.Machine
end

