-- ==== Sys2Proof/Machine/Access.lean ====
section
/-! DEFINITION. Lane accesses: what a lane reads and writes through memory, scratchpad, a try region's buffer and a
fence's buffer, what a faulting lane leaves, and releases and acquires (08_ordering_memory.md R183-R189,
09_ordering_consistency.md R199-R222, 10_ordering_memory_instructions.md R225-R234). -/

namespace Sys2Proof.Machine

/-! ## Held bytes: try slots and fence buffers (R209, R216) -/

/-- The newest held byte at a place. -/
def heldAt (hs : List HeldByte) (spad : Bool) (addr : Nat) : Option Byte :=
  (hs.reverse.find? fun h => h.spad == spad && h.addr == addr).map (·.val)

/-- The newest byte of the split's own requests that have not reached their home (R202). -/
def State.inFlight (s : State) (addr : Nat) : Option Byte :=
  ((s.ownRequests.filter (!·.spad)).flatMap fun r => r.data.map fun (j, v) => (r.pa + j, v)).reverse.find? (·.1 == addr)
    |>.map (·.2)

/-- What the issuing split reads at a place before the memory behind it: its region's buffer, its fence's buffer, its
own requests. -/
def State.ownByte (s : State) (spad : Bool) (addr : Nat) : Option Byte :=
  let r := match s.grp.region with
    | some r => heldAt r.buffer spad addr
    | none => none
  let f := match s.spl.spec with
    | some f => heldAt f.buffer spad addr
    | none => none
  (r.or f).or (if spad then none else s.inFlight addr)

/-! ## Loads -/

/-- What a lane's read finds: the bytes and their places, each with the policy of its page. -/
inductive LaneRead where
  | ok (bytes : List Byte) (spad : Bool) (places : List (Nat × Nat))
  | bad (t : TrapInfo) (denied : Bool)

/-- The read of `n` scratchpad bytes by a lane (R234, R393). -/
def State.readSpad (s : State) (i off n : Nat) (va : DWord) : LaneRead :=
  if s.blk.spadSize < off + n then .bad { code := tPROT, lane := i, fva := va } false
  else if s.bankUpset off n then .bad { code := tECC, lane := i, fva := va, str := 2 } false
  else
    let places := (List.range n).map (off + ·)
    .ok (places.map fun o => (s.ownByte true o).getD (s.blk.byte o)) true (places.map fun o => (o, 0))

/-- Is a read sourced at the home: by the instruction itself, in a try region (R216), or past an incomplete fence of die
scope or wider, after which no L1 copy counts (R208, R209)? -/
def State.atHome (s : State) (home : Bool) : Bool :=
  home || s.grp.region.isSome || s.spl.spec.any (2 ≤ ·.scope)

/-- The read of `n` bytes at a virtual address by a lane (R229, R230): through the L1 unless it is sourced at home. -/
def State.readLane (s : State) (i va n : Nat) (k : Kind) (home : Bool) : LaneRead :=
  match s.check s.me s.blk.asid va n k s.inHandler with
  | .fault code fva p2 denied str =>
    .bad { code := code, lane := i, fva := BitVec.ofNat 64 fva, part2 := p2, str := str % 256, port := str / 256 } denied
  | .spad off => s.readSpad i off n (BitVec.ofNat 64 va)
  | .mem ps =>
    match (List.range ps.length).findSome? fun j =>
        let at_ := ps.getD j (0, 0)
        if s.hitsL1 s.blk.core at_ (s.atHome home) then none else (s.unreadable s.blk.asid at_).map ((va + j) / 64, ·) with
    | some (l, str) =>
      let part2 := l != va / 64
      .bad { code := tECC, lane := i, fva := BitVec.ofNat 64 (if part2 then 64 * l else va), part2 := part2, str := str } false
    | none =>
      .ok (ps.map fun at_ => (s.ownByte false at_.1).getD (s.loadByte s.blk.asid s.blk.core at_ (s.atHome home))) false ps

/-- The issuing core's L1 copies of lines removed (R231, `.na`). -/
def State.dropLines (s : State) (core : Nat) (ls : List Nat) : State :=
  { s with mem := { s.mem with l1 := s.mem.l1.filter fun c => !(c.core == core && ls.contains c.line) } }

/-- Lines read: they join an open region's read set and a fence's monitored lines (R209, R216). They fill the L1 where
the access may (R200, R230); a read sourced at home leaves no older copy that a later read could meet (R202, R206). The
hub directory takes back a line of HBM that the host caches (R360). -/
def State.noteRead (s : State) (spad : Bool) (places : List (Nat × Nat)) (home fill : Bool) : State :=
  let ls := (places.map fun at_ => (at_.1 / 64, at_.2)).eraseDups
  let marks := (ls.map fun l => (spad, l.1)).eraseDups
  let g := match s.grp.region with
    | some r => { s.grp with region := some { r with reads := r.reads ++ marks.filter fun m => !r.reads.contains m } }
    | none => s.grp
  let back := s.mem.hostLines.filter fun l => spad || !(ls.any (·.1 == l))
  let s1 := { s with grp := g, mem := { s.mem with hostLines := back } }
  let p := s1.spl
  let s2 := match p.spec with
    | some f => s1.setSpl { p with spec := some { f with
        monitored := f.monitored ++ marks.filter fun m => !f.monitored.contains m } }
    | none => s1
  if spad then s2
  else if s.atHome home then s2.dropLines s.blk.core (ls.map (·.1))
  else if fill then s2.fillL1 s.blk.asid s.blk.core ls else s2

/-! ## The links that an access crosses (R371-R374) -/

/-- Is there a port that carries a request of an address space to another module (R373)? -/
def State.carried (s : State) (asid pa : Nat) : Bool := pa < 2 ^ 58 || (s.portOf asid (moduleOf pa) (pa / 64)).isSome

/-- The links that a request of a core to a place crosses (R374): that of the core's die, and that of the M-die which holds
the place or the fabric port that its line takes. -/
def State.route (s : State) (asid core pa : Nat) : List Nat :=
  let die := dieOf core
  let own := if core < 640 then [die] else []
  if pa < 2 ^ 40 then (if die = 32 + pa / 2 ^ 37 then [] else own ++ [32 + pa / 2 ^ 37])
  else if 2 ^ 58 ≤ pa then own ++ ((s.portOf asid (moduleOf pa) (pa / 64)).map (40 + ·)).toList
  else own

/-- The link of a request's route that sleeps or is waking, if one does (R374). -/
def State.asleep (s : State) (asid core pa : Nat) : Option Nat :=
  (s.route asid core pa).find? fun l => s.linkST l == 3 || s.linkST l == 4

/-- Does a request to a line of another module wait: because a port on which its line went has gone DOWN and requests that
were outstanding there are yet to be replayed or to fail (R371), or because the replay buffer of its port is full (R373)? -/
def State.portWaits (s : State) (asid pa : Nat) : Bool :=
  let ps := s.portsFor asid (moduleOf pa)
  2 ^ 58 ≤ pa &&
    ((s.mem.requests.any fun q => 2 ^ 58 ≤ q.pa && moduleOf q.pa == moduleOf pa &&
      q.port.any fun p => p == portFor (pa / 64) ps || !ps.contains p) ||
    (s.portOf asid (moduleOf pa) (pa / 64)).any fun p => 1024 ≤ (s.links.replay.filter (·.1 == p)).length)

/-- May a request of a core to a place cross its links now (R371, R373, R374)? -/
def State.wayOpen (s : State) (asid core pa : Nat) : Bool := (s.asleep asid core pa).isNone && !s.portWaits asid pa

/-- The links of a request's route that sleep woken (R374). -/
def State.wakeWay (s : State) (asid core pa : Nat) : State :=
  (s.route asid core pa).foldl (fun (t : State) l => if t.linkST l = 3 then t.setLink l 4 else t) s

/-- A flit sent for a request to another module: the next SEQ of its port, kept in the replay buffer until it is acknowledged
(R372, R373; log entry 88). -/
def State.sendFlit (s : State) (asid pa : Nat) : State :=
  match (if pa < 2 ^ 58 then none else s.portOf asid (moduleOf pa) (pa / 64)) with
  | none => s
  | some p =>
    let seq := (sget 0 s.links.txSeq p + 1) % 4096
    { s with links := { s.links with txSeq := sset 0 s.links.txSeq p seq, replay := s.links.replay ++ [(p, seq)] } }

/-- Flits sent for the lines of places of other modules. -/
def State.sendFlits (s : State) (asid : Nat) (pas : List Nat) : State :=
  (distinct (pas.map fun pa => pa / 64)).foldl (fun (t : State) l => t.sendFlit asid (64 * l)) s

/-- The end of an instruction's effect with another state. -/
def Res.mapState (f : State → State) : Res → Res
  | .next s => .next (f s)
  | .jump s pc => .jump (f s) pc
  | .trap s t => .trap (f s) t
  | .abort s code imm => .abort (f s) code imm
  | .stall w => .stall w
  | .hold s w => .hold (f s) w
  | .gone s => .gone (f s)

/-- The effect of an instruction whose accesses leave the core for these places: where a link on their way sleeps or wakes,
or a port makes them wait, the links are woken and the instruction waits (R371, R374). -/
def State.crossing (s : State) (pas : List Nat) (r : Res) : Res :=
  if pas.all (s.wayOpen s.blk.asid s.blk.core) then
    r.mapState (·.sendFlits s.blk.asid pas)
  else .hold (pas.foldl (fun (t : State) pa => t.wakeWay s.blk.asid s.blk.core pa) s) .held

/-- Those places of a read that the core's L1 does not answer (R200). -/
def State.missed (s : State) (home : Bool) (places : List (Nat × Nat)) : List Nat :=
  (places.filter fun at_ => !s.hitsL1 s.blk.core at_ home).map (·.1)

/-- A denial by a firewall of an access of the issuing core counted and reported (R341). -/
def State.noteDenial (s : State) (va : Nat) : State := s.noteFault s.me s.blk.asid va 0

/-- The issuing split as the performer of a write. -/
def State.who (s : State) : Who := some (s.blk.core, s.grp.slot, s.cur)

/-- The split of a group whose domain holds a lane (R22). -/
def Group.splitOf (g : Group) (lane : Nat) : Nat :=
  ((List.range 4).find? fun k => (g.splitAt k).st != .free && (g.splitAt k).dm.getLsbD lane).getD 0

/-- A reservation of a lane with its place: core, slot, lane and the lane's split (R238). -/
abbrev Holder := (Nat × Nat × Nat × Nat) × LrRes

/-- The live reservations of a granule with their holders (R238). -/
def State.holders (s : State) (granule : Nat) : List Holder :=
  s.allGroups.flatMap fun bg => bg.2.lr.filterMap fun (i, r) =>
    if r.granule = granule then some ((bg.1.core, bg.2.slot, i, bg.2.splitOf i), r) else none

/-- The oldest live reservation of a granule (R333). -/
def oldestOf : List Holder → Option Holder
  | [] => none
  | h :: rest =>
    match oldestOf rest with
    | none => some h
    | some o => if o.2.stamp < h.2.stamp then some o else some h

/-- The holder whose reservation protects a granule (R333). -/
def State.protector (s : State) (granule : Nat) : Option (Nat × Nat × Nat × Nat) :=
  match oldestOf (s.holders granule) with
  | some (h, r) => if r.isProtected then some h else none
  | none => none

/-- Does a priority region of another group watch a line, of scratchpad a line of the issuing block (R325)? -/
def State.priorityHolds (s : State) (who : Who) (spad : Bool) (line : Nat) : Bool :=
  (if spad then s.wholeBlk.groups.map fun g => (s.blk, g) else s.allGroups).any fun bg =>
    !(who.any fun w => w.1 == bg.1.core && w.2.1 == bg.2.slot) &&
    match bg.2.region with
    | some r => r.holding && (r.reads.contains (spad, line) || r.buffer.any fun h => h.spad == spad && h.addr / 64 == line)
    | none => false

/-- Does a reservation that another agent holds protect a line of memory (R333)? Each split is an agent (R199). -/
def State.protectedFrom (s : State) (who : Who) (line : Nat) : Bool :=
  match s.protector line with
  | some (c, sl, _, k) => who != some (c, sl, k)
  | none => false

/-- Are writes of an agent to a line held at its home (R325, R333)? `none` stands for one that is no split. -/
def State.lineHeld (s : State) (who : Who) (spad : Bool) (line : Nat) : Bool :=
  s.priorityHolds who spad line || (!spad && s.protectedFrom who line)

/-- Has the issuing split a scratchpad store that is held on a line of these offsets (R325)? -/
def State.spadWaits (s : State) (offs : List Nat) : Bool :=
  s.ownRequests.any fun r => offs.any fun o => r.meetsLine true (o / 64)

/-- Must a read of places wait for the split's own earlier accesses: to their bytes for a reduction, which gives nothing
to forward, and for a store where it is sourced at home (R202); to their lines for a write that is held there (R325) or
that is to be translated again (R220)? -/
def State.mustWait (s : State) (home : Bool) (places : List (Nat × Nat)) : Bool :=
  let at_ := fun (a : Nat) => places.any (·.1 == a)
  let inRed := fun (r : Request) => r.red.any fun d => (List.range d.bytes).any fun j => at_ (r.pa + j)
  let held := fun (r : Request) => r.rejected || s.lineHeld s.who false (r.pa / 64)
  (s.mem.reductions.any fun r => r.core == s.blk.core && r.slot == s.grp.slot && r.spl == s.cur && inRed r) ||
    s.ownRequests.any fun r => !r.spad && (inRed r || (home && r.data.any fun b => at_ (r.pa + b.1)) ||
      (held r && places.any fun at_ => r.meetsLine false (at_.1 / 64)))

/-! ## Faulting lanes (R186, R323) -/

/-- The lanes already performed of an instruction under re-execution (R383). -/
def State.doneBefore (s : State) : Word :=
  match s.spl.redo with
  | (pc, m) :: _ => if pc = s.spl.pc then m else 0
  | [] => 0

/-- Lanes failed in the open `tryl` region: they join F and leave em (R323). -/
def State.failLanes (s : State) (m : Word) : State :=
  match s.grp.region with
  | none => s
  | some r =>
    let s1 := { s with grp := { s.grp with region := some { r with failed := r.failed ||| m } } }
    s1.setSpl { s1.spl with em := s1.spl.em &&& ~~~m }

/-- The end of a lane instruction: `t` with the lanes that fault not performed. Outside a region the lowest faulting
lane traps with DONE the lanes performed (R186); in a `tryl` region the faulting lanes fail (R323). -/
def State.endLanes (s t : State) (bads : List (TrapInfo × Bool)) : Res :=
  match bads with
  | [] => .next t
  | (b, _) :: _ =>
    let bad := maskOfLanes (bads.map (·.1.lane))
    let noted := bads.foldl (fun (t : State) b => if b.2 then t.noteDenial b.1.fva.toNat else t) t
    let whole := Res.trap noted { b with done := (s.activeMask &&& ~~~bad) ||| s.doneBefore }
    match s.grp.region with
    | some r =>
      if !r.perLane then whole
      else if bad.getLsbD s.ctl then .abort noted 9 0
      else .next (noted.failLanes bad)
    | none => whole

/-! ## Widths (R226, R230) -/

/-- The register words of a loaded value (R230). -/
def loadedWords (w : BitVec 3) (bs : List Byte) : List Word :=
  let v := natOfBytes bs
  match w.toNat with
  | 1 => [(BitVec.ofNat 8 v).signExtend 32]
  | 3 => [(BitVec.ofNat 16 v).signExtend 32]
  | 5 => [BitVec.ofNat 32 v, BitVec.ofNat 32 (v / 2 ^ 32)]
  | 6 => (List.range 4).map fun k => BitVec.ofNat 32 (v / 2 ^ (32 * k))
  | _ => [BitVec.ofNat 32 v]

/-- Words written to a lane of consecutive registers. -/
def State.setWords (s : State) (r i : Nat) : List Word → State
  | [] => s
  | w :: rest => (s.setReg r i w).setWords (r + 1) i rest

/-- The bytes that a lane stores from a register and those after it (R231). -/
def State.storeBytes (s : State) (d : Reg) (i n : Nat) : List Byte :=
  (List.range n).map fun j => (s.source (d.toNat + j / 4) i).extractLsb' (8 * (j % 4)) 8

/-- The address of a lane (R225). -/
def State.addr (s : State) (a : Reg) (p : Perm) (i : Nat) : Nat := (s.operand64 a.toNat p i).toNat

/-! ## Loads of many lanes -/

/-- The reads of a list of lanes, split into those performed and those that fault. -/
def splitReads : List (Nat × LaneRead) → List (Nat × List Byte × Bool × List (Nat × Nat)) × List (TrapInfo × Bool)
  | [] => ([], [])
  | (i, .ok bs sp ps) :: rest => let (a, b) := splitReads rest; ((i, bs, sp, ps) :: a, b)
  | (_, .bad t d) :: rest => let (a, b) := splitReads rest; (a, (t, d) :: b)

/-- The state after lanes have read: lines noted, registers written with `f` of the bytes. -/
def State.landReads (s : State) (d : Reg) (f : List Byte → List Word) (home fill : Bool)
    (rs : List (Nat × List Byte × Bool × List (Nat × Nat))) : State :=
  rs.foldl (fun (t : State) r => ((t.noteRead r.2.2.1 r.2.2.2 home fill).setWords d.toNat r.1 (f r.2.1))) s

/-- Must the reads of lanes wait (R202, R325)? -/
def State.readsWait (s : State) (home : Bool) (rs : List (Nat × List Byte × Bool × List (Nat × Nat))) : Bool :=
  s.spadWaits ((rs.filter (·.2.2.1)).flatMap fun r => r.2.2.2.map (·.1)) ||
    s.mustWait (s.atHome home && s.spl.spec.isNone && s.grp.region.isNone) ((rs.filter (!·.2.2.1)).flatMap (·.2.2.2))

/-- The places of the reads of lanes that the core's L1 does not answer. -/
def State.readsMiss (s : State) (home : Bool) (rs : List (Nat × List Byte × Bool × List (Nat × Nat))) : List Nat :=
  s.missed home ((rs.filter (!·.2.2.1)).flatMap (·.2.2.2))

/-- The translations of a list of addresses cached by the core (R192, R193). -/
def State.fillTlbs (s : State) (vas : List Nat) : State :=
  vas.foldl (fun (t : State) va => if va < aliasBase then t.fillTlb s.me s.blk.asid va else t) s

/-! ## Stores -/

/-- What the check of a lane's store finds: held bytes, or a trap. -/
inductive LaneWrite where
  | ok (bytes : List HeldByte)
  | bad (t : TrapInfo) (denied : Bool)

/-- What a store or reduction of the issuing split keeps of its instruction, for a lane's access at an address. -/
def State.origin (s : State) (va : Nat) : Origin := ⟨s.tick, s.activeMask ||| s.doneBefore, s.inHandler, va, false⟩

/-- The scratchpad store of a lane (R136, R234): offsets with values. -/
def State.writeSpad (s : State) (i : Nat) (va : DWord) (bs : List (Nat × Byte)) (lo n : Nat) : LaneWrite :=
  if s.blk.spadSize < lo + n then .bad { code := tPROT, lane := i, fva := va } false
  else if s.blk.computing lo n then .bad { code := tBANKMODE, lane := i, fva := va } false
  else .ok (bs.map fun (o, v) => ⟨true, o, v, i, 0, 0, 0, s.spl.pc, s.origin 0⟩)

/-- The store of a lane at a virtual address, checked over `n` bytes of which `bs` lists those written, by their place
in the access (R229, R231, R233). -/
def State.writeLane (s : State) (i va n : Nat) (k : Kind) (bs : List (Nat × Byte)) : LaneWrite :=
  match s.check s.me s.blk.asid va n k s.inHandler with
  | .fault code fva p2 denied str =>
    .bad { code := code, lane := i, fva := BitVec.ofNat 64 fva, part2 := p2, str := str % 256, port := str / 256 } denied
  | .spad off => s.writeSpad i (BitVec.ofNat 64 va) (bs.map fun (j, v) => (off + j, v)) off n
  | .mem ps => .ok (bs.map fun (j, v) =>
      let at_ := ps.getD j (0, 0)
      ⟨false, at_.1, v, i, va + j, s.gen s.blk.asid, at_.2, s.spl.pc, { s.origin va with rmw := k != .store }⟩)

/-- The writes of a list of lanes, split into those to perform and those that fault. -/
def splitWrites : List LaneWrite → List HeldByte × List (TrapInfo × Bool)
  | [] => ([], [])
  | .ok bs :: rest => let (a, b) := splitWrites rest; (bs ++ a, b)
  | .bad t d :: rest => let (a, b) := splitWrites rest; (a, (t, d) :: b)

/-- The lines that held bytes touch. -/
def heldLines (hs : List HeldByte) : List (Bool × Nat) := (hs.map fun h => (h.spad, h.addr / 64)).eraseDups

/-- Held bytes performed one after another at their homes (R185, R201, R222): of two bytes of one place the later
stands. -/
def State.performHeld (s : State) (who : Who) (asid core : Nat) (hs : List HeldByte) : State :=
  let sp := (hs.filter (·.spad)).map fun h => (h.addr, h.val)
  let mm := (hs.filter (!·.spad)).map fun h => ((h.addr, h.cp), h.val)
  let s1 := if sp.isEmpty then s else s.performSpad who sp
  if mm.isEmpty then s1 else s1.perform who asid core mm

/-- Held bytes as requests, in program order: the bytes of one lane's store within a line travel together (R184), all of
them where they go to scratchpad, whose banks take a lane's store wholly or not at all (R136). -/
def requestsOf (asid core slot spl : Nat) (hs : List HeldByte) : List Request :=
  let key := fun (h : HeldByte) => (h.origin.stamp, h.lane, h.spad, if h.spad then 0 else h.addr / 64)
  (hs.map key).eraseDups.filterMap fun k =>
    let mine := hs.filter fun h => key h == k
    match mine.find? fun h => mine.all fun x => h.addr ≤ x.addr with
    | none => none
    | some h =>
      some ⟨asid, h.gen, h.va, h.addr, mine.map fun x => (x.addr - h.addr, x.val), core, slot, spl, h.pc, h.lane, h.cp,
        false, h.origin, none, h.spad, none⟩

/-- Has the issuing split a request or a reduction on its way to a line (R202)? -/
def State.ownOnLine (s : State) (spad : Bool) (line : Nat) : Bool :=
  (s.ownRequests.any fun r => r.meetsLine spad line) ||
    !spad && s.mem.reductions.any fun r => r.core == s.blk.core && r.slot == s.grp.slot && r.spl == s.cur && r.pa / 64 == line

/-- The distinct lines of a region's store buffer (R318). -/
def bufferLines (hs : List HeldByte) : Nat := (heldLines hs).length

/-- Does a byte of a store go out as a request: because writes to its line are held, or the split has an access under way
there, and with it all of its lane's store to scratchpad (R136, R202, R325)? -/
def State.goesLater (s : State) (hs : List HeldByte) (h : HeldByte) : Bool :=
  let meets := fun (x : HeldByte) => s.lineHeld s.who x.spad (x.addr / 64) || s.ownOnLine x.spad (x.addr / 64)
  meets h || h.spad && hs.any fun x => x.spad && x.lane == h.lane && meets x

/-- Bytes stored by the issuing split: into the open region's buffer (R216), behind an incomplete fence (R209), or
performed. Those that go out as requests leave the others to be performed before them (R202, R325). `none` where the
split must wait: a full fence buffer. -/
def State.storeOut (s : State) (hs : List HeldByte) : Option State :=
  match s.grp.region with
  | some r => some { s with grp := { s.grp with region := some { r with buffer := r.buffer ++ hs } } }
  | none =>
    match s.spl.spec with
    | some f =>
      if 16 < bufferLines (f.buffer ++ hs) then none
      else some (s.setSpl { s.spl with spec := some { f with buffer := f.buffer ++ hs } })
    | none =>
      let later := s.goesLater hs
      let t := s.performHeld s.who s.blk.asid s.blk.core (hs.filter fun h => !later h)
      if hs.any later then
        some { t with mem := { t.mem with
          requests := t.mem.requests ++ requestsOf s.blk.asid s.blk.core s.grp.slot s.cur (hs.filter later) } }
      else some t

/-- Has the open region's buffer outgrown its 32 lines (R318)? -/
def State.overflowed (s : State) : Bool :=
  match s.grp.region with
  | some r => 32 < bufferLines r.buffer
  | none => false

/-- The places of a store's bytes that `storeOut` performs at once. -/
def State.outNow (s : State) (hs : List HeldByte) : List Nat :=
  if s.grp.region.isSome || s.spl.spec.isSome then []
  else (hs.filter fun h => !h.spad && !s.goesLater hs h).map (·.addr)

/-- The end of a storing lane instruction: what its lanes write goes out, then faults are judged. -/
def State.endStores (s : State) (ws : List LaneWrite) (after : State → State) : Res :=
  let (hs, bads) := splitWrites ws
  s.crossing (s.outNow hs) <|
  match s.storeOut hs with
  | none => .stall (if s.spl.spec.isSome then .fence else .held)
  | some t => if t.overflowed then .abort t 3 0 else s.endLanes (after t) bads

/-! ## Acquires (R206) -/

/-- An acquire at a scope: at die scope and wider no L1 copy of the core survives (R182, R206). -/
def State.acquire (s : State) (scope : Nat) : State := if 2 ≤ scope then s.dropL1 s.blk.core else s

end Sys2Proof.Machine
end

