-- ==== Sys2Proof/Machine/Memory.lean ====
section
/-! DEFINITION. Loads, stores, scratchpad, fills, the spill stack, fences, bindings, cleaning and invalidating, with the
moves that complete them: opcodes 0x98 to 0xA1, 0xB6 to 0xBE (10_ordering_memory_instructions.md R225-R248). -/

namespace Sys2Proof.Machine

/-- Work done at another group's place: that group becomes the issuing one, then the first is restored. -/
def State.atGroup (s : State) (core slot spl : Nat) (f : State → State) : State :=
  match s.focus core slot spl with
  | none => s
  | some t =>
    let u := f t
    if s.blk.record.isEmpty then u.unfocus else (u.focus s.blk.core s.grp.slot s.cur).getD u

/-- Work done at a block's place. -/
def State.atBlock (s : State) (core bslot : Nat) (f : State → State) : State :=
  match s.focusBlock core bslot with
  | none => s
  | some t =>
    let u := f t
    if s.blk.record.isEmpty then u.unfocus else (u.focus s.blk.core s.grp.slot s.cur).getD u

/-! ## Loads (R230, R232) -/

/-- A load of every active lane at addresses `va i`, sourced at home or filling the L1 as named. -/
def loadLanes (d : Reg) (n : Nat) (f : List Byte → List Word) (k : Kind) (home fill : Bool) (va : Nat → Nat)
    (s : State) : Res :=
  let (oks, bads) := splitReads (s.active.map fun i => (i, s.readLane i (va i) n k home))
  if s.readsWait home oks then .stall .fence
  else s.crossing (s.readsMiss (s.atHome home) oks) <|
    s.endLanes ((s.fillTlbs (s.active.map va)).landReads d f home fill oks) bads

/-- `ld` (R230). -/
def execLd (d a : Reg) (p : Perm) (l : BitVec 4) (h : BitVec 2) (w : BitVec 3) (s : State) :
    Host.Outcome State Fault Refusal :=
  gate (.ld d a p l h w) s fun s =>
    loadLanes d (widthBytes w) (loadedWords w) .load (h.toNat == 2) (h.toNat == 0) (s.addr a p) s

/-- `ldc` (R232): one read at the control lane's address, written to every active lane. -/
def execLdc (d a : Reg) (p : Perm) (l : BitVec 4) (h : BitVec 2) (w : BitVec 3) (s : State) :
    Host.Outcome State Fault Refusal :=
  gate (.ldc d a p l h w) s fun s =>
    if s.active.isEmpty then .next s
    else
      let va := s.addr a p s.ctl
      match s.readLane s.ctl va (widthBytes w) .load (h.toNat == 2) with
      | .bad t denied =>
        let noted := if denied then s.noteDenial t.fva.toNat else s
        (match s.grp.region with
          | some r => if r.perLane then .abort noted 9 0 else .trap noted t
          | none => .trap noted { t with done := s.doneBefore })
      | .ok bs sp ps =>
        if s.readsWait (h.toNat == 2) [(s.ctl, bs, sp, ps)] then .stall .fence
        else s.crossing (s.readsMiss (s.atHome (h.toNat == 2)) [(s.ctl, bs, sp, ps)]) <|
          let t := (s.fillTlbs [va]).noteRead sp ps (h.toNat == 2) (h.toNat == 0)
          .next (s.active.foldl (fun (t : State) i => t.setWords d.toNat i (loadedWords w bs)) t)

/-! ## Stores (R231, R233) -/

/-- The places in an access with their bytes. -/
def numbered (bs : List Byte) : List (Nat × Byte) := (List.range bs.length).zip bs

/-- `st` (R231). -/
def execSt (d a : Reg) (p : Perm) (l : BitVec 4) (h : BitVec 2) (w : BitVec 3) (s : State) :
    Host.Outcome State Fault Refusal :=
  gate (.st d a p l h w) s fun s =>
    let n := widthBytes w
    let ws := s.active.map fun i => s.writeLane i (s.addr a p i) n .store (numbered (s.storeBytes d i n))
    let lines := ((splitWrites ws).1.filter (!·.spad)).map (·.addr / 64)
    (s.fillTlbs (s.active.map (s.addr a p))).endStores ws fun t =>
      if h.toNat = 1 then t.dropLines s.blk.core lines else t

/-- The lowest and highest enabled byte of `stm` (R233). -/
def enableSpan (e : BitVec 4) : Nat × Nat :=
  let js := (List.range 4).filter e.getLsbD
  (js.headD 0, js.getLastD 0)

/-- `stm` (R233). -/
def execStm (d a : Reg) (p : Perm) (l e : BitVec 4) (s : State) : Host.Outcome State Fault Refusal :=
  gate (.stm d a p l e) s fun s =>
    let (lo, hi) := enableSpan e
    let base := fun i => (s.addr a p i + lo) % 2 ^ 64
    let ws := s.active.map fun i =>
      s.writeLane i (base i) (hi + 1 - lo) .store
        (((numbered (s.storeBytes d i 4)).filter fun x => e.getLsbD x.1).map fun x => (x.1 - lo, x.2))
    (s.fillTlbs (s.active.map base)).endStores ws fun t => t

/-! ## Scratchpad (R234, R235) -/

/-- `lds` (R234). -/
def execLds (d a : Reg) (p : Perm) (l : BitVec 4) (w : BitVec 3) (s : State) : Host.Outcome State Fault Refusal :=
  gate (.lds d a p l w) s fun s =>
    let (oks, bads) := splitReads (s.active.map fun i =>
      (i, s.readSpad i (s.operand a.toNat p i).toNat (widthBytes w) 0))
    if s.readsWait false oks then .stall .held
    else s.endLanes (s.landReads d (loadedWords w) false false oks) bads

/-- `sts` (R234). -/
def execSts (d a : Reg) (p : Perm) (l : BitVec 4) (w : BitVec 3) (s : State) : Host.Outcome State Fault Refusal :=
  gate (.sts d a p l w) s fun s =>
    let n := widthBytes w
    let ws := s.active.map fun i =>
      let off := (s.operand a.toNat p i).toNat
      s.writeSpad i 0 ((numbered (s.storeBytes d i n)).map fun (j, v) => (off + j, v)) off n
    s.endStores ws fun t => t

/-- Fields of a barrier object (R315). -/
def objFI (o : DWord) : Nat := bits o 63 40
def objFL (o : DWord) : Nat := bits o 39 16
def objMK (o : DWord) : Nat := bits o 15 0

/-- A barrier object of a block. -/
def Block.object (b : Block) (o : Nat) : DWord := sget 0 b.objects o

/-- The block with a barrier object replaced. -/
def Block.setObject (b : Block) (o : Nat) (v : DWord) : Block := { b with objects := sset 0 b.objects o v }

/-- Bytes grouped by aligned word, in the order they come (R235): the words of a fill land in lane order, and of two lanes
that write one byte the higher wins (log entry 97). -/
def byWords (bs : List (Nat × Byte)) : List (List (Nat × Byte)) :=
  (distinct (bs.map (·.1 / 4))).map fun w => bs.filter fun b => b.1 / 4 == w

/-- `ldsp` (R235): the reads are performed, the writes land as LDSP_FILL_LANDING. -/
def execLdsp (d a : Reg) (p : Perm) (l o : BitVec 4) (w : BitVec 1) (s : State) : Host.Outcome State Fault Refusal :=
  gate (.ldsp d a p l o w) s fun s =>
    let n := if w = 0 then 4 else 16
    let obj := s.blk.object o.toNat
    if s.active.isEmpty then .next s
    else if (objFI obj + 1 + 2 ^ 24 - objFL obj) % 2 ^ 24 > 65535 then .stall .object
    else
      let dest := fun (i : Nat) => (s.source d.toNat i).toNat
      let read := fun i =>
        match s.check s.me s.blk.asid (s.addr a p i) n .load s.inHandler, s.writeSpad i 0 [] (dest i) n with
        | .fault _ _ _ _ _, _ | _, .ok _ => s.readLane i (s.addr a p i) n .load false
        | _, .bad t dn => LaneRead.bad t dn
      let (oks, bads) := splitReads (s.active.map fun i => (i, read i))
      let bytes := oks.flatMap fun r => (numbered r.2.1).map fun (j, v) => (dest r.1 + j, v)
      let t := (s.fillTlbs (s.active.map (s.addr a p))).landReads d (fun _ => []) false true oks
      let t1 := if oks.isEmpty then t
        else { t with blk := { t.blk.setObject o.toNat (setBits obj 63 40 (objFI obj + 1)) with
                               fills := t.blk.fills ++ [⟨o.toNat, byWords bytes⟩] } }
      if s.readsWait false oks then .stall .fence
      else s.crossing (s.readsMiss (s.atHome false) oks) (s.endLanes t1 bads)

/-- Fills of the block that have landed counted, in the order of their issue (R315). -/
def Block.countFills (b : Block) : Nat → Block
  | 0 => b
  | fuel + 1 =>
    match b.fills.find? fun f => f.left.isEmpty && (b.fills.takeWhile fun g => g != f).all fun g => g.obj != f.obj with
    | none => b
    | some f =>
      let o := b.object f.obj
      Block.countFills { b.setObject f.obj (setBits o 39 16 (objFL o + 1)) with fills := b.fills.erase f } fuel

/-- The next word of fill `k` of the issuing block lands, unless writes to its line are held (R235, R325). Its last word in 128
bytes of scratchpad charges them (R351). -/
def State.landFill (s : State) (k : Nat) : State :=
  match s.blk.fills[k]? with
  | none => s
  | some f =>
    match f.left with
    | [] => { s with blk := s.blk.countFills s.blk.fills.length }
    | ws :: rest =>
      if ws.any fun w => s.lineHeld none true (w.1 / 64) then s
      else
      let last := fun (q : Nat) => !rest.any fun more => more.any fun w => w.1 / 128 == q
      let t := s.performSpad none ws
      let b := { t.blk with fills := t.blk.fills.set k { f with left := rest } }
      State.charge { t with blk := b.countFills b.fills.length } s.blk.asid (dieOf s.blk.core) 9
        ((distinct (ws.map (·.1 / 128))).filter last).length

/-- LDSP_FILL_LANDING (R235). -/
def execLdspFillLanding (core bslot k : Nat) (s : State) : Host.Outcome State Fault Refusal :=
  move (s.atBlock core bslot (·.landFill k))

/-- Does an address of the issuing core lie in a peer window (R365)? -/
def State.peerAt (s : State) (va : Nat) : Bool :=
  match s.translate s.me s.blk.asid va with
  | some (f, leaf) => !walkDenied leaf && 2 ^ 51 ≤ 4096 * f
  | none => false

/-- `pref` (R236): lines brought into the L1, without any effect that an agent observes; a denial by a firewall is counted
(R341), but that one through a peer window does nothing (R370). -/
def execPref (a : Reg) (p : Perm) (l : BitVec 4) (x : BitVec 1) (s : State) : Host.Outcome State Fault Refusal :=
  gate (.pref a p l x) s fun s =>
    if s.grp.region.isSome || x = 1 then .next s
    else
      let look := fun i => s.check s.me s.blk.asid (s.addr a p i) 1 .load s.inHandler
      let found := s.active.flatMap fun i => match look i with
        | .mem ps => if (ps.findSome? (s.unreadable s.blk.asid)).isNone then ps else []
        | _ => []
      s.crossing (s.missed false found) <|
      .next (s.active.foldl (fun (t : State) i =>
        match look i with
        | .fault _ fva _ true _ => if s.peerAt fva then t else t.noteDenial fva
        | _ => t) (((s.fillTlbs (s.active.map (s.addr a p))).recall (found.map (·.1 / 64))).fillL1 s.blk.asid s.blk.core
          (found.map fun at_ => (at_.1 / 64, at_.2))))

/-! ## The spill stack (R242) -/

/-- Top and bottom of the issuing group's spill range (R286). -/
def State.spillTop (s : State) : Nat :=
  64 * bits (s.blk.record.getD 0 0) 39 24 - 128 * bits (s.blk.record.getD 0 0) 23 8 * s.grp.idx
def State.spillBottom (s : State) : Nat := s.spillTop - 128 * bits (s.blk.record.getD 0 0) 23 8

/-- sp as an offset: the top of a scratchpad of 2 MiB lies one past what its bits hold (R34, R286). -/
def State.spAt (s : State) : Nat :=
  if s.grp.sp = 0 && s.spillTop = 2 ^ 21 then 2 ^ 21 else s.grp.sp.toNat

/-- `pushm` (R242). While writes to a line of its bytes are held it waits, so that sp and the bytes change together, or
neither (R136, R325; log entry 62). -/
def execPushm (d a : Reg) (l : BitVec 4) (s : State) : Host.Outcome State Fault Refusal :=
  gate (.pushm d a l) s fun s =>
    let n := a.toNat + 1 - d.toNat
    let sp := s.spAt
    if s.active.isEmpty then .next s
    else if sp < s.spillBottom + 128 * n || s.spillTop < sp then trapCode s tPROT
    else
      let t := sp - 128 * n
      if s.blk.computing t (128 * n) then trapCode s tBANKMODE
      else
        let hs := (List.range n).flatMap fun k => s.domLanes.flatMap fun i =>
          (numbered (bytesOfNat 4 (s.source (d.toNat + k) i).toNat)).map fun (j, v) =>
            (⟨true, t + 128 * k + 4 * i + j, v, i, 0, 0, 0, s.spl.pc, s.origin 0⟩ : HeldByte)
        if s.grp.region.isNone && s.spl.spec.isNone && hs.any (s.goesLater hs) then .stall .held
        else
        match s.storeOut hs with
        | none => .stall .fence
        | some u =>
          if u.overflowed then .abort u 3 0
          else .next { u with grp := { u.grp with sp := BitVec.ofNat 21 t } }

/-- `popm` (R242). An error that nothing corrects traps at the lowest lane that reads it (R380, R393). -/
def execPopm (d a : Reg) (l : BitVec 4) (s : State) : Host.Outcome State Fault Refusal :=
  gate (.popm d a l) s fun s =>
    let n := a.toNat + 1 - d.toNat
    let sp := s.spAt
    if s.active.isEmpty then .next s
    else if s.spillTop < sp + 128 * n || sp < s.spillBottom then trapCode s tPROT
    else if let some i := s.domLanes.find? fun i => (List.range n).any fun k => s.bankUpset (sp + 128 * k + 4 * i) 4 then
      .trap s { code := tECC, lane := i, str := 2 }
    else if s.spadWaits ((List.range n).flatMap fun k => s.domLanes.map fun i => sp + 128 * k + 4 * i) then .stall .held
    else
      let word := fun k i => BitVec.ofNat 32 (natOfBytes ((List.range 4).map fun j =>
        let o := sp + 128 * k + 4 * i + j
        (s.ownByte true o).getD (s.blk.byte o)))
      let places := (List.range n).flatMap fun k => s.domLanes.map fun i => sp + 128 * k + 4 * i
      let t := (List.range n).foldl (fun (t : State) k =>
        t.setLanes (d.toNat + k) (s.domLanes.map fun i => (i, word k i))) (s.noteRead true (places.map fun o => (o, 0)) false false)
      .next { t with grp := { t.grp with sp := BitVec.ofNat 21 (sp + 128 * n) } }

/-! ## Fences (R208, R209, R243) -/

/-- `fence` (R209, R243): the split goes on past it; FENCE_COMPLETE completes it. -/
def execFence (l : BitVec 4) (sc : BitVec 3) (s : State) : Host.Outcome State Fault Refusal :=
  gate (.fence l sc) s fun s =>
    let p := s.spl
    let f : Spec := { pc := p.pc, scope := sc.toNat, regs := s.grp.regs, em := p.em, gm := p.gm, windows := p.windows, buffer := []
                      monitored := [], stamp := s.tick, alone := !s.grp.isSplit
                      fl := p.windows.foldl (fun (f : BitVec 6) (w : Window) => f ||| w.flags) s.grp.fl
                      gs := s.grp.gs, sp := s.grp.sp }
    .next (s.setSpl { p with spec := some f })

/-- A split of the issuing group rolled back to its incomplete fence, which its core counts (R209). -/
def State.rollHere (s : State) (k : Nat) : State :=
  if (s.grp.splitAt k).spec.isNone then s
  else
    { s with
      grp := s.grp.rollback k
      cores := { s.cores with
        rollbacks := sset 0 s.cores.rollbacks s.blk.core (sget 0 s.cores.rollbacks s.blk.core + 1) } }

/-- FENCE_COMPLETE (R209): once every earlier write and contribution of the split has completed, L1 copies are made
current and the held stores issue in program order, with the generation they were translated under; those to scratchpad
lines whose writes are held wait for them as requests (R325), but behind a `pushm`, whose sp and bytes change together,
the fence waits instead. Where a bank has left STORAGE under a held store, the split goes back to the fence, and the
store is judged again and raises BANKMODE (R136). -/
def execFenceComplete (core slot spl : Nat) (s : State) : Host.Outcome State Fault Refusal :=
  move (s.atGroup core slot spl fun t =>
    match t.spl.spec with
    | none => t
    | some f =>
      if !t.quiet || (t.grp.sp != f.sp && f.buffer.any fun h => h.spad && t.lineHeld t.who true (h.addr / 64)) then t
      else
        let t1 := (t.acquire f.scope).setSpl { t.spl with spec := none, wait := none }
        let sp := f.buffer.filter (·.spad)
        if sp.any fun h => t.blk.computing h.addr 1 then t.rollHere spl
        else
          let t2 := t1.performHeld t1.who t1.blk.asid core (sp.filter fun h => !t1.goesLater sp h)
          { t2 with mem := { t2.mem with
            requests := t2.mem.requests ++ requestsOf t.blk.asid core slot spl
              (sp.filter (t1.goesLater sp) ++ f.buffer.filter (!·.spad)) } })

/-! ## Requests at their homes (R192, R199, R220) -/

/-- The bytes that a request covers. -/
def Request.length (r : Request) : Nat :=
  match r.red with
  | some d => d.bytes
  | none => r.data.foldl (fun n b => max n (b.1 + 1)) 0

/-- Do two requests belong to one instruction? -/
def Request.sameInstr (q r : Request) : Bool := q.sameSplit r && q.origin.stamp == r.origin.stamp

/-- The generators of lanes as they were before draws that have come to nothing (R89, R376). -/
def Group.undraw (g : Group) (r : Request) : Group :=
  (r.red.map (·.seeds)).getD [] |>.foldl (fun (g : Group) x => { g with gs := sset 0 g.gs x.1 x.2 }) g

/-- The flags of the accepted requests of an instruction, which one still under way carries (R97, R189). -/
def Request.earned (r : Request) : BitVec 6 := (r.red.map (·.earned)).getD 0

/-- The instruction of a request traps at the request's lane: its lanes that are still under way are not done, and set no
flag (R96, R186, R192). A handler's trap removes the context (R379). -/
def State.failRequest (s : State) (q : Request) (t : TrapInfo) : State :=
  let mine := s.mem.requests.filter (·.sameInstr q)
  let undone := (mine.map Request.lanes).foldl (· ||| ·) 0
  let s1 := { s with mem := { s.mem with requests := s.mem.requests.filter fun r => !r.sameInstr q } }
  if q.origin.handler then s1.remove q.asid 0x12
  else s1.updGroup q.core q.slot fun g0 =>
    let g := mine.foldl Group.undraw g0
    (g.lateFlags q.spl (mine.foldl (fun f (r : Request) => f ||| r.earned) 0)).pend q.spl { t with lane := q.lane, done := q.origin.mask &&& ~~~undone } q.pc q.origin.stamp false

/-- A held scratchpad store performed at its bank, by the mode that the bank has by then (R136, R325). -/
def State.landSpad (s : State) (k : Nat) (r : Request) : State :=
  s.atGroup r.core r.slot r.spl fun t =>
    if r.lines.any (t.lineHeld t.who true) then t
    else if t.blk.computing r.pa r.length then t.failRequest r { code := tBANKMODE }
    else
      ({ t with mem := { t.mem with requests := t.mem.requests.eraseIdx k } } : State).performSpad t.who
        (r.data.map fun (j, v) => (r.pa + j, v))

/-- The unit that issued a request: its core, or the hub for a completion record. -/
def Request.unit (r : Request) : Unit' := if r.core = 9999 then .hub else .core r.core

/-- Does the controller of its home in HBM take a request no more: its granule, its key slot or the die's HBM are not what they
were when it was checked (R341, R346, R405)? -/
def State.refusedAtHome (s : State) (r : Request) : Bool :=
  targetOf r.pa == .hbm && match exportOf r.cp with
    | some i => !s.exportPasses (s.exportWord i 0) r.pa .store
    | none => !s.passes r.asid r.unit r.pa .store

/-- Reduction `r`, at its home's reduction unit: accepted, its flags to join fl when the last request of its instruction is
(R97, R189). -/
def State.acceptRed (s : State) (r : Request) : State :=
  let t := { s with mem := { s.mem with reductions := s.mem.reductions ++ [r] } }
  let f := (r.red.map (·.flags)).getD 0 ||| r.earned
  match s.mem.requests.findIdx? (·.sameInstr r) with
  | some j => { t with mem := { t.mem with requests := t.mem.requests.modify j fun q =>
      { q with red := q.red.map fun d => { d with earned := d.earned ||| f } } } }
  | none => t.updGroup r.core r.slot fun g => g.lateFlags r.spl f

/-- Request `k` performed if its generation is current and no line of it is held, else rejected or left; a reduction is
accepted (R189, R192, R199). What one split has under way to one line keeps its order (R202). A request for which no port
remains, or whose port has gone DOWN, goes back too, to be translated again and to go another way or to fail (R371, R373), and
so does one that its home does not take any more (R341, R346). One whose link sleeps wakes it, and waits (R374). -/
def State.arriveHome (s : State) (k : Nat) : State :=
  match s.mem.requests[k]? with
  | none => s
  | some r =>
    let mine := fun (q : Request) => q.sameSplit r && r.lines.any (q.meetsLine r.spad)
    if r.rejected || (s.mem.requests.take k).any mine || (r.red.isNone && s.mem.reductions.any mine) then s
    else if r.spad then s.landSpad k r
    else if !s.fresh r.asid r.gen r.cp || !s.carried r.asid r.pa || r.port.isSome || s.refusedAtHome r then
      { s with mem := { s.mem with requests := s.mem.requests.set k ({ r with rejected := true }) } }
    else
      match s.asleep r.asid r.core r.pa with
      | some l => if s.linkST l = 3 then s.setLink l 4 else s
      | none =>
      if s.portWaits r.asid r.pa then s
      else
      let s1 := { s with mem := { s.mem with requests := s.mem.requests.eraseIdx k } }.sendFlit r.asid r.pa
      if r.red.isSome then s1.acceptRed r
      else if s.lineHeld (some (r.core, r.slot, r.spl)) false (r.pa / 64) then s
      else s1.perform (some (r.core, r.slot, r.spl)) r.asid r.core (r.data.map fun (j, v) => ((r.pa + j, r.cp), v))

/-- The energy of a request's way, charged to its context at its core's die (R350). -/
def State.chargeRequest (s : State) (r : Option Request) : State :=
  match r with
  | some r => s.chargeTraffic r.asid (dieOf r.core)
  | none => s

/-- HOME_ACCESS (R192, R199). -/
def execHomeAccess (k : Nat) (s : State) : Host.Outcome State Fault Refusal :=
  let t := s.arriveHome k
  move (t.chargeRequest (if t.mem.requests = s.mem.requests then none else s.mem.requests[k]?))

/-- A request checked again (R192), with the rights that its instruction had (R229). -/
def State.recheck (s : State) (r : Request) : Checked :=
  s.check r.unit r.asid r.va r.length (if r.red.isSome then .rmw else if r.origin.rmw then .release else .store) r.origin.handler

/-- What the trap of a request says (R186, R192, R380): the part of its access that failed, and for ECC the structure and
the port. -/
def Request.trapInfo (r : Request) (code str : Nat) : TrapInfo :=
  let part2 := r.va / 64 != r.origin.va / 64
  { code := code, part2 := part2, fva := BitVec.ofNat 64 (if part2 then r.va / 64 * 64 else r.origin.va)
    str := str % 256, port := if code = tECC then r.port.getD (str / 256) else 0 }

/-- Event QERR of a work queue to its function's ring (R283, R364). -/
def State.qerrVf (s : State) (vf asid q kind : Nat) (det1 : DWord) : State :=
  s.event vf 7 (s.tagOf asid) (BitVec.ofNat 64 (q + kind * 2 ^ 16)) det1

/-- Has the removal of a context come to a stage (R391)? -/
def State.removalAt (s : State) (asid stage : Nat) : Bool := s.mgmt.removing.any fun x => x.1 == asid && stage ≤ x.2.2

/-- A rejected request is translated again and reissued, or its instruction traps, named for the lowest of its lanes that
fails (R186, R192, R220). A completion record that can be written no more is dropped with QERR (R288). One of a context whose
removal has come to the load-store units is never performed (R391). -/
def State.replay (s : State) (k : Nat) : State :=
  match s.mem.requests[k]? with
  | none => s
  | some r =>
    if !r.rejected then s
    else if r.core != 9999 && s.removalAt r.asid 5 then
      { s with mem := { s.mem with requests := s.mem.requests.eraseIdx k } }
    else
      match s.recheck r with
      | .mem ps =>
        let r1 := { r with pa := (ps.headD (0, 0)).1, gen := s.gen r.asid, cp := (ps.headD (0, 0)).2, rejected := false,
                           port := none }
        { s with mem := { s.mem with requests := s.mem.requests.set k r1 } }
      | _ =>
        let fails := (s.mem.requests.filter (·.sameInstr r)).filterMap fun q => match s.recheck q with
          | .fault c fva _ dn str => some (q, c, fva, dn, str)
          | .spad _ => some (q, tPAGE, q.va, false, 0)
          | .mem _ => none
        match fails.find? fun x => fails.all fun y => x.1.lane ≤ y.1.lane with
        | none => s
        | some (q, code, fva, dn, str) =>
          let s1 := if dn then s.noteFault q.unit q.asid fva (if q.core = 9999 then 6 else 0) else s
          if r.core = 9999 then
            { s1 with mem := { s1.mem with requests := s1.mem.requests.eraseIdx k } }.qerrVf r.spl r.asid r.slot 3
              (BitVec.ofNat 64 r.va)
          else (s1.countRoute code str).failRequest q (q.trapInfo code str)

/-- REQUEST_REPLAY (R192, R220). -/
def execRequestReplay (k : Nat) (s : State) : Host.Outcome State Fault Refusal :=
  let t := s.replay k
  move (t.chargeRequest (if t.mem.requests = s.mem.requests then none else s.mem.requests[k]?))

/-! ## Bindings (R207, R244, R245) -/

/-- The region of a virtual address (R207). -/
def regionOf (va : Nat) : Nat := va / 4096

/-- `bind` (R244). -/
def execBind (d a : Reg) (p : Perm) (l : BitVec 4) (s : State) : Host.Outcome State Fault Refusal :=
  gate (.bind d a p l) s fun s =>
    let c := s.ctl
    let region := s.addr a p c
    let obj := (s.operand64 (a.toNat + 2) p c).toNat
    match s.check s.me s.blk.asid obj 8 .rmw s.inHandler with
    | .fault code fva p2 dn str =>
      .trap (if dn then s.noteDenial fva else s)
        { code := code, lane := c, fva := BitVec.ofNat 64 fva, part2 := p2, str := str % 256, port := str / 256 }
    | _ =>
      let asid := s.blk.asid
      match s.mem.bindings.find? fun b => b.1 == asid && b.2.1 == regionOf region with
      | some b => .next (s.setCtl d (if b.2.2 = obj then 0 else 2))
      | none =>
        if 4096 ≤ (s.mem.bindings.filter (·.1 == asid)).length then .next (s.setCtl d 1)
        else .next ({ s with mem := { s.mem with bindings := s.mem.bindings ++ [(asid, regionOf region, obj)] } }.setCtl d 0)

/-- `unbind` (R244). -/
def execUnbind (d a : Reg) (p : Perm) (l : BitVec 4) (s : State) : Host.Outcome State Fault Refusal :=
  gate (.unbind d a p l) s fun s =>
    let this := fun (b : Nat × Nat × Nat) => b.1 == s.blk.asid && b.2.1 == regionOf (s.addr a p s.ctl)
    if s.mem.bindings.any this then
      .next ({ s with mem := { s.mem with bindings := s.mem.bindings.filter fun b => !this b } }.setCtl d 0)
    else .next (s.setCtl d 3)

/-- A trap of a scalar access, whose lane is the control lane (R186, R229). -/
def scalarFault (s : State) (t : TrapInfo) (denied : Bool) : Res :=
  .trap (if denied then s.noteDenial t.fva.toNat else s) t

/-- `acq` (R245): the object is read at its home, after the split's own earlier writes to it (R202), then the acquire. It
orders the reads of every region, bound to the object or not: reads of another region R207 leaves ordered by the pair or
not (log entry 81). -/
def execAcq (d a : Reg) (p : Perm) (l : BitVec 4) (sc : BitVec 3) (s : State) : Host.Outcome State Fault Refusal :=
  gate (.acq d a p l sc) s fun s =>
    match s.readLane s.ctl (s.addr a p s.ctl) 8 .rmw true with
    | .bad t dn => scalarFault s t dn
    | .ok bs _ ps =>
      if s.mustWait true ps then .stall .fence
      else s.crossing (ps.map (·.1)) <|
        let t := s.noteRead false ps true false
        .next ((t.setPair d.toNat s.ctl (BitVec.ofNat 64 (natOfBytes bs))).acquire sc.toNat)

/-- `rel` (R245): once earlier writes have completed, of every region (R207; log entry 81), the object word is incremented
at its home. -/
def execRel (a : Reg) (p : Perm) (l : BitVec 4) (sc : BitVec 3) (s : State) : Host.Outcome State Fault Refusal :=
  gate (.rel a p l sc) s fun s =>
    if !s.quiet then .stall .fence
    else
      match s.readLane s.ctl (s.addr a p s.ctl) 8 .rmw true with
      | .bad t dn => scalarFault s t dn
      | .ok _ _ ps =>
        if ps.any fun at_ => s.lineHeld s.who false (at_.1 / 64) then .stall .held
        else s.crossing (ps.map (·.1)) <| .next (s.perform s.who s.blk.asid s.blk.core
          (ps.zip (bytesOfNat 8 (natOfBytes (ps.map (s.oldAt s.blk.asid)) + 1))))

/-! ## Cleaning and invalidating (R246, R247) -/

/-- The pages, by first address, that a range of bytes touches. -/
def pagesOf (va n : Nat) : List Nat :=
  if n = 0 then [] else (List.range ((va + n - 1) / 4096 + 1 - va / 4096)).map fun k => 4096 * (va / 4096 + k)

/-- The physical lines that a range of bytes touches within one page. -/
def linesIn (frame page va n : Nat) : List Nat :=
  let lo := max va page - page
  let hi := min (va + n) (page + 4096) - page
  (List.range ((hi + 63) / 64 - lo / 64)).map fun k => 64 * frame + lo / 64 + k

/-- A line written back to HBM: it stays valid and becomes clean (R246). -/
def State.writeBack (s : State) (lines : List Nat) : State :=
  s.clean lines.contains

/-- The frame at which the issuing core's accesses to a frame are performed (R370). -/
def State.placeFrame (s : State) (frame : Nat) : Nat :=
  match s.place s.blk.asid s.me (4096 * frame) .load 0 with
  | .at_ pa _ => pa / 4096
  | .gone _ _ _ => frame

/-- The pages of a `cln` one after another: those before a fault have been written back (R246). A fault names the control
lane, as that of the other scalar accesses does; R246 names none (log entry 80). -/
def cleanPages (va n : Nat) (s : State) : List Nat → Res
  | [] => .next s
  | page :: rest =>
    if aliasBase ≤ page && page < 2 ^ 57 then cleanPages va n s rest
    else
      let bad := fun (t : State) (code : Nat) =>
        Res.trap t { code := code, lane := s.ctl, fva := BitVec.ofNat 64 (max va page) }
      if 2 ^ 57 ≤ page then bad s tPAGE
      else
      match s.translate s.me s.blk.asid page with
      | none => bad s tPAGE
      | some (frame, leaf) =>
        let pa := 4096 * frame + max va page % 4096
        if walkDenied leaf then bad (s.noteDenial page) tPROT
        else if !(leaf.getLsbD 1 || leaf.getLsbD 2) || (leaf.getLsbD 4 && !s.inHandler) then bad s tPROT
        else if leafCP leaf != 1 && !s.passes s.blk.asid s.me pa .load && !s.passes s.blk.asid s.me pa .store then
          bad (s.noteDenial (max va page)) tPROT
        else
          let lines := if leafCP leaf = 1 then [] else linesIn (s.placeFrame frame) page va n
          cleanPages va n ((s.fillTlb s.me s.blk.asid page).writeBack lines) rest

/-- `cln` (R246). -/
def execCln (d a : Reg) (p : Perm) (l : BitVec 4) (s : State) : Host.Outcome State Fault Refusal :=
  gate (.cln d a p l) s fun s =>
    let va := s.addr a p s.ctl
    let n := (s.scalar d).toNat
    cleanPages va n s (pagesOf va n)

/-- The table entries that the walks of a range are denied, counted and reported (R341). -/
def State.noteWalks (s : State) (va n : Nat) : State :=
  (pagesOf va n).foldl (fun (t : State) page =>
    match (if aliasBase ≤ page then none else s.translate s.me s.blk.asid page) with
    | some (_, leaf) => if walkDenied leaf then t.noteDenial page else t
    | none => t) s

/-- The lines of a range whose pages translate (R247). -/
def State.rangeLines (s : State) (va n : Nat) : List Nat :=
  (pagesOf va n).flatMap fun page =>
    if aliasBase ≤ page then []
    else
      match s.translate s.me s.blk.asid page with
      | some (frame, leaf) => if walkDenied leaf then [] else linesIn (s.placeFrame frame) page va n
      | none => []

/-- `inv` (R247): `.d` 0, `.i` 1, `.id` 2. -/
def execInv (d a : Reg) (p : Perm) (l : BitVec 4) (x : BitVec 2) (s : State) : Host.Outcome State Fault Refusal :=
  gate (.inv d a p l x) s fun s =>
    if x.toNat != 0 && !s.quiet then .stall .fence
    else
      let ls := s.rangeLines (s.addr a p s.ctl) (s.scalar d).toNat
      let s0 := s.noteWalks (s.addr a p s.ctl) (s.scalar d).toNat
      let s1 := if x.toNat != 1 then s0.dropLines s.blk.core ls else s0
      .next (if x.toNat = 0 then s1
        else { s1 with mem := { s1.mem with l1i := s1.mem.l1i.filter fun c =>
          !(dieOf c.core == dieOf s.blk.core && ls.contains c.line) } })

end Sys2Proof.Machine
end

