-- ==== Sys2Proof/Machine/Atomic.lean ====
section
/-! DEFINITION. Load-acquire, store-release, reserved pairs, atomics and reductions with the moves that complete them:
opcodes 0xA0, 0xA1, 0xA2 to 0xB5 (10_ordering_memory_instructions.md R237-R241; 08_ordering_memory.md R188, R189;
14_progress_rules.md R333). -/

namespace Sys2Proof.Machine

/-- Bytes of a width code of the atomics (R226). -/
def wideBytes (w : BitVec 2) : Nat := if w.toNat = 1 then 8 else 4

/-- The register words of a value of `n` bytes. -/
def wordsOf (n v : Nat) : List Word := (List.range (n / 4)).map fun k => BitVec.ofNat 32 (v / 2 ^ (32 * k))

/-- The value of `n` bytes that a lane's registers from `r` hold. -/
def State.regValue (s : State) (r i n : Nat) : Nat :=
  natOfBytes ((List.range n).map fun j => (s.source (r + j / 4) i).extractLsb' (8 * (j % 4)) 8)

/-- The value at places, read at the home (R187, R200). -/
def State.homeValue (s : State) (places : List (Nat × Nat)) : Nat := natOfBytes (places.map (s.readAt s.blk.asid))

/-- The value at places from which an update at their home starts (R188, R427). -/
def State.oldValue (s : State) (places : List (Nat × Nat)) : Nat := natOfBytes (places.map (s.oldAt s.blk.asid))

/-- The line of the first of a lane's places. -/
def lineOf (places : List (Nat × Nat)) : Nat := (places.headD (0, 0)).1 / 64

/-- The lanes of an instruction that works at the home, read with a kind of check: places of those that pass, traps of
those that fault (R186, R229). -/
def State.homeLanes (s : State) (k : Kind) (a : Reg) (p : Perm) (n : Nat) :
    List (Nat × List (Nat × Nat)) × List (TrapInfo × Bool) :=
  let (oks, bads) := splitReads (s.active.map fun i => (i, s.readLane i (s.addr a p i) n k true))
  (oks.map fun r => (r.1, r.2.2.2), bads)

/-- A write of the issuing split performed at its home (R199). -/
def State.writeHome (s : State) (places : List (Nat × Nat)) (v : Nat) : State :=
  s.perform s.who s.blk.asid s.blk.core (places.zip (bytesOfNat places.length v))

/-- Are writes of the issuing split to any line of these places held (R325, R333)? -/
def State.anyHeld (s : State) (places : List (Nat × Nat)) : Bool :=
  places.any fun at_ => s.lineHeld s.who false (at_.1 / 64)

/-! ## Load-acquire and store-release (R237) -/

/-- `ldacq` (R237). -/
def execLdacq (d a : Reg) (p : Perm) (l : BitVec 4) (sc : BitVec 3) (w : BitVec 2) (s : State) :
    Host.Outcome State Fault Refusal :=
  gate (.ldacq d a p l sc w) s fun s =>
    let n := wideBytes w
    if s.active.isEmpty then .next s
    else
      match loadLanes d n (fun bs => wordsOf n (natOfBytes bs)) .acquire true false (s.addr a p) s with
      | .next t => .next (t.acquire sc.toNat)
      | r => r

/-- `strel` (R237): once earlier writes have completed, its lanes' writes are performed. -/
def execStrel (d a : Reg) (p : Perm) (l : BitVec 4) (sc : BitVec 3) (w : BitVec 2) (s : State) :
    Host.Outcome State Fault Refusal :=
  gate (.strel d a p l sc w) s fun s =>
    if s.active.isEmpty then .next s
    else if !s.quiet then .stall .fence
    else
      let n := wideBytes w
      let ws := s.active.map fun i => s.writeLane i (s.addr a p i) n .release (numbered (s.storeBytes d i n))
      (s.fillTlbs (s.active.map (s.addr a p))).endStores ws fun t => t

/-! ## Reserved pairs (R238, R239) -/

/-- Reservations of a granule whose protection has ended leave it when a later one comes (R334). -/
def Group.dropExpired (granule : Nat) (g : Group) : Group :=
  { g with lr := g.lr.filter fun r => r.2.granule != granule || r.2.isProtected }

/-- A lane's reservation set (R238). -/
def State.reserve (s : State) (i granule : Nat) : State :=
  let t := s.mapOthers fun _ g => g.dropExpired granule
  { t with grp := { t.grp with lr := sput i ⟨s.blk.asid, granule, s.tick, true⟩ (t.grp.dropExpired granule).lr } }

/-- A lane's reservation cleared. -/
def State.unreserve (s : State) (i : Nat) : State :=
  { s with grp := { s.grp with lr := s.grp.lr.filter fun r => r.1 != i } }

/-- `lr` (R238): its read comes after the split's own earlier accesses to the line (R202). -/
def execLr (d a : Reg) (p : Perm) (l : BitVec 4) (sc : BitVec 3) (w : BitVec 2) (s : State) :
    Host.Outcome State Fault Refusal :=
  gate (.lr d a p l sc w) s fun s =>
    let n := wideBytes w
    let (oks, bads) := s.homeLanes .rmw a p n
    if s.active.isEmpty then .next s
    else if oks.any fun r => s.ownOnLine false (lineOf r.2) then .stall .fence
    else s.crossing (oks.flatMap fun r => r.2.map (·.1)) <|
      let t := oks.foldl (fun (t : State) r =>
        ((t.setWords d.toNat r.1 (wordsOf n (s.homeValue r.2))).reserve r.1 (lineOf r.2)).noteRead false r.2 true false)
        (s.fillTlbs (s.active.map (s.addr a p)))
      match s.endLanes t bads with
      | .next u => .next (u.acquire sc.toNat)
      | r => r

/-- Does a lane's reservation let its `sc` to a granule succeed (R239, R333)? The protected reservation counts where the
lane's own is protected by it, or where it is that of another lane of the same `sc`, of which the lowest succeeds. -/
def State.scLive (s : State) (lanes : List (Nat × List (Nat × Nat))) (i granule : Nat) : Bool :=
  (s.grp.lr.any fun r => r.1 == i && r.2.asid == s.blk.asid && r.2.granule == granule) &&
    match s.protector granule with
    | some (c, sl, k, _) => (c, sl) == (s.blk.core, s.grp.slot) &&
        (k == i || lanes.any fun r => r.1 == k && lineOf r.2 == granule)
    | none => true

/-- One lane of an `sc` (R239). -/
def State.scLane (s : State) (d : Reg) (n : Nat) (lanes : List (Nat × List (Nat × Nat)))
    (r : Nat × List (Nat × Nat)) : State :=
  let live := s.scLive lanes r.1 (lineOf r.2)
  let t := if live then s.writeHome r.2 (s.regValue d.toNat r.1 n) else s
  (t.unreserve r.1).setWords d.toNat r.1 (wordsOf n (if live then 0 else 1))

/-- `sc` (R239). -/
def execSc (d a : Reg) (p : Perm) (l : BitVec 4) (sc : BitVec 3) (w : BitVec 2) (s : State) :
    Host.Outcome State Fault Refusal :=
  gate (.sc d a p l sc w) s fun s =>
    let n := wideBytes w
    let (oks, bads) := s.homeLanes .rmw a p n
    if s.active.isEmpty then .next s
    else if !s.quiet then .stall .fence
    else if oks.any fun r => s.scLive oks r.1 (lineOf r.2) && s.priorityHolds s.who false (lineOf r.2) then .stall .held
    else s.crossing (oks.flatMap fun r => r.2.map (·.1)) <|
      let t := oks.foldl (fun (t : State) r => t.scLane d n oks r) (s.fillTlbs (s.active.map (s.addr a p)))
      match s.endLanes t bads with
      | .next u => .next (u.acquire sc.toNat)
      | r => r

/-! ## Atomics (R188, R240) -/

/-- The issuing split with lanes of its instruction performed and the others to follow (R325, R383). -/
def State.partDone (s : State) (done : Word) : State :=
  let p := s.spl
  let rest := if (p.redo.head?.map (·.1)) == some p.pc then p.redo.drop 1 else p.redo
  s.setSpl { p with redo := (p.pc, done ||| s.doneBefore) :: rest
                    redoNpc := if p.redo.isEmpty then p.pc + 4 else p.redoNpc }

/-- The lanes of an atomic performed in ascending order: `f` gives the new value from the old one and the lane (R188,
R240). Lanes whose line is held wait, and the others do not wait for them (R325; log entry 62). -/
def atomicLanes (d a : Reg) (p : Perm) (sc : BitVec 3) (w : BitVec 2) (f : Nat → Nat → State → State × Nat) (s : State) :
    Res :=
  let n := wideBytes w
  let (oks, bads) := s.homeLanes .rmw a p n
  let free := oks.filter fun r => !s.anyHeld r.2
  if s.active.isEmpty then .next s
  else if !s.quiet then .stall .fence
  else if free.isEmpty && !oks.isEmpty then .stall .held
  else s.crossing (free.flatMap fun r => r.2.map (·.1)) <|
    let t := free.foldl (fun (t : State) r =>
      let (u, new) := f r.1 (t.oldValue r.2) t
      (u.writeHome r.2 new).setWords d.toNat r.1 (wordsOf n (t.homeValue r.2))) (s.fillTlbs (s.active.map (s.addr a p)))
    if free.length < oks.length then .hold (t.partDone (maskOfLanes (free.map (·.1)))) .held
    else
      match s.endLanes t bads with
      | .next u => .next (u.acquire sc.toNat)
      | r => r

/-- A value of `n` bytes as a number of the signedness that gm names (R240). -/
def wideInt (gm : DWord) (n v : Nat) : Int :=
  if isNat gm || v < 2 ^ (8 * n - 1) then v else (v : Int) - 2 ^ (8 * n)

/-- The operations of R240 and R241 on values of `n` bytes, 0 add, 1 min, 2 max, 3 and, 4 or, 5 xor. -/
def combineWords (gm : DWord) (op n m v : Nat) : Nat :=
  match op with
  | 0 => (m + v) % 2 ^ (8 * n)
  | 1 => if wideInt gm n v < wideInt gm n m then v else m
  | 2 => if wideInt gm n m < wideInt gm n v then v else m
  | 3 => m &&& v
  | 4 => m ||| v
  | _ => m ^^^ v

/-- An atomic whose new value needs the old one and the lane's value in d only. -/
def atomicOp (d a : Reg) (p : Perm) (sc : BitVec 3) (w : BitVec 2) (f : Nat → Nat → Nat → Nat) (s : State) : Res :=
  atomicLanes d a p sc w (fun i m t => (t, f (wideBytes w) m (s.regValue d.toNat i (wideBytes w)))) s

/-- `atom.add` (R240). -/
def execAtomAdd (d a : Reg) (p : Perm) (l : BitVec 4) (sc : BitVec 3) (w : BitVec 2) (s : State) :
    Host.Outcome State Fault Refusal :=
  gate (.atomAdd d a p l sc w) s fun s => atomicOp d a p sc w (combineWords s.spl.gm 0) s

/-- `atom.sub` (R240). -/
def execAtomSub (d a : Reg) (p : Perm) (l : BitVec 4) (sc : BitVec 3) (w : BitVec 2) (s : State) :
    Host.Outcome State Fault Refusal :=
  gate (.atomSub d a p l sc w) s (atomicOp d a p sc w fun n m v => (m + (2 ^ (8 * n) - v)) % 2 ^ (8 * n))

/-- `atom.min` (R240). -/
def execAtomMin (d a : Reg) (p : Perm) (l : BitVec 4) (sc : BitVec 3) (w : BitVec 2) (s : State) :
    Host.Outcome State Fault Refusal :=
  gate (.atomMin d a p l sc w) s fun s => atomicOp d a p sc w (combineWords s.spl.gm 1) s

/-- `atom.max` (R240). -/
def execAtomMax (d a : Reg) (p : Perm) (l : BitVec 4) (sc : BitVec 3) (w : BitVec 2) (s : State) :
    Host.Outcome State Fault Refusal :=
  gate (.atomMax d a p l sc w) s fun s => atomicOp d a p sc w (combineWords s.spl.gm 2) s

/-- `atom.and` (R240). -/
def execAtomAnd (d a : Reg) (p : Perm) (l : BitVec 4) (sc : BitVec 3) (w : BitVec 2) (s : State) :
    Host.Outcome State Fault Refusal :=
  gate (.atomAnd d a p l sc w) s fun s => atomicOp d a p sc w (combineWords s.spl.gm 3) s

/-- `atom.or` (R240). -/
def execAtomOr (d a : Reg) (p : Perm) (l : BitVec 4) (sc : BitVec 3) (w : BitVec 2) (s : State) :
    Host.Outcome State Fault Refusal :=
  gate (.atomOr d a p l sc w) s fun s => atomicOp d a p sc w (combineWords s.spl.gm 4) s

/-- `atom.xor` (R240). -/
def execAtomXor (d a : Reg) (p : Perm) (l : BitVec 4) (sc : BitVec 3) (w : BitVec 2) (s : State) :
    Host.Outcome State Fault Refusal :=
  gate (.atomXor d a p l sc w) s fun s => atomicOp d a p sc w (combineWords s.spl.gm 5) s

/-- `atom.xchg` (R240). -/
def execAtomXchg (d a : Reg) (p : Perm) (l : BitVec 4) (sc : BitVec 3) (w : BitVec 2) (s : State) :
    Host.Outcome State Fault Refusal :=
  gate (.atomXchg d a p l sc w) s (atomicOp d a p sc w fun _ _ v => v)

/-- `atom.cas` (R240): compare value first, new value in the registers after it. -/
def execAtomCas (d a : Reg) (p : Perm) (l : BitVec 4) (sc : BitVec 3) (w : BitVec 2) (s : State) :
    Host.Outcome State Fault Refusal :=
  gate (.atomCas d a p l sc w) s fun s =>
    let n := wideBytes w
    atomicLanes d a p sc w (fun i m t =>
      (t, if m = s.regValue d.toNat i n then s.regValue (d.toNat + n / 4) i n else m)) s

/-- `atom.winc` (R240). -/
def execAtomWinc (d a : Reg) (p : Perm) (l : BitVec 4) (sc : BitVec 3) (w : BitVec 2) (s : State) :
    Host.Outcome State Fault Refusal :=
  gate (.atomWinc d a p l sc w) s
    (atomicOp d a p sc w fun n m v => if v = 0 then (m + 1) % 2 ^ (8 * n) else (m + 1) % v)

/-- `atom.fadd` (R240): SAT is ignored. -/
def execAtomFadd (d a : Reg) (p : Perm) (l : BitVec 4) (sc : BitVec 3) (w : BitVec 2) (s : State) :
    Host.Outcome State Fault Refusal :=
  gate (.atomFadd d a p l sc w) s fun s =>
    let T := gmT s.spl.gm
    let gm := setBits s.spl.gm 22 22 0
    atomicLanes d a p sc w (fun i m t =>
      let (z, f) := sumOf (gmRM gm) (decodeVal T m) (decodeVal T (s.regValue d.toNat i (wideBytes w)))
      (t.raise i f).roundIn gm z T i) s

/-! ## Reductions (R189, R241) -/

/-- The lanes of a `red` by location, lowest lane first, with the location's places (R189). A location is a place of
memory, by whatever policy a lane reaches it. -/
def byLocation (oks : List (Nat × List (Nat × Nat))) : List (List (Nat × Nat) × List Nat) :=
  let pa := fun (r : Nat × List (Nat × Nat)) => (r.2.headD (0, 0)).1
  (distinct (oks.map pa)).map fun a =>
    let mine := oks.filter fun r => pa r == a
    ((mine.head?.map (·.2)).getD [], mine.map (·.1))

/-- A combined request of lanes sent to its home, with its lowest lane as the one that faults (R189, R192). -/
def State.contribute (s : State) (op n lane va : Nat) (of : List Nat) (places : List (Nat × Nat)) (v : Nat)
    (f : BitVec 6) (seeds : List (Nat × DWord)) : State :=
  let gm := s.spl.gm
  let (pa, cp) := places.headD (0, 0)
  let gen := s.gen s.blk.asid
  let d : Reduction := ⟨op, n, BitVec.ofNat 64 v, gmTA gm, gmRM gm, maskOfLanes of, f, 0, seeds⟩
  { s with
    mem := { s.mem with requests := s.mem.requests ++
      [⟨s.blk.asid, gen, va, pa, [], s.blk.core, s.grp.slot, s.cur, s.spl.pc, lane, cp, false, s.origin va, some d, false,
        none⟩] } }

/-- A `red` of values: the lanes of each location are combined in the group (R189, R241). -/
def redOp (op : Nat) (d a : Reg) (p : Perm) (w : BitVec 2) (s : State) : Res :=
  let n := wideBytes w
  let (oks, bads) := s.homeLanes .rmw a p n
  let t := (byLocation oks).foldl (fun (t : State) loc =>
    match loc.2 with
    | [] => t
    | low :: more =>
      let v := more.foldl (fun v i => combineWords s.spl.gm op n v (s.regValue d.toNat i n)) (s.regValue d.toNat low n)
      t.contribute op n low (s.addr a p low) loc.2 loc.1 v 0 [])
    (s.fillTlbs (s.active.map (s.addr a p)))
  s.endLanes t bads

/-- `red.add` (R241). -/
def execRedAdd (d a : Reg) (p : Perm) (l : BitVec 4) (w : BitVec 2) (s : State) : Host.Outcome State Fault Refusal :=
  gate (.redAdd d a p l w) s (redOp 0 d a p w)

/-- `red.min` (R241). -/
def execRedMin (d a : Reg) (p : Perm) (l : BitVec 4) (w : BitVec 2) (s : State) : Host.Outcome State Fault Refusal :=
  gate (.redMin d a p l w) s (redOp 1 d a p w)

/-- `red.max` (R241). -/
def execRedMax (d a : Reg) (p : Perm) (l : BitVec 4) (w : BitVec 2) (s : State) : Host.Outcome State Fault Refusal :=
  gate (.redMax d a p l w) s (redOp 2 d a p w)

/-- `red.and` (R241). -/
def execRedAnd (d a : Reg) (p : Perm) (l : BitVec 4) (w : BitVec 2) (s : State) : Host.Outcome State Fault Refusal :=
  gate (.redAnd d a p l w) s (redOp 3 d a p w)

/-- `red.or` (R241). -/
def execRedOr (d a : Reg) (p : Perm) (l : BitVec 4) (w : BitVec 2) (s : State) : Host.Outcome State Fault Refusal :=
  gate (.redOr d a p l w) s (redOp 4 d a p w)

/-- `red.xor` (R241). -/
def execRedXor (d a : Reg) (p : Perm) (l : BitVec 4) (w : BitVec 2) (s : State) : Host.Outcome State Fault Refusal :=
  gate (.redXor d a p l w) s (redOp 5 d a p w)

/-- `red.fadd` (R189, R241): every performed lane draws under SR; the sum of a location's lanes is rounded once with
the draw of its lowest lane, whose flags are set once the instruction completes (R97). -/
def execRedFadd (d a : Reg) (p : Perm) (l : BitVec 4) (w : BitVec 2) (s : State) : Host.Outcome State Fault Refusal :=
  gate (.redFadd d a p l w) s fun s =>
    let n := wideBytes w
    let T := gmT s.spl.gm
    let rm := gmRM s.spl.gm
    let (oks, bads) := s.homeLanes .rmw a p n
    let (t0, draws) := State.eachLane (fun i t => t.drawSR rm i) (oks.map (·.1)) (s.fillTlbs (s.active.map (s.addr a p)))
    let t := (byLocation oks).foldl (fun (t : State) loc =>
      let low := loc.2.headD 0
      let vs := loc.2.map fun i => decodeVal T (s.regValue d.toNat i n)
      let (z, bad) := sumVals rm vs
      let (c, f) := roundTo rm false (sget 0 draws low) z T
      t.contribute 6 n low (s.addr a p low) loc.2 loc.1 c (ivIf (bad || vs.any Val.isSig) ||| f)
        (if rm = 5 then loc.2.map fun i => (i, sget 0 s.grp.gs i) else [])) t0
    s.endLanes t bads

/-- The value that a contribution leaves at its location (R189): a `red.fadd` is rounded with the RM it carries, SR as
RNE, and sets no flag. -/
def Reduction.apply (r : Reduction) (m : Nat) : Nat :=
  if r.op = 6 then
    let T := fmtD r.ta
    let rm := if r.rm = 5 then 0 else r.rm
    (roundTo rm false 0 (addVal rm (decodeVal T m) (decodeVal T r.value.toNat)).1 T).1
  else combineWords (BitVec.ofNat 64 (r.ta * 2 ^ 9)) r.op r.bytes m r.value.toNat

/-- Contribution `k` as one indivisible update at its home, unless its line is held: by a priority region, to which the
reduction unit is another agent, or by a reservation of another split (R189, R325, R333). One of an old generation goes
back rejected (R192), as one does that its home does not take any more (R341, R346), or is over where its context's
removal takes no replay (R391). What its split has put back before it comes first (R202). -/
def State.applyRed (s : State) (k : Nat) : State :=
  match s.mem.reductions[k]? with
  | none => s
  | some r =>
    let earlier := ((s.mem.reductions.take k).any fun q => q.sameSplit r && q.pa / 64 == r.pa / 64) ||
      s.mem.requests.any fun q => q.sameSplit r && q.meetsLine false (r.pa / 64) && q.origin.stamp < r.origin.stamp
    let s1 := { s with mem := { s.mem with reductions := s.mem.reductions.eraseIdx k } }
    if !s.fresh r.asid r.gen r.cp || !s.carried r.asid r.pa || s.refusedAtHome r then
      if s.removalAt r.asid 5 then s1 else
      { s1 with mem := { s1.mem with requests := insertRequest { r with rejected := true } s1.mem.requests } }
    else if earlier || s.priorityHolds none false (r.pa / 64) || s.protectedFrom (some (r.core, r.slot, r.spl)) (r.pa / 64) then s
    else
      match r.red with
      | none => s1
      | some d =>
        let places := (List.range d.bytes).map fun j => (r.pa + j, r.cp)
        let m := natOfBytes (places.map (s.oldAt r.asid))
        s1.perform none r.asid r.core (places.zip (bytesOfNat d.bytes (d.apply m)))

/-- RED_APPLY (R189), charged as a request at the home (R351). -/
def execRedApply (k : Nat) (s : State) : Host.Outcome State Fault Refusal :=
  let t := s.applyRed k
  match s.mem.reductions[k]? with
  | some r => if t.mem.reductions = s.mem.reductions then move t
      else move ((t.chargeRequest (some r)).charge r.asid (dieOf r.core) 13 1)
  | none => move t

/-! ## The end of a hold (R325, R333) -/

/-- The moves held at homes come next, in the order in which they came (R325, R333). -/
def State.releaseHeld (s : State) : State :=
  { s with agenda := s.agenda ++ s.mem.held.map (·.2), mem := { s.mem with held := [] } }

/-- RESERVATION_PROTECTION_EXPIRY (R333): the oldest reservation of a granule is protected no longer; it ends where
another stands behind it (R334). What was held is performed as the step ends (`State.endHolds`). -/
def execReservationProtectionExpiry (granule : Nat) (s : State) : Host.Outcome State Fault Refusal :=
  match s.protector granule with
  | none => move s
  | some (c, sl, i, _) =>
    let only := (s.holders granule).length ≤ 1
    let bare := fun (r : Nat × LrRes) => if r.1 = i then (r.1, { r.2 with isProtected := false }) else r
    move (s.updGroup c sl fun g => { g with lr := if only then g.lr.map bare else g.lr.filter (·.1 != i) })

/-- PRIORITY_HOLD_EXPIRY (R325): a priority region holds the writes of others no longer; the first of them that is
performed aborts it with CONFLICT. -/
def execPriorityHoldExpiry (core slot : Nat) (s : State) : Host.Outcome State Fault Refusal :=
  move (s.updGroup core slot fun g =>
    { g with region := g.region.map fun r => { r with holding := false } }).releaseHeld

end Sys2Proof.Machine
end

