-- ==== Sys2Proof/Machine/Sync.lean ====
section
/-! DEFINITION. Barriers, barrier objects and try regions: opcodes 0xE5 to 0xF1
(13_progress_control_instructions.md R314-R316, R318-R325; 09_ordering_consistency.md R215-R219). -/

namespace Sys2Proof.Machine

/-! ## Barriers (R314) -/

/-- The group arrives in the current phase of a barrier (R314). -/
def State.arrive (s : State) (k : Nat) : State :=
  ({ s with grp := { s.grp with arrived := sset 0 s.grp.arrived k (s.blk.phase k + 1) } }).tryBarrier k

/-- Has the group arrived in a phase that has not completed? -/
def State.arrivedNow (s : State) (k : Nat) : Bool := s.blk.phase k < sget 0 s.grp.arrived k

/-- `bar.arr` (R314): a release at block scope (R215). -/
def execBarArr (b : BitVec 4) (s : State) : Host.Outcome State Fault Refusal :=
  gate (.barArr b) s fun s =>
    if s.grp.isSplit then trapCode s tICONV
    else if !s.quiet then .stall .fence
    else if s.arrivedNow b.toNat then .stall .arrive
    else .next (s.arrive b.toNat)

/-- `bar.wt` (R314). -/
def execBarWt (b : BitVec 4) (s : State) : Host.Outcome State Fault Refusal :=
  gate (.barWt b) s fun s =>
    if s.grp.isSplit then trapCode s tICONV
    else if s.arrivedNow b.toNat then .stall (.barrier b.toNat)
    else .next s

/-- Does the issuing split wait at a barrier in which it has arrived? -/
def State.atBarrier (s : State) (k : Nat) : Bool :=
  match s.spl.wait with
  | some (.barrier j, _) => j == k
  | _ => false

/-- Arrives and waits, an acquire at a scope following: its address stays in pc between the two (R314). -/
def barrierOp (k scope : Nat) (s : State) : Res :=
  if s.grp.isSplit then trapCode s tICONV
  else if s.atBarrier k then (if s.arrivedNow k then .stall (.barrier k) else .next (s.acquire scope))
  else if !s.quiet then .stall .fence
  else if s.arrivedNow k then .stall .arrive
  else
    let t := s.arrive k
    if t.arrivedNow k then .hold t (.barrier k) else .next (t.acquire scope)

/-- `bar` (R314): block scope (R215). -/
def execBar (b : BitVec 4) (s : State) : Host.Outcome State Fault Refusal := gate (.bar b) s (barrierOp b.toNat 1)

/-- `spanbar` (R314): die scope (R215). -/
def execSpanbar (s : State) : Host.Outcome State Fault Refusal := gate .spanbar s (barrierOp 16 2)

/-! ## Barrier objects (R315, R316) -/

/-- `Reached24` and `Reached16` (R315). -/
def reached24 (x t : Nat) : Bool := (x + 2 ^ 24 - t) % 2 ^ 24 < 2 ^ 23
def reached16 (x t : Nat) : Bool := (x + 2 ^ 16 - t) % 2 ^ 16 < 2 ^ 15

/-- A split that waits for marks which an object has reached now waits for the fills that it has counted by then
(R316). -/
def Split.sample (b : Block) (o : Nat) (p : Split) : Split :=
  match p.wait with
  | some (.marks j t, at_) =>
    if j = o && reached16 (objMK (b.object o)) t then { p with wait := some (.fills o (objFI (b.object o)), at_) } else p
  | _ => p

/-- A group after the marks of an object of its block have changed (R316). -/
def Group.sample (b : Block) (o : Nat) (g : Group) : Group :=
  { g with splits := g.splits.map fun x => (x.1, x.2.sample b o) }

/-- The block's waiting splits after the marks of an object have changed (R316). -/
def State.sampleFills (s : State) (o : Nat) : State :=
  { s with grp := s.grp.sample s.blk o, blk := s.blk.mapGroups (Group.sample s.blk o) }

/-- `bo.init` (R316). -/
def execBoInit (d a : Reg) (p : Perm) (l o : BitVec 4) (s : State) : Host.Outcome State Fault Refusal :=
  gate (.boInit d a p l o) s fun s =>
    let e := s.operand a.toNat p s.ctl
    let obj := s.blk.object o.toNat
    if bits e 31 16 != 0 then trapCode s tICONV
    else if objFL obj != objFI obj then .stall .object
    else .next (({ s with blk := s.blk.setObject o.toNat (setBits obj 15 0 e.toNat) }.sampleFills o.toNat).setCtl d
      (BitVec.ofNat 32 (objMK obj)))

/-- `bo.arr` (R316). -/
def execBoArr (d : Reg) (l o : BitVec 4) (s : State) : Host.Outcome State Fault Refusal :=
  gate (.boArr d l o) s fun s =>
    let obj := s.blk.object o.toNat
    let mk := (objMK obj + 1) % 2 ^ 16
    .next (({ s with blk := s.blk.setObject o.toNat (setBits obj 15 0 mk) }.sampleFills o.toNat).setCtl d (BitVec.ofNat 32 mk))

/-- The count of fills that a `bo.wt` has sampled, if it has (R316). -/
def State.sampled (s : State) (o : Nat) : Option Nat :=
  match s.spl.wait with
  | some (.fills j w, _) => if j = o then some w else none
  | _ => none

/-- `bo.wt` (R316): first the marks, then the fills sampled when they are reached. -/
def execBoWt (d a : Reg) (p : Perm) (l o : BitVec 4) (s : State) : Host.Outcome State Fault Refusal :=
  gate (.boWt d a p l o) s fun s =>
    let t := s.operand a.toNat p s.ctl
    let obj := s.blk.object o.toNat
    let fl := objFL obj
    let done := s.setCtl d (BitVec.ofNat 32 fl)
    match s.sampled o.toNat with
    | some w => if reached24 fl w then .next done else .stall (.fills o.toNat w)
    | none =>
      if bits t 31 16 != 0 then trapCode s tICONV
      else if !reached16 (objMK obj) (bits t 15 0) then .stall (.marks o.toNat (bits t 15 0))
      else if reached24 fl (objFI obj) then .next done
      else .hold s (.fills o.toNat (objFI obj))

/-! ## Try regions (R318-R325) -/

/-- The try slots of a core that hold a region (R318). -/
def State.slotsUsed (s : State) (core : Nat) : List Nat :=
  s.allGroups.filterMap fun bg => if bg.1.core = core then bg.2.region.map (·.slot) else none

/-- Does a region of the issuing core's die hold priority (R320)? -/
def State.priorityTaken (s : State) : Bool :=
  s.allGroups.any fun bg => dieOf bg.1.core == dieOf s.blk.core && bg.2.region.isSome && bg.2.ts.getLsbD 13

/-- ts with another CODE (R320). -/
def State.setTryCode (s : State) (code : Nat) : State :=
  { s with grp := { s.grp with ts := setBits s.grp.ts 3 0 code } }

/-- A try that opens no region (R320). -/
def noRegion (c : Reg) (o : BitVec 18) (code : Nat) (s : State) : Res :=
  branchTo o ((s.setCtl c (BitVec.ofNat 32 code)).setTryCode code)

/-- A region opened in a free slot: the checkpoint is the state before it (R320). -/
def State.openRegion (s : State) (c : Reg) (h : Addr) (perLane : Bool) (slot : Nat) : State :=
  let pri := tsCC s.grp.ts == 8 && !s.priorityTaken
  let p := s.spl
  let ts1 := setBits (setBits (setBits s.grp.ts 19 18 slot) 12 12 1) 13 13 (if pri then 1 else 0)
  { s with
    grp := { s.grp with
      ts := ts1
      region := some ⟨slot, perLane, h, s.ctl, c, s.grp.regs, p.em, p.gm, s.grp.sp, s.grp.gs, [], [], 0, [], none, pri⟩ } }

/-- `try` and `tryl` (R320). -/
def openTry (perLane : Bool) (c : Reg) (o : BitVec 18) (s : State) : Res :=
  let t := branchTarget s.spl.pc o
  if s.grp.region.isSome then .abort s 7 0
  else if !targetOk t then badTarget s t
  else if s.grp.isSplit then noRegion c o 7 s
  else
    match (List.range 4).find? fun k => !(s.slotsUsed s.blk.core).contains k with
    | none => noRegion c o 6 s
    | some k => .next (s.openRegion c (BitVec.ofInt 57 t) perLane k)

/-- `try` (R320). -/
def execTryOpen (c : Reg) (o : BitVec 18) (s : State) : Host.Outcome State Fault Refusal :=
  gate (.tryOpen c o) s (openTry false c o)

/-- `tryl` (R320). -/
def execTrylOpen (c : Reg) (o : BitVec 18) (s : State) : Host.Outcome State Fault Refusal :=
  gate (.trylOpen c o) s (openTry true c o)

/-- The registers of a group with those of failed lanes back at the checkpoint (R323). -/
def restoreLanes (now saved : Sparse Word) (failed : Word) : Sparse Word :=
  (List.range 64).foldl (fun m r => (lanesOf failed).foldl (fun m i =>
    sset 0 m (32 * r + i) (sget 0 saved (32 * r + i))) m) now

/-- The group after the commit of its region: failed lanes restored, flags of the others in fl, ts (R97, R322, R323). -/
def Group.commit (g : Group) (r : Region) : Group :=
  let fl := (lanes.filter fun i => !r.failed.getLsbD i).foldl (fun f i => f ||| sget 0 r.flags i) g.fl
  { g with
    regs := restoreLanes g.regs r.regs r.failed
    gs := (lanesOf r.failed).foldl (fun m i => sset 0 m i (sget 0 r.gs i)) g.gs
    fl := fl
    ts := setBits (setBits (setBits g.ts 12 12 0) 13 13 0) 17 14 0
    region := none }

/-- `commit` (R217, R219, R322): em keeps its value without the failed lanes (R323), and at one instant every buffered
write of the committing lanes is performed. A bank that has left STORAGE under a buffered store makes that store a fault of
the region (R136, R319). -/
def execCommit (d : Reg) (s : State) : Host.Outcome State Fault Refusal :=
  gate (.commit d) s fun s =>
    match s.grp.region with
    | none => trapCode s tICONV
    | some r =>
      let hs := r.buffer.filter fun h => !r.failed.getLsbD h.lane
      if r.buffer.any fun h => !h.spad && !s.fresh s.blk.asid h.gen h.cp then .abort s 2 0
      else if !s.quiet then .stall .fence
      else if (heldLines hs).any fun (sp, l) => s.lineHeld s.who sp l then .stall .held
      else if hs.any fun h => h.spad && s.blk.computing h.addr 1 then .abort s 4 tBANKMODE
      else
        s.crossing ((hs.filter (!·.spad)).map (·.addr)) <|
        let t := ({ s with grp := s.grp.commit r } : State).setSpl { s.spl with em := s.spl.em &&& ~~~r.failed }
        .next ((t.performHeld t.who t.blk.asid t.blk.core hs).setCtl d r.failed)

/-- `abort` (R324). -/
def execAbort (e : BitVec 8) (s : State) : Host.Outcome State Fault Refusal :=
  gate (.abort e) s fun s => if s.grp.region.isSome then .abort s 1 e.toNat else trapCode s tICONV

/-- `tabl` (R323, R324). -/
def execTabl (a : Reg) (p : Perm) (s : State) : Host.Outcome State Fault Refusal :=
  gate (.tabl a p) s fun s =>
    match s.grp.region with
    | none => trapCode s tICONV
    | some r =>
      let g := maskOfLanes (s.active.filter fun i => s.operand a.toNat p i != 0)
      if g = 0 then .next s
      else if !r.perLane || g.getLsbD s.ctl then .abort s 9 0
      else .next (s.failLanes g)

/-- `tstat` (R324). -/
def execTstat (d : Reg) (s : State) : Host.Outcome State Fault Refusal :=
  gate (.tstat d) s fun s => .next (s.setCtl d s.grp.ts)

/-- TRY_ABORT (R321): a region to which another agent gave the cause is rolled back at the group's next instruction
boundary. -/
def execTryAbort (core slot : Nat) (s : State) : Host.Outcome State Fault Refusal :=
  move (s.updGroup core slot fun g =>
    match g.region with
    | some r => (match r.doomed with
      | some code => g.abort code 0
      | none => g)
    | none => g)

end Sys2Proof.Machine
end

