-- ==== Sys2Proof/Machine/Matrix.lean ====
section
/-! DEFINITION. Banks that compute: reservations, bank modes, accumulators, `mma`, `mmas` and `desc` with the moves that
complete them: opcodes 0xC0 to 0xCA (06_results_banks.md R134-R159, 07_results_matrix_instructions.md R160-R180). -/

namespace Sys2Proof.Machine

/-! ## Types and geometry (R140, R141, R163) -/

/-- Element width, passes P and bytes Wb of a matrix type (R163). -/
def matType (t : Nat) : Option (Nat × Nat × Nat) :=
  if t = 10 || t = 6 || t = 20 then some (4, 4, 1)
  else if t = 4 || t = 5 || t = 7 || t = 8 || t = 9 || t = 11 || t = 14 then some (8, 8, 1)
  else if t = 3 then some (16, 8, 1)
  else if t = 2 then some (16, 12, 2)
  else if t = 12 || t = 15 then some (16, 16, 2)
  else if t = 0 then some (32, 24, 3)
  else if t = 1 then some (64, 56, 7)
  else if t = 17 then some (64, 48, 6)
  else if t = 18 then some (128, 112, 14)
  else none

/-- The FP class (R163). -/
def isFpClass (t : Nat) : Bool := t = 0 || t = 1 || t = 17 || t = 18
/-- The complex types. -/
def isComplex (t : Nat) : Bool := t = 17 || t = 18

def Resv.width (r : Resv) : Nat := ((matType r.ta).getD (8, 8, 1)).1
def Resv.passes (r : Resv) : Nat := ((matType r.ta).getD (8, 8, 1)).2.1
def Resv.wb (r : Resv) : Nat := ((matType r.tb).getD (8, 8, 1)).2.2
/-- K elements of a K-block, S row slots, G column groups, L elements of a block (R139, R140). -/
def Resv.K (r : Resv) : Nat := 512 / r.width
def Resv.S (r : Resv) : Nat := 128 / r.K
def Resv.G (r : Resv) : Nat := (r.ncol * r.wb + 16 * r.count - 1) / (16 * r.count)
def Resv.L (r : Resv) : Nat := 16 * 2 ^ r.blen
/-- Lines of one accumulator row (R145) and the row capacity (R140, R163). -/
def Resv.rowLines (r : Resv) : Nat := if r.ta = 18 then (r.ncol + 15) / 16 else (r.ncol + 31) / 32
def Resv.mcap (r : Resv) : Nat := (r.accl + 1) / r.rowLines

/-- Scratchpad offset of byte `e` of row `k` of K-block `j` (R141). -/
def Resv.place (r : Resv) (j k e : Nat) : Nat :=
  let q := e / 16
  32768 * (r.first + q % r.count) + 256 * (j % r.S * r.K + k) + 16 * (j / r.S * r.G + q / r.count) + e % 16

/-- Scratchpad offset of the scale byte of block `c` of column `n` in K-block `j` (R142). -/
def Resv.scalePlace (r : Resv) (j c n : Nat) : Nat :=
  let q := n / 16
  32768 * (r.first + q % r.count) + r.soff + (j * (r.K / r.L) + c) * 16 * r.G + 16 * (q / r.count) + n % 16

/-- Bytes of a bank's scale area (R142). -/
def Resv.scaleSize (r : Resv) : Nat := if isBlockType r.tb then r.kb * (r.K / r.L) * 16 * r.G else 0

/-- Is a bank byte part of a bank's B region (R141)? All G column groups count in every bank of the range, also in one where
the last has no chunk, which R140 and R166 leave open (log entry 73). -/
def Resv.inB (r : Resv) (o : Nat) : Bool :=
  let sl := o / 256 / r.K
  sl < min r.kb r.S && o % 256 < 16 * r.G * ((r.kb - sl + r.S - 1) / r.S)

/-- Does a bank's scale area lie in the bank and share no byte with its B region (R140)? -/
def Resv.scaleFits (r : Resv) : Bool :=
  r.soff + r.scaleSize ≤ 32768 &&
    -- the B region of a row is its first bytes: the area meets it in the row's first byte that the area holds
    (List.range 128).all fun row =>
      !(max r.soff (256 * row) < min (r.soff + r.scaleSize) (256 * row + 256) && r.inB (max r.soff (256 * row)))

/-- Key of an accumulator entry (R145). -/
def accKey (core line ent : Nat) : Nat := 16384 * core + 32 * line + ent

/-- Line and entry of an accumulator element (R145); the imaginary part of a z64 element is in the entry after. -/
def Resv.entry (r : Resv) (m n : Nat) : Nat × Nat :=
  if r.ta = 18 then (r.accb + m * r.rowLines + n / 16, 2 * (n % 16)) else (r.accb + m * r.rowLines + n / 32, n % 32)

/-- An accumulator entry of a core, and the state with one written. -/
def State.acc (s : State) (core : Nat) (at' : Nat × Nat) : DWord := sget 0 s.cores.acc (accKey core at'.1 at'.2)
def State.setAcc (s : State) (core : Nat) (at' : Nat × Nat) (v : DWord) : State :=
  { s with cores := { s.cores with acc := sset 0 s.cores.acc (accKey core at'.1 at'.2) v } }

/-! ## Reservations of a block -/

/-- The live reservation of the block that a handle names (R165). -/
def Block.resv (b : Block) (h : Nat) : Option Resv := b.resvs.find? (·.handle == h)

/-- The block with the reservation of a handle changed. -/
def Block.updResv (b : Block) (h : Nat) (f : Resv → Resv) : Block :=
  { b with resvs := b.resvs.map fun r => if r.handle = h then f r else r }

/-- A change of a reservation of the issuing block. -/
def State.updResv (s : State) (h : Nat) (f : Resv → Resv) : State := { s with blk := s.blk.updResv h f }

/-- A reservation whose last outstanding work has ended leaves DRAINING (R135). -/
def Resv.drained (r : Resv) : Resv := if r.mode = 2 && r.work.isEmpty then r.setMode 0 else r

/-- Outstanding matrix work of a core, with the handle of its reservation. -/
def State.works (s : State) (core : Nat) : List (Nat × Work) :=
  (s.allBlocks.filter (·.core == core)).flatMap fun b => b.resvs.flatMap fun r => r.work.map fun w => (r.handle, w)

/-- Does an `mma` or `mmas` of the issuing core still have to update accumulators (R174)? -/
def State.updating (s : State) : Bool := (s.works s.blk.core).any fun w => w.2.kind != 2

/-- The reservation that a handle operand names, or ICONV (R165). -/
def withHandle (s : State) (h : Word) (f : Resv → Res) : Res :=
  if bits h 31 16 != 0 then trapCode s tICONV
  else
    match s.blk.resv h.toNat with
    | none => trapCode s tICONV
    | some r => f r

/-! ## Fields of a matrix instruction (R161, R162) -/

/-- M and N of the tile (R175). -/
def Work.M (w : Work) : Nat := 16 * 2 ^ w.m
def Work.N (w : Work) : Nat := 16 * w.n
/-- A word of the register block. -/
def Work.word (w : Work) (k : Nat) : Word := w.words.getD k 0
def Work.va (w : Work) : Nat := (w.word 1).toNat * 2 ^ 32 + (w.word 0).toNat
def Work.stride (w : Work) : Int := (w.word 2).toInt
def Work.kbi (w : Work) : Nat := bits (w.word 3) 31 16
def Work.hnd (w : Work) : Nat := bits (w.word 3) 15 0
def Work.rb (w : Work) : Nat := bits (w.word 4) 31 16
def Work.vr (w : Work) : Nat := min (bits (w.word 4) 15 0) w.M
def Work.cb (w : Work) : Nat := bits (w.word 6) 31 16
def Work.vc (w : Work) : Nat := min (bits (w.word 6) 15 0) w.N
def Work.side (w : Work) : Nat := bits (w.word 7) 31 11
def Work.depth (w : Work) : Nat := bits (w.word 7) 10 6
def Work.ovw (w : Work) : Bool := (w.word 7).getLsbD 2
def Work.cja (w : Work) : Bool := (w.word 7).getLsbD 1
def Work.tra (w : Work) : Bool := (w.word 7).getLsbD 0
/-- Bytes from the first to the last side entry of a `desc` (R157, R180). -/
def Work.sideSize (w : Work) : Nat := 8 * (64 * (w.depth - 1) + w.M)
def Work.sparse (w : Work) : Bool := w.kind == 1

/-! ## Bank modes (R135, R136, R170) -/

/-- Does an uncorrectable error lie in a B or scale byte of a reservation's banks (R170)? -/
def State.resvUpset (s : State) (r : Resv) : Bool :=
  s.mem.upsets.any fun u => u.1 == 2 &&
    ((List.range r.count).any fun k => u.2.1 == bankPlace s.blk.core (s.blk.banks.getD (r.first + k) 0)) &&
    (List.range 8).any fun j => r.inB (8 * u.2.2 + j) ||
      (r.soff ≤ 8 * u.2.2 + j && 8 * u.2.2 + j < r.soff + r.scaleSize)

/-- Does a pending fill of the block write a bank of a reservation (R136)? -/
def Block.filling (b : Block) (r : Resv) : Bool :=
  b.fills.any fun f => f.left.any fun ws => ws.any fun w => r.first ≤ w.1 / 32768 && w.1 / 32768 < r.first + r.count

/-- Do scratchpad writes that the issuing group's earlier instructions have still to perform meet a reservation's banks:
a store behind a fence or held at its line, or the side area of a `desc` (R136, R157, R170)? -/
def State.writing (s : State) (r : Resv) : Bool :=
  let lo := 32768 * r.first
  let hi := 32768 * (r.first + r.count)
  (s.grp.splits.any fun x => x.2.spec.any fun f => f.buffer.any fun h => h.spad && lo ≤ h.addr && h.addr < hi) ||
    (s.mem.requests.any fun q => q.spad && q.core == s.blk.core && q.slot == s.grp.slot && lo ≤ q.pa && q.pa < hi) ||
    s.blk.resvs.any fun o => o.work.any fun w =>
      w.kind == 2 && w.slot == s.grp.slot && w.side < hi && lo < w.side + w.sideSize

/-- Does an engine command that has begun write a bank of a reservation (R137)? -/
def State.engineWriting (s : State) (r : Resv) : Bool :=
  s.hub.commands.any fun c => c.core == s.blk.core && c.bslot == s.blk.bslot && match c.run.bind (·.geom) with
    | some g =>
      let o : Resv := { w0 := g.1, w1 := g.2 }
      o.first < r.first + r.count && r.first < o.first + o.count
    | none => false

/-- A RESIDUE trap (code 11) or an STR 3 error (code 3) of a core noted; the fourth of one kind within 1 s marks the core
for going offline (R394). -/
def State.softError (s : State) (core code : Nat) : State :=
  let same := s.cores.softErrors.filter fun e => e.1 == core && e.2.1 == code && s.mgmt.ns < e.2.2 + 10 ^ 9
  { s with
    cores := { s.cores with softErrors := s.cores.softErrors ++ [(core, code, s.mgmt.ns)] }
    mgmt := { s.mgmt with offlineCores :=
      if 3 ≤ same.length && !s.mgmt.offlineCores.contains core then s.mgmt.offlineCores ++ [core]
      else s.mgmt.offlineCores } }

/-- `bank.cm` (R135, R136, R170). R135 and R170 do not say whether it checks a DRAINING reservation and what an error
leaves there: it checks it too, and on an error the reservation stays DRAINING (log entry 79). -/
def execBankCm (a : Reg) (p : Perm) (l : BitVec 4) (s : State) : Host.Outcome State Fault Refusal :=
  gate (.bankCm a p l) s fun s =>
    withHandle s (s.operand a.toNat p s.ctl) fun r =>
      if r.mode = 1 then .next s
      else if s.blk.filling r then .stall .object
      else if s.writing r || s.engineWriting r then .stall .matrix
      else if s.resvUpset r then .trap ((s.countError 3 true).softError s.blk.core 3) { code := tECC, str := 3 }
      else .next (s.updResv r.handle fun r => { r.setMode 1 with poisoned := false })

/-- `bank.sm` (R135, R170). -/
def execBankSm (a : Reg) (p : Perm) (l : BitVec 4) (s : State) : Host.Outcome State Fault Refusal :=
  gate (.bankSm a p l) s fun s =>
    withHandle s (s.operand a.toNat p s.ctl) fun r =>
      if r.mode != 1 then .next s
      else if s.writing r then .stall .matrix
      else .next (s.updResv r.handle fun r => (r.setMode 2).drained)

/-! ## Making, reading and freeing reservations (R166-R168) -/

/-- Is a proposed record well formed (R140, R163, R166)? -/
def Resv.wellFormed (r : Resv) : Bool :=
  let mx := fun (t : Nat) => 6 ≤ t && t ≤ 9
  (matType r.ta).isSome && (matType r.tb).isSome &&
    (if isFpClass r.ta || isFpClass r.tb then r.ta == r.tb else true) &&
    r.blen != 3 && (!(mx r.ta || mx r.tb) || r.blen == 1) &&
    r.ncol != 0 && r.kb != 0 && r.first + r.count ≤ 64 && (r.kb + r.S - 1) / r.S * r.G ≤ 16 &&
    (!isBlockType r.tb || r.scaleFits)

/-- Do two ranges of a first number and a length meet? -/
def rangesMeet (a n b m : Nat) : Bool := a < b + m && b < a + n

/-- The accumulator lines that live reservations of a core hold: first and number. -/
def State.accRanges (s : State) (core : Nat) : List (Nat × Nat) :=
  (s.allBlocks.filter (·.core == core)).flatMap fun b => b.resvs.map fun r => (r.accb, r.accl + 1)

/-- The status code of a proposed record (R166). -/
def State.resvCode (s : State) (r : Resv) : Nat :=
  if !r.wellFormed then 1
  else if s.blk.bankCount < r.first + r.count then 2
  else if s.blk.resvs.any fun o => rangesMeet r.first r.count o.first o.count then 3
  else if 512 < r.accb + r.accl + 1 || (s.accRanges s.blk.core).any fun o => rangesMeet r.accb (r.accl + 1) o.1 o.2 then 4
  else 0

/-- The accumulator lines of a core from `a` on zeroed, which makes errors of their entries good (log entry 48). -/
def State.clearAcc (s : State) (core a n : Nat) : State :=
  { s with
    cores := { s.cores with acc := sclear s.cores.acc (accKey core a 0) (accKey core (a + n) 0) }
    mem := { s.mem with upsets := s.mem.upsets.filter fun u =>
      !(u.1 == 4 && u.2.1 == core && 32 * a ≤ u.2.2 && u.2.2 < 32 * (a + n)) } }

/-- `resv` (R166). -/
def execResv (d a : Reg) (p : Perm) (l : BitVec 4) (s : State) : Host.Outcome State Fault Refusal :=
  gate (.resv d a p l) s fun s =>
    let w0 := s.operand64 a.toNat p s.ctl
    let w1 := s.operand64 (a.toNat + 2) p s.ctl
    let r0 : Resv := { w0 := w0, w1 := w1 }
    let code := s.resvCode r0
    if code != 0 then .next (s.setCtl d (BitVec.ofNat 32 (code * 2 ^ 16)))
    else
      let h := 0x8000 + (r0.count - 1) * 64 + r0.first
      let r : Resv := { w0 := setBits w0 10 0 0, w1 := setBits (setBits (setBits w1 63 48 h) 47 32 s.blk.bslot) 31 30 0 }
      .next (({ s with blk := { s.blk with resvs := s.blk.resvs ++ [r] } }.clearAcc s.blk.core r.accb (r.accl + 1)).setCtl d
        (BitVec.ofNat 32 h))

/-- `resv.rd` (R167). -/
def execResvRd (d a : Reg) (p : Perm) (l : BitVec 4) (s : State) : Host.Outcome State Fault Refusal :=
  gate (.resvRd d a p l) s fun s =>
    let h := s.operand a.toNat p s.ctl
    if bits h 31 16 != 0 then trapCode s tICONV
    else
      let (w0, w1) := match s.blk.resv h.toNat with
        | some r => (r.w0, r.w1)
        | none => (0, 0)
      .next ((s.setPair d.toNat s.ctl w0).setPair (d.toNat + 2) s.ctl w1)

/-- `resv.free` (R168): DRAINING as a `bank.sm` would put it (R136), until the reservation's work has ended; then the
record goes. While it waits it keeps the banks DRAINING: a `bank.cm` of another group, which R135 lets cancel that, is undone
at its next retry (log entry 94). -/
def execResvFree (d a : Reg) (p : Perm) (l : BitVec 4) (s : State) : Host.Outcome State Fault Refusal :=
  gate (.resvFree d a p l) s fun s =>
    withHandle s (s.operand a.toNat p s.ctl) fun r =>
      if r.mode = 1 && s.writing r then .stall .matrix
      else if r.work.isEmpty then
        .next ({ s with blk := { s.blk with resvs := s.blk.resvs.filter fun o => o.handle != r.handle } }.setCtl d 0)
      else .hold (s.updResv r.handle (·.setMode 2)) .matrix

/-! ## Accumulator access (R171-R173) -/

/-- Fields of an accumulator address word (R171). -/
def addrHandle (w : Word) : Nat := bits w 15 0
def addrRow (w : Word) : Nat := bits w 24 16
def addrChunk (w : Word) : Nat := bits w 29 25

/-- The reservation that an accumulator address word names, or ICONV (R171). -/
def withAddress (s : State) (w : Word) (x : Nat) (f : Resv → Res) : Res :=
  match s.blk.resv (addrHandle w) with
  | none => trapCode s tICONV
  | some r =>
    if bits w 31 30 != 0 || r.mcap ≤ addrRow w || r.ncol ≤ 32 * addrChunk w || (x = 1 && !isComplex r.ta) then
      trapCode s tICONV
    else f r

/-- The format of an FP-class accumulator part (R148). -/
def Resv.accFmt (r : Resv) : Fmt := if r.ta = 0 || r.ta = 17 then .f32 else .f64

/-- Line and entry of a part of an element: the imaginary part of z64 has an entry of its own (R145). -/
def Resv.partEntry (r : Resv) (m n x : Nat) : Nat × Nat :=
  let e := r.entry m n
  if r.ta = 18 then (e.1, e.2 + x) else e

/-- The encoding of a part held in an FP-class entry (R145). -/
def Resv.partOf (r : Resv) (x : Nat) (v : DWord) : Nat :=
  if r.ta = 17 then bits v (32 * x + 31) (32 * x) else if r.ta = 0 then bits v 31 0 else v.toNat

/-- An FP-class entry with a part replaced. -/
def Resv.setPart (r : Resv) (x : Nat) (v : DWord) (c : Nat) : DWord :=
  if r.ta = 17 then setBits v (32 * x + 31) (32 * x) c else BitVec.ofNat 64 c

/-- The value of an anchored entry (R145). -/
def Resv.anchoredVal (r : Resv) (v : DWord) : Val :=
  match bits v 49 48 with
  | 1 => .inf false
  | 2 => .inf true
  | 3 => qNaN
  | _ =>
    let z := (v.extractLsb' 0 48).toInt
    .fin (z < 0) z.natAbs r.anch

/-- The value that `acc.rd` reads (R172). -/
def Resv.accVal (r : Resv) (x : Nat) (v : DWord) : Val :=
  if isFpClass r.ta then decodeVal r.accFmt (r.partOf x v) else r.anchoredVal v

/-- Is an accumulator entry unreadable (R393, STR 4)? -/
def State.accUpset (s : State) (at' : Nat × Nat) : Bool :=
  s.mem.upsets.any fun u => u.1 == 4 && u.2.1 == s.blk.core && u.2.2 == 32 * at'.1 + at'.2

/-- `acc.rd` (R172). With no lane active it judges nothing, the address word neither (R26, R164; log entry 72). -/
def execAccRd (d a : Reg) (p : Perm) (l : BitVec 4) (x : BitVec 1) (s : State) : Host.Outcome State Fault Refusal :=
  gate (.accRd d a p l x) s fun s =>
    if s.active.isEmpty then .next s
    else
      let w := s.operand a.toNat p s.ctl
      withAddress s w x.toNat fun r =>
        if s.updating then .stall .matrix
        else
          let T := fmtD (gmTB s.spl.gm)
          let col := fun i => 32 * addrChunk w + i
          let at' := fun i => r.partEntry (addrRow w) (col i) x.toNat
          let bad := s.active.filter fun i => col i < r.ncol && s.accUpset (at' i)
          let (t, cs) := State.eachLane (fun i (t : State) =>
            if col i < r.ncol then t.round (r.accVal x.toNat (s.acc s.blk.core (at' i))) T i
            else ((t.drawSR (gmRM s.spl.gm) i).1, 0)) (s.active.filter fun i => !bad.contains i) s
          s.endLanes (t.puts d.toNat T (cs.filter fun c => col c.1 < r.ncol))
            (bad.map fun i => ({ code := tECC, lane := i, str := 4 }, false))

/-- `Floor` of a value in units of `2 ^ anch`, and whether anything was lost (R146). -/
def floorUnits (neg : Bool) (m : Nat) (k : Int) : Int × Bool :=
  let z : Int := if neg then -(m : Int) else m
  if 0 ≤ k then (z * 2 ^ k.toNat, false)
  else (z / (2 ^ (-k).toNat : Nat), z % (2 ^ (-k).toNat : Nat) != 0)

/-- `SatTo48` or the wrap to 48 bits (R146). -/
def to48 (sat : Bool) (z : Int) : Int × BitVec 6 :=
  if sat then
    if 2 ^ 47 - 1 < z then (2 ^ 47 - 1, fSA) else if z < -(2 ^ 47 - 1) then (-(2 ^ 47 - 1), fSA) else (z, 0)
  else ((BitVec.ofInt 48 z).toInt, 0)

/-- An anchored entry from ST and VAL (R145). -/
def anchored (st : Nat) (z : Int) : DWord := BitVec.ofNat 64 (st * 2 ^ 48 + (BitVec.ofInt 48 z).toNat)

/-- An anchored entry with another ST (R147, R173). -/
def setST (entry : DWord) (st : Nat) : DWord := setBits entry 49 48 st

/-- The anchored entry that `acc.wr` makes of an entry and a value, with its flags (R173). -/
def Resv.writeAnchored (r : Resv) (sat : Bool) (entry : DWord) (x : Val) : DWord × BitVec 6 :=
  match x with
  | .nan _ sig => (setST entry 3, ivIf sig)
  | .inf n => (setST entry (if n then 2 else 1), 0)
  | .fin n m e =>
    let (u, lost) := floorUnits n m (e - r.anch)
    let (z, f) := to48 sat u
    (anchored 0 z, f ||| (if lost then fNX else 0))

/-- An accumulator entry written by a program, which makes an error of it good (log entry 48). -/
def State.putAcc (s : State) (core : Nat) (at' : Nat × Nat) (v : DWord) : State :=
  { s.setAcc core at' v with mem := { s.mem with upsets := s.mem.upsets.filter fun u =>
      !(u.1 == 4 && u.2.1 == core && u.2.2 == 32 * at'.1 + at'.2) } }

/-- `acc.wr` (R173). With no lane active it judges nothing, as `acc.rd` (log entry 72). -/
def execAccWr (d a : Reg) (p : Perm) (l : BitVec 4) (x : BitVec 1) (s : State) : Host.Outcome State Fault Refusal :=
  gate (.accWr d a p l x) s fun s =>
    if s.active.isEmpty then .next s
    else
      let w := s.source d.toNat s.ctl
      withAddress s w x.toNat fun r =>
        if s.updating then .stall .matrix
        else
          let T := fmtD (gmTA s.spl.gm)
          let core := s.blk.core
          .next (s.active.foldl (fun (t : State) i =>
            let n := 32 * addrChunk w + i
            let v := s.srcVal 0 a.toNat p i T
            let e := r.partEntry (addrRow w) n x.toNat
            if isFpClass r.ta then
              if n < r.ncol then
                let (t1, c) := t.round v r.accFmt i
                t1.putAcc core e (r.setPart x.toNat (t1.acc core e) c)
              else (t.drawSR (gmRM s.spl.gm) i).1
            else if n < r.ncol then
              let (z, f) := r.writeAnchored (gmSAT s.spl.gm) (t.acc core e) v
              (t.raise i f).putAcc core e z
            else t) s)

/-- `acc.clr` (R173). -/
def execAccClr (a : Reg) (p : Perm) (l : BitVec 4) (x : BitVec 1) (s : State) : Host.Outcome State Fault Refusal :=
  gate (.accClr a p l x) s fun s =>
    let w := s.operand a.toNat p s.ctl
    withAddress s w 0 fun r =>
      if x = 0 && bits w 29 16 != 0 then trapCode s tICONV
      else if s.updating then .stall .matrix
      else if x = 0 then .next (s.clearAcc s.blk.core r.accb (r.accl + 1))
      else .next (s.clearAcc s.blk.core (r.accb + addrRow w * r.rowLines) r.rowLines)

/-! ## Row slots (R155, R179) -/

/-- The row slots that an instruction occupies (R155, R179). -/
def Work.slots (w : Work) (r : Resv) : List Nat :=
  if w.sparse then [w.kbi % r.S, (w.kbi + 1) % r.S] else [w.kbi % r.S]

/-- Is a row slot of the instruction taken by one that issued before it (R155)? -/
def Resv.slotBusy (r : Resv) (w : Work) : Bool :=
  r.work.any fun o => o.stamp < w.stamp && (o.slots r).any (w.slots r).contains

/-! ## A rows (R143, R144, R178) -/

/-- Bytes that the array fetches for an instruction, or the fault of the row; the flag says that a firewall denied it. -/
def State.fetchA (s : State) (va : Int) (n : Nat) : Except (TrapInfo × Bool) (List Byte) :=
  let v := (va % (2 ^ 64 : Nat)).toNat
  let t : TrapInfo := { code := tPAGE, fva := BitVec.ofNat 64 v }
  if 2 ^ 57 ≤ v || aliasBase < v + n then .error (t, false)
  else
    match s.check s.me s.blk.asid v n .load s.inHandler with
    | .mem ps =>
      (match ps.findSome? fun at_ => if s.hitsL1 s.blk.core at_ false then none else s.unreadable s.blk.asid at_ with
      | some str => .error ({ t with code := tECC, str := str }, false)
      | none => .ok (ps.map fun at_ => s.loadByte s.blk.asid s.blk.core at_ false))
    | .fault code fva p2 dn str => .error ({ code := code, fva := BitVec.ofNat 64 fva, part2 := p2, str := str % 256, port := str / 256 }, dn)
    | .spad _ => .error (t, false)

/-- The bytes of a row of A that the work has fetched already (R177). -/
def Work.fetched (w : Work) (m : Nat) : Option (List Byte) := (w.ahead.find? (·.1 == m)).map (·.2)

/-- The valid rows that the work has still to fetch. -/
def Work.unfetched (w : Work) : List Nat := (List.range w.vr).filter fun m => w.row ≤ m && (w.fetched m).isNone

/-- The row that the work fetches next, freely chosen: its loads have no order among them (R177, R214). -/
def Work.nextRow (w : Work) (tick : Nat) : Option Nat :=
  w.unfetched[(Config.freeDWord (tick * 2 ^ 20 + 2 ^ 19)).toNat % w.unfetched.length]?

/-- Fetches one after another, the first fault ending them. -/
def fetchAll {ε α : Type} : List (Except ε (List α)) → Except ε (List α)
  | [] => .ok []
  | .error e :: _ => .error e
  | .ok bs :: rest =>
    match fetchAll rest with
    | .ok more => .ok (bs ++ more)
    | .error e => .error e

/-- Scale bytes that follow a row (R143, R179). -/
def Work.scaleBytes (w : Work) (r : Resv) : Nat :=
  if isBlockType r.ta then (if w.sparse then 2 else 1) * r.K / r.L else 0

/-- The addresses at which row `m` of A is fetched, and the bytes at each: one of each row of memory where TRA is set (R143,
R178). -/
def Work.spans (w : Work) (r : Resv) (m : Nat) : List (Int × Nat) :=
  if w.tra then (List.range r.K).map fun (k : Nat) => ((w.va : Int) + (k : Int) * w.stride + (m * (r.width / 8) : Nat), r.width / 8)
  else [((w.va : Int) + m * w.stride, 64 + w.scaleBytes r)]

/-- Row `m` of A as its bytes (R143, R178). -/
def State.rowA (s : State) (w : Work) (r : Resv) (m : Nat) : Except (TrapInfo × Bool) (List Byte) :=
  match (List.range (if w.tra then r.K else 1)).find? fun (k : Nat) =>
      ((w.va : Int) + (if w.tra then k else m : Nat) * w.stride) % 4 != 0 with
  | some k => .error ({ code := tALIGN, fva := BitVec.ofInt 64 ((w.va : Int) + (if w.tra then k else m : Nat) * w.stride) }, false)
  | none => fetchAll ((w.spans r m).map fun x => s.fetchA x.1 x.2)

/-- What is done with row `m` of A once its fetch can cross its links (R374): its translations are cached by the core, and its
lines taken back from the host (R193, R360). Until then the links wake. -/
def State.forRow (s : State) (w : Work) (r : Resv) (m : Nat) (f : State → State) : State :=
  let vas := (w.spans r m).map fun (x : Int × Nat) => ((x.1 % (2 ^ 64 : Nat)).toNat, x.2)
  let pas := vas.flatMap fun x => match s.check s.me s.blk.asid x.1 x.2 .load s.inHandler with
    | .mem ps => s.missed false ps
    | _ => []
  if pas.all (s.wayOpen s.blk.asid s.blk.core) then
    f (((vas.foldl (fun (t : State) x => if x.1 < aliasBase then t.fillTlb s.me s.blk.asid x.1 else t) s).recall
      (pas.map (· / 64))).sendFlits s.blk.asid pas)
  else pas.foldl (fun (t : State) pa => t.wakeWay s.blk.asid s.blk.core pa) s

/-- The code of element `i` of a fetched row, `w` bits wide (R82). -/
def rowCode (raw : List Byte) (w i : Nat) : Nat :=
  if w = 4 then (raw.getD (i / 2) 0).toNat / 16 ^ (i % 2) % 16
  else natOfBytes ((List.range (w / 8)).map fun k => raw.getD (w / 8 * i + k) 0)

/-! ## B elements (R269) -/

/-- A tagged B element: its bytes as a number, its sign and exponent from the tag (R269). -/
def taggedVal (F : Fmt) (v : Nat) (tag : BitVec 12) : Val :=
  let e := bits tag 10 0
  let neg := tag.getLsbD 11
  if e = 2 ^ F.expBits - 1 then
    (if v = 2 ^ F.frac then .inf neg else .nan neg (v / 2 ^ (F.frac - 1) % 2 == 0))
  else .fin neg v ((if e = 0 then 1 else (e : Int)) - F.bias - F.frac)

/-- The bytes of a B element from byte `b0` on, as a number (R141). -/
def Block.bBytes (b : Block) (r : Resv) (j k b0 n : Nat) : Nat :=
  natOfBytes ((List.range n).map fun t => b.byte (r.place j k (b0 + t)))

/-- The scale byte of B for a block of a column (R142). -/
def Block.bScale (b : Block) (r : Resv) (j c n : Nat) : Nat := (b.byte (r.scalePlace j c n)).toNat

/-- The code value of B element (k, n) of K-block j, or of a part of a complex one, before scaling (R146, R269). -/
def Block.bVal (b : Block) (r : Resv) (j k n part : Nat) : Val :=
  if isComplex r.tb then
    let h := r.wb / 2
    let e := n * r.wb + part * h
    taggedVal r.accFmt (b.bBytes r j k e h) (sget 0 b.tags (r.place j k e))
  else if r.tb ≤ 3 then
    taggedVal (fmtD r.tb) (b.bBytes r j k (n * r.wb) r.wb) (sget 0 b.tags (r.place j k (n * r.wb)))
  else if isBlockType r.tb then
    decodeVal (scaleOf r.tb (b.bScale r j (k / r.L) n)).1 (b.bBytes r j k (n * r.wb) r.wb)
  else decodeVal (fmtD r.tb) (b.bBytes r j k (n * r.wb) r.wb)

/-! ## Anchored arithmetic (R146, R147, R153) -/

/-- The effective positions of the kept elements of row `m` (R179); those of a dense row in order. -/
def Work.positions (w : Work) (r : Resv) (m : Nat) : List Nat :=
  if w.sparse then
    (List.range (r.K / 2)).flatMap fun g =>
      let t := 2 * r.K * (8 * w.sel + m) + 4 * g
      let f := (w.index.getD (t / 32) 0).toNat / 2 ^ (t % 32) % 16
      [4 * g + f % 4, 4 * g + f / 4]
  else List.range r.K

/-- The contribution of one block of a row to a column: ST and units of `2 ^ ANCH`, with flags (R146, R147). Every
element of a NaN block is a quiet NaN (log entry 64). -/
def Block.contribution (b : Block) (w : Work) (r : Resv) (raw : List Byte) (col lo len : Nat) (terms : List (Nat × Nat)) :
    (Nat × Int) × BitVec 6 :=
  let aScale := (raw.getD (64 + lo / len) 0).toNat
  let (aFmt, aExp, aNan) := if isBlockType r.ta then scaleOf r.ta aScale else (fmtD r.ta, 0, false)
  let (bExp, bNan) := if isBlockType r.tb then
      let x := scaleOf r.tb (b.bScale r (w.kbi + lo / r.K) (lo % r.K / r.L) col)
      (x.2.1, x.2.2)
    else (0, false)
  let ps := terms.map fun (i, e) =>
    let x := if aNan then qNaN else decodeVal aFmt (rowCode raw r.width i)
    let y := if bNan then qNaN else b.bVal r (w.kbi + e / r.K) (e % r.K) col 0
    let (z, bad) := mulVal x y
    (z, bad || x.isSig || y.isSig)
  let (z, bad) := sumVals 0 (ps.map (·.1))
  let f := ivIf (bad || ps.any (·.2))
  if aNan || bNan then ((3, 0), f)
  else
    match z with
    | .nan _ _ => ((3, 0), f)
    | .inf n => ((if n then 2 else 1, 0), f)
    | .fin n m e =>
      let (u, lost) := floorUnits n m (e + aExp + bExp - r.anch)
      ((0, u), f ||| (if lost then fNX else 0))

/-- The contributions of a row to a column, block by block (R146). Where a block of B is longer than a K-block, the spec
does not say what the row contributes: a free value (log entry 7). -/
def Block.contributions (b : Block) (w : Work) (r : Resv) (m : Nat) (raw : List Byte) (col free : Nat) :
    List ((Nat × Int) × BitVec 6) :=
  let span := (if w.sparse then 2 else 1) * r.K
  let scaled := isBlockType r.ta || isBlockType r.tb
  if scaled && r.K < r.L then [((0, (Config.freeDWord free).toInt), 0)]
  else
    let len := if scaled then r.L else span
    let terms := (List.range r.K).zip (w.positions r m)
    (List.range (span / len)).map fun k =>
      b.contribution w r raw col (k * len) len (terms.filter fun t => k * len ≤ t.2 && t.2 < (k + 1) * len)

/-- An anchored entry after contributions in order (R146, R147). -/
def accumulate (sat : Bool) (entry : DWord) : List ((Nat × Int) × BitVec 6) → DWord × BitVec 6
  | [] => (entry, 0)
  | ((st, u), f) :: rest =>
    let old := bits entry 49 48
    let z := (entry.extractLsb' 0 48).toInt
    let (e1, f1) : DWord × BitVec 6 :=
      if st = 0 then
        if old = 0 then
          let (z1, g) := to48 sat (z + u)
          (anchored 0 z1, g)
        else (entry, 0)
      else if st = 3 || old = 3 then (setST entry 3, 0)
      else if old = 0 || old = st then (setST entry st, 0)
      else (setST entry 3, fIV)
    let (e2, f2) := accumulate sat e1 rest
    (e2, f ||| f1 ||| f2)

/-! ## FP-class arithmetic (R148) -/

/-- A part of A element `k` of a fetched row, conjugated where the instruction says so (R178). -/
def aPart (w : Work) (r : Resv) (raw : List Byte) (k part : Nat) : Val :=
  let F := r.accFmt
  let n := F.width / 8
  let c := natOfBytes ((List.range n).map fun t => raw.getD ((if isComplex r.ta then 2 * k + part else k) * n + t) 0)
  let top := 2 ^ (F.width - 1)
  decodeVal F (if part = 1 && w.cja then (if c < top then c + top else c - top) else c)

/-- The exact step sums of a row and a column, real part first, with IV (R148). -/
def Block.stepSums (b : Block) (w : Work) (r : Resv) (raw : List Byte) (col rm : Nat) : List (Val × BitVec 6) :=
  let ks := List.range r.K
  let sum := fun (ps : List (Val × Val)) =>
    let qs := ps.map fun (x, y) =>
      let (z, bad) := mulVal x y
      (z, bad || x.isSig || y.isSig)
    let (z, bad) := sumVals rm (qs.map (·.1))
    (z, ivIf (bad || qs.any (·.2)))
  let a := aPart w r raw
  let y := fun k part => b.bVal r w.kbi k col part
  if isComplex r.ta then
    [sum (ks.flatMap fun k => [(a k 0, y k 0), (negVal (a k 1), y k 1)]),
     sum (ks.flatMap fun k => [(a k 0, y k 1), (a k 1, y k 0)])]
  else [sum (ks.map fun k => (a k 0, y k 0))]

/-- One rounding with a work's modes; under SR a draw of a lane of its group (R148). -/
def State.roundWork (s : State) (w : Work) (x : Val) (F : Fmt) (lane : Nat) : State × Nat × BitVec 6 :=
  let (s1, d) := s.drawSR (gmRM w.gm) lane
  let (c, f) := roundTo (gmRM w.gm) (gmSAT w.gm) d x F
  (s1, c, f)

/-- An FP-class element updated: each part rounded, then added and rounded unless it overwrites (R148). Under SR the two
draws of the real part come before those of the imaginary part (log entry 71). -/
def State.updateFp (s : State) (w : Work) (r : Resv) (m col : Nat) (raw : List Byte) : State × BitVec 6 :=
  let rm := gmRM w.gm
  let core := s.blk.core
  let lane := col % 32
  let one := fun (acc : State × BitVec 6) (x : Nat × Val × BitVec 6) =>
    let e := r.partEntry (w.rb + m) col x.1
    let (s1, c1, f1) := acc.1.roundWork w x.2.1 r.accFmt lane
    let (s2, c2, f2) :=
      if w.ovw then (s1, c1, 0)
      else
        let (z, g) := sumOf rm (decodeVal r.accFmt (r.partOf x.1 (s1.acc core e))) (decodeVal r.accFmt c1)
        let (s2, c2, f2) := s1.roundWork w z r.accFmt lane
        (s2, c2, f2 ||| g)
    (s2.setAcc core e (r.setPart x.1 (s2.acc core e) c2), acc.2 ||| x.2.2 ||| f1 ||| f2)
  let sums := s.blk.stepSums w r raw col rm
  ((List.range sums.length).zip sums).foldl one (s, 0)

/-- An anchored element updated (R146). -/
def State.updateAnchored (s : State) (w : Work) (r : Resv) (m col : Nat) (raw : List Byte) : State × BitVec 6 :=
  let e := r.entry (w.rb + m) col
  let core := s.blk.core
  let old := if w.ovw then 0 else s.acc core e
  let (v, f) := accumulate (gmSAT w.gm) old (s.blk.contributions w r m raw col (s.tick * 2 ^ 20 + m * 2 ^ 12 + col))
  (s.setAcc core e v, f)

/-- A row's unmasked elements updated, in ascending column (R149, R176). -/
def State.updateRow (s : State) (w : Work) (r : Resv) (m : Nat) (raw : List Byte) : State × BitVec 6 :=
  (List.range w.vc).foldl (fun acc n =>
    let (t, f) := if isFpClass r.ta then acc.1.updateFp w r m (w.cb + n) raw
      else acc.1.updateAnchored w r m (w.cb + n) raw
    (t, acc.2 ||| f)) (s, 0)

/-! ## Running `mma` and `mmas` (R151, R152, R176) -/

/-- What stops a row before its update: a poisoned reservation, an accumulator error, a residue mismatch (R393, R394). -/
def State.rowCheck (s : State) (w : Work) (r : Resv) (m : Nat) : Option TrapInfo :=
  let fva := BitVec.ofInt 64 ((w.va : Int) + m * w.stride)
  if r.poisoned then some { code := tECC, str := 3, fva := fva }
  else if w.kind != 2 && (List.range w.vc).any fun n =>
      s.accUpset (r.partEntry (w.rb + m) (w.cb + n) 0) || s.accUpset (r.partEntry (w.rb + m) (w.cb + n) 1) then
    some { code := tECC, str := 4, fva := fva }
  else if s.mem.upsets.any fun u => u.1 == 11 && u.2.1 == s.blk.core then some { code := tRESIDUE, fva := fva }
  else none

/-- Outstanding work of a reservation changed. -/
def State.updWork (s : State) (h : Nat) (w : Work) (f : Work → Work) : State :=
  s.updResv h fun r => { r with work := r.work.map fun o => if o.stamp = w.stamp then f o else o }

/-- Windows after the instruction that issued at a tick has completed: it is outstanding no more, and who reads its
results from now on finds them (R56, R58). -/
def landed (stamp : Nat) (ws : List Window) : List Window := ws.filter (·.stamp != stamp)

/-- A split whose instruction that issued at a tick has completed; an incomplete fence that stands behind it keeps its
results (R57, R209). -/
def Split.closeWindow (p : Split) (stamp : Nat) (new : List (Nat × Word)) : Split :=
  { p with
    windows := landed stamp p.windows
    spec := p.spec.map fun f =>
      { f with regs := new.foldl (fun m x => sset 0 m x.1 x.2) f.regs, windows := landed stamp f.windows } }

/-- The draws of matrix work of the issuing group kept by an incomplete fence that stands behind it (R89, R209). -/
def State.keepDraws (s : State) : State :=
  if s.spl.spec.isNone then s else s.setSpl { s.spl with spec := s.spl.spec.map fun f => { f with gs := s.grp.gs } }

/-- The issuing group's work taken off its reservation with the registers it writes, its window closed (R135, R155). -/
def State.endWork (s : State) (h : Nat) (w : Work) (new : List (Nat × Word)) : State :=
  let s1 := s.updResv h fun r => { r with work := r.work.filter fun o => o.stamp != w.stamp }.drained
  let s2 := new.foldl (fun (t : State) x => t.setReg (x.1 / 32) (x.1 % 32) x.2) s1
  s2.setSpl (s2.spl.closeWindow w.stamp new)

/-- Row-progress as a register value: key and word (R151). -/
def Work.progress (w : Work) (m : Nat) : List (Nat × Word) := [(32 * (8 * w.blk + 5), BitVec.ofNat 32 m)]

/-- A matrix instruction of the issuing split faults: a pending trap of the split (R60, R152). -/
def State.failWork (s : State) (h : Nat) (w : Work) (t : TrapInfo) (denied : Bool) (new : List (Nat × Word)) : State :=
  let s0 := if denied then s.noteDenial t.fva.toNat else s
  let s1 := s0.endWork h w new
  let s2 := { s1 with grp := s1.grp.pend s1.cur t w.pc w.stamp false }
  if t.code = tRESIDUE then
    ({ s2 with mem := { s2.mem with upsets := s2.mem.upsets.filter fun u => !(u.1 == 11 && u.2.1 == s.blk.core) } }).softError
      s.blk.core 11
  else s2

/-- An `mma` or `mmas` that stops at the row it has come to: row-progress, and the flags of its rows in PFL (R149, R152). -/
def State.stopRows (s : State) (h : Nat) (w : Work) : State := s.updResv h fun r => r.setPfl (r.pfl ||| w.flags)

/-- The work as its next row finds its index registers: each lane that an instruction of its window has written has its
old value or its new one (R57, R179). -/
def State.indexed (s : State) (w : Work) : Work :=
  { w with index := ((List.range w.index.length).zip w.index).map fun (k, (v : Word)) =>
      oneOf s.tick (2 ^ 22 + k) [v] (s.reg (w.x + k / 32) (k % 32)) }

/-- Energy of a row that an `mma` has streamed (R351, classes 6 and 7, and what its fetch touched). Class 6 counts the clk
of all N columns, the masked among them, as R351 counts a valid row's clk; R150 says that masked elements spend no energy (log
entry 93). -/
def State.chargeRow (s : State) (w : Work) (r : Resv) : State :=
  let die := dieOf s.blk.core
  let clks := r.passes * ((w.N * r.wb + 16 * r.count - 1) / (16 * r.count))
  ((s.charge s.blk.asid die 6 (clks * r.count)).charge s.blk.asid die 7 w.vc).chargeTraffic s.blk.asid die

/-- The row to which an `mma` or `mmas` has come, fetched, is checked and updated (R152, R176). -/
def State.runRow (s : State) (h : Nat) (w : Work) (r : Resv) (raw : List Byte) : State :=
  match s.rowCheck w r w.row with
  | some t => (s.stopRows h w).failWork h w t false (w.progress w.row)
  | none =>
    let (t, f) := s.updateRow (s.indexed w) r w.row raw
    (t.keepDraws.chargeRow w r).updWork h w fun o => { o with row := o.row + 1, flags := o.flags ||| f, ahead := o.ahead.filter (·.1 != w.row) }

/-- An `mma` or `mmas` whose rows are done completes: its flags and those of PFL in fl, row-progress M (R149, R151). -/
def State.endRows (s : State) (h : Nat) (w : Work) (r : Resv) : State :=
  let t := s.updResv h (·.setPfl 0)
  { t with grp := t.grp.lateFlags t.cur (w.flags ||| r.pfl) }.endWork h w (w.progress w.M)

/-- A row that the work has not come to fetched ahead of its turn, or nothing where the fetch fails: its fault is
judged when the work comes to it (R152, R214). -/
def State.fetchAhead (s : State) (h : Nat) (w : Work) (r : Resv) (m : Nat) : State :=
  match s.rowA w r m with
  | .error _ => s
  | .ok raw => s.updWork h w fun o => { o with ahead := o.ahead ++ [(m, raw)] }

/-- One step of an `mma` or `mmas`: it fetches a row, updates the row to which it has come, or ends. Only the oldest work
of the core updates accumulators (R174). The fetches have no order among them, and a row that an older step has fetched
stands as it was fetched (R177, R214). -/
def State.stepMma (s : State) (h : Nat) (w : Work) (r : Resv) (oldest : Bool) : State :=
  if !oldest then
    match w.nextRow s.tick with
    | some m => s.forRow w r m (·.fetchAhead h w r m)
    | none => s
  else if w.vr ≤ w.row then s.endRows h w r
  else
    match w.fetched w.row with
    | some raw => s.runRow h w r raw
    | none =>
      let m := (w.nextRow s.tick).getD w.row
      if m != w.row then s.forRow w r m (·.fetchAhead h w r m)
      else s.forRow w r m fun s =>
        match s.rowA w r w.row with
        | .error (t, dn) => (s.stopRows h w).failWork h w t dn (w.progress w.row)
        | .ok raw => s.runRow h w r raw

/-! ## Descent (R156-R159) -/

/-- The dot product of a fetched row with a node: the entry of R145 and its flags (R156). -/
def State.dot (s : State) (w : Work) (r : Resv) (m : Nat) (raw : List Byte) (node lane : Nat) : State × DWord × BitVec 6 :=
  if isFpClass r.ta then
    match s.blk.stepSums w r raw node (gmRM w.gm) with
    | (z, g) :: _ =>
      let (s1, c, f) := s.roundWork w z r.accFmt lane
      (s1, BitVec.ofNat 64 c, g ||| f)
    | [] => (s, 0, 0)
  else
    let (v, f) := accumulate (gmSAT w.gm) 0 (s.blk.contributions w r m raw node (s.tick * 2 ^ 20 + m * 2 ^ 12 + node))
    (s, v, f)

/-- Is a score at or above zero, or +∞ (R156)? -/
def Resv.goesRight (r : Resv) (v : DWord) : Bool :=
  match r.accVal 0 v with
  | .nan _ _ => false
  | .inf n => !n
  | .fin n m _ => !n || m == 0

/-- The descent of one row (R156): the trace, the side entries and the flags; `left` levels are still to run. Under SR a
level that is not run draws all the same. -/
def State.descend (s : State) (w : Work) (r : Resv) (m : Nat) (raw : List Byte) :
    (left l node : Nat) → (trace : Nat) → State × Nat × List (Nat × DWord) × BitVec 6
  | 0, l, _, trace => (s, trace + l * 2 ^ 24, [], 0)
  | left + 1, l, node, trace =>
    if w.vc ≤ node then
      let draws := if isFpClass r.ta then left + 1 else 0
      let t := (List.range draws).foldl (fun (t : State) _ => (t.drawSR (gmRM w.gm) (m % 32)).1) s
      (t, trace + l * 2 ^ 24, [], 0)
    else
      let (t, v, f) := s.dot w r m raw node (m % 32)
      let bit := if r.goesRight v then 1 else 0
      let (u, tr, sides, g) := t.descend w r m raw left (l + 1) (2 * node + 1 + bit) (trace + bit * 2 ^ l)
      (u, tr, (w.side + 8 * (64 * l + m), v) :: sides, f ||| g)

/-- Rows descended in ascending order: traces, side entries and flags. -/
def State.descendAll (s : State) (w : Work) (r : Resv) :
    List (Nat × List Byte) → State × List (Nat × Nat) × List (Nat × DWord) × BitVec 6
  | [] => (s, [], [], 0)
  | (m, raw) :: rest =>
    let (t, tr, sides, f) := s.descend w r m raw w.depth 0 0 0
    let (u, trs, more, g) := t.descendAll w r rest
    (u, (m, tr) :: trs, sides ++ more, f ||| g)

/-- The descent of the rows that a `desc` has fetched. -/
def State.descendRows (s : State) (w : Work) (r : Resv) : State × List (Nat × Nat) × List (Nat × DWord) × BitVec 6 :=
  s.descendAll w r ((List.range w.vr).filterMap fun m => (w.fetched m).map fun raw => (m, raw))

/-- The bytes of side entries. -/
def sideBytes (sides : List (Nat × DWord)) : List (Nat × Byte) :=
  sides.flatMap fun x => (List.range 8).map fun j => (x.1 + j, x.2.extractLsb' (8 * j) 8)

/-- Does earlier matrix work of the same group have its draws still to make (R89, R159)? -/
def Block.drawsFirst (b : Block) (w : Work) : Bool :=
  b.resvs.any fun o => o.work.any fun v => v.slot == w.slot && v.stamp < w.stamp

/-- Has it, or an earlier instruction that has faulted or been stopped and is due for re-execution (R60, R159)? -/
def State.drawsBefore (s : State) (w : Work) : Bool :=
  s.blk.drawsFirst w || ((List.range 4).any fun k => (s.grp.splitAt k).pending.any (·.stamp < w.stamp)) ||
    !((s.grp.splitAt w.spl).redo.takeWhile (·.1 != w.pc)).isEmpty

/-- Does a region that holds its lines watch the side area of a `desc` (R325, R335)? -/
def State.sideHeld (s : State) (w : Work) : Bool :=
  (distinct ((List.range w.sideSize).map fun j => (w.side + j) / 64)).any fun l => s.lineHeld none true l

/-- A `desc` abandoned: once its rows are fetched, and the earlier work of its group has made its draws, each of its side
entries may hold its final value already (R159). -/
def State.abandonDesc (s : State) (w : Work) (r : Resv) : State :=
  if !w.unfetched.isEmpty || s.drawsBefore w || s.blk.computing w.side w.sideSize || s.sideHeld w then s
  else
    let sides := (s.descendRows w r).2.2.1
    s.performSpad none (sideBytes (((List.range sides.length).zip sides).filterMap fun (k, x) =>
      if Config.choice s.tick (2 ^ 23 + k) then some x else none))

/-- How many distinct nodes the rows of a descent visit: one of level l is told by the l choices that led to it (R158). -/
def nodesVisited (traces : List (Nat × Nat)) : Nat :=
  (distinct (traces.flatMap fun x => (List.range (x.2 / 2 ^ 24)).map fun l => 2 ^ l + x.2 % 2 ^ l)).length

/-- A `desc` whose rows are fetched runs (R156-R159). Its side area is judged by the mode of its banks when the writes
reach them (R136). -/
def State.runDesc (s : State) (h : Nat) (w : Work) (r : Resv) : State :=
  match s.rowCheck w r 0 with
  | some t => (if r.poisoned then s else s.abandonDesc w r).failWork h w t false []
  | none =>
    if s.blk.computing w.side w.sideSize then s.failWork h w { code := tBANKMODE } false []
    else
      let (t, traces, sides, f) := s.descendRows w r
      let t1 := t.performSpad none (sideBytes sides)
      let t2 := (t1.charge s.blk.asid (dieOf s.blk.core) 8 (nodesVisited traces)).chargeTraffic s.blk.asid (dieOf s.blk.core)
      ({ t2 with grp := t2.grp.lateFlags t2.cur f }).keepDraws.endWork h w
        (traces.map fun (x : Nat × Nat) => (32 * w.x + x.1, BitVec.ofNat 32 x.2))

/-- One step of a `desc`: a row is fetched, all before level 0 and in any order, or it runs (R159), after the earlier work
of its group, whose draws come first (R89), and once no region holds a line of its side area (R325). A fault is that of
the lowest row that faults. -/
def State.stepDesc (s : State) (h : Nat) (w : Work) (r : Resv) : State :=
  match w.nextRow s.tick with
  | some m => s.forRow w r m fun s =>
    (match s.rowA w r m with
    | .error (t, dn) => if w.unfetched.head? = some m then s.failWork h w t dn [] else s
    | .ok raw => s.updWork h w fun o => { o with ahead := o.ahead ++ [(m, raw)] })
  | none => if s.blk.drawsFirst w || s.sideHeld w then s else s.runDesc h w r

/-! ## Issue of matrix work (R155, R176, R180) -/

/-- The work that a matrix instruction makes of the register block (R161, R177), with the index registers as it found them
at issue; `State.indexed` says what a row finds in them. RP counts as it stood at issue, also for work that an instruction of
its window writes it under (R57, R177; log entry 40). -/
def State.newWork (s : State) (kind blk n m x sel nIdx : Nat) : Work :=
  { kind := kind, started := false, slot := s.grp.slot, spl := s.cur, pc := s.spl.pc
    words := (List.range 8).map fun j => s.source (8 * blk + j) 0
    blk := blk, n := n, m := m, x := x, sel := sel, gm := s.spl.gm
    index := (List.range nIdx).flatMap fun k => lanes.map fun i => s.source (x + k) i
    row := if kind = 2 then 0 else (s.source (8 * blk + 5) 0).toNat
    stamp := s.tick }

/-- A TRA that the types do not take (R176, R180). -/
def Resv.noTra (r : Resv) : Bool := isBlockType r.ta || r.width < 8

/-- The checks of R176 in order. -/
def Resv.mmaStop (r : Resv) (w : Work) (nIdx : Nat) : Option Nat :=
  if bits (w.word 1) 31 25 != 0 || bits (w.word 7) 31 3 != 0 then some tICONV
  else if (w.tra && r.noTra) || (w.cja && !isComplex r.ta) then some tICONV
  else if (if w.sparse then w.kbi % 2 = 1 || r.kb ≤ w.kbi + 1 else r.kb ≤ w.kbi) then some tICONV
  else if w.cb % 16 != 0 || r.ncol < w.cb + w.N then some tICONV
  else if r.mcap < w.rb + w.M then some tICONV
  else if w.sparse && (isFpClass r.ta || 64 < w.x + nIdx) then some tICONV
  else if r.mode != 1 then some tBANKMODE
  else none

/-- The checks of R180 in order. -/
def Block.descStop (b : Block) (r : Resv) (w : Work) : Option Nat :=
  let n := w.sideSize
  if bits (w.word 1) 31 25 != 0 || bits (w.word 7) 5 1 != 0 || w.depth = 0 || 24 < w.depth || w.side % 8 != 0 ||
      w.cb != 0 || r.kb ≤ w.kbi || r.ncol < w.N || isComplex r.ta || (w.tra && r.noTra) then some tICONV
  else if r.mode != 1 || b.computing w.side n then some tBANKMODE
  else if b.spadSize < w.side + n then some tPROT
  else none

/-- Work issued: it starts at once unless its row slot is taken (R155). -/
def State.postWork (s : State) (r : Resv) (w : Work) : Res :=
  .next (s.updResv r.handle fun r => { r with work := r.work ++ [{ w with started := !r.slotBusy w }] })

/-- Issue of a matrix instruction, a release at block scope towards its A reads (R214). -/
def issueMatrix (w : Work) (stop : Resv → Option Nat) (s : State) : Res :=
  match s.blk.resv w.hnd with
  | none => trapCode s tICONV
  | some r =>
    match stop r with
    | some code => trapCode s code
    | none => if s.quiet then s.postWork r w else .stall .fence

/-- `mma` (R175, R176). -/
def execMma (n : BitVec 6) (m : BitVec 2) (k : BitVec 3) (l : BitVec 4) (s : State) : Host.Outcome State Fault Refusal :=
  gate (.mma n m k l) s fun s =>
    let w := s.newWork 0 k.toNat n.toNat m.toNat 0 0 0
    issueMatrix w (fun r => r.mmaStop w 0) s

/-- `mmas` (R175, R176, R179). -/
def execMmas (n : BitVec 6) (m : BitVec 2) (k : BitVec 3) (x : BitVec 6) (sl : BitVec 3) (l : BitVec 4) (s : State) :
    Host.Outcome State Fault Refusal :=
  gate (.mmas n m k x sl l) s fun s =>
    let nIdx := s.indexRegs k m sl
    let w := s.newWork 1 k.toNat n.toNat m.toNat x.toNat sl.toNat nIdx
    issueMatrix w (fun r => r.mmaStop w nIdx) s

/-- `desc` (R180). -/
def execDesc (n : BitVec 6) (m : BitVec 2) (k : BitVec 3) (x : BitVec 6) (l : BitVec 4) (s : State) :
    Host.Outcome State Fault Refusal :=
  gate (.desc n m k x l) s fun s =>
    let w := s.newWork 2 k.toNat n.toNat m.toNat x.toNat 0 0
    issueMatrix w (fun r => s.blk.descStop r w) s

/-! ## Moves of the arrays (R155) -/

/-- The k-th outstanding work of a block, with its handle. -/
def State.workAt (s : State) (core bslot k : Nat) : Option (Nat × Work) :=
  match s.allBlocks.find? fun b => b.core == core && b.bslot == bslot with
  | none => none
  | some b => (b.resvs.flatMap fun r => r.work.map fun w => (r.handle, w))[k]?

/-- MATRIX_SLOT_TAKEN (R155): a waiting instruction takes its row slot once it is free and is judged again: BANKMODE, or it
starts. -/
def execMatrixSlotTaken (core bslot k : Nat) (s : State) : Host.Outcome State Fault Refusal :=
  match s.workAt core bslot k with
  | none => move s
  | some (h, w) =>
    move (s.atGroup core w.slot w.spl fun t =>
      match t.blk.resv h with
      | none => t
      | some r =>
        if w.started || r.slotBusy w then t
        else if r.mode != 1 || (w.kind = 2 && t.blk.computing w.side w.sideSize) then
          t.failWork h w { code := tBANKMODE } false []
        else t.updWork h w fun o => { o with started := true })

/-- MATRIX_COMPLETION (R149, R152, R174): a started instruction takes its next step, the last of which completes it. -/
def execMatrixCompletion (core bslot k : Nat) (s : State) : Host.Outcome State Fault Refusal :=
  match s.workAt core bslot k with
  | none => move s
  | some (h, w) =>
    if !w.started then move s
    else
      let oldest := !((s.works core).any fun o => o.2.stamp < w.stamp)
      move (s.atGroup core w.slot w.spl fun t =>
        match t.blk.resv h with
        | none => t
        | some r => if w.kind = 2 then t.stepDesc h w r else t.stepMma h w r oldest)

end Sys2Proof.Machine
end

