-- ==== Sys2Proof/Machine/Engine.lean ====
section
/-! DEFINITION. Engine queues: enqueuing, futures, and the commands that copy engines, the collective engine and the
Firkin perform: opcodes 0xD8 to 0xE1 (11_ordering_engines.md R250-R281). A command is performed unit by unit, and the
words that a unit writes one by one (R210). -/

namespace Sys2Proof.Machine

/-! ## Entries (R252) -/

/-- Word `k` of a command entry. -/
def ew (e : List Word) (k : Nat) : Nat := (e.getD k 0).toNat
/-- A 64-bit value in two words of an entry, low word first. -/
def ed (e : List Word) (k : Nat) : Nat := ew e k + ew e (k + 1) * 2 ^ 32
/-- A signed stride (R262). -/
def es (e : List Word) (k : Nat) : Int := (e.getD k 0).toInt
/-- Bits `hi` to `lo` of an entry word. -/
def ef (e : List Word) (k hi lo : Nat) : Nat := bits (e.getD k 0) hi lo

def eXf (e : List Word) : Nat := ef e 8 31 24
def eCkk (e : List Word) : Nat := ef e 8 23 22
def eStart (e : List Word) : Bool := ef e 8 21 21 == 1
def eLast (e : List Word) : Bool := ef e 8 20 20 == 1
def eTa (e : List Word) : Nat := ef e 9 31 27
def eTb (e : List Word) : Nat := ef e 9 26 22
/-- The rounding mode: SR is performed as RNE (R252). -/
def eRm (e : List Word) : Nat := if ef e 9 21 19 = 5 then 0 else ef e 9 21 19
def eSat (e : List Word) : Bool := ef e 9 18 18 == 1
def eBlen (e : List Word) : Nat := ef e 9 17 16
def eXps (e : List Word) : Nat := ef e 9 15 0

/-! ## Checks at issue (R254) -/

/-- The queue that a QN names for a context: its die and index, or ICONV or PROT (R254, checks 1 and 2). -/
def State.queueOf (s : State) (qn : Nat) : Except Nat (Nat × Nat) :=
  match resolveQn (dieOf s.blk.core) qn with
  | none => .error tICONV
  | some (die, q) =>
    if !s.cqEn die q then .error tICONV
    else if s.cqAsid die q != s.blk.asid then .error tPROT
    else .ok (die, q)

/-- The types of `cvt` (R266). -/
def cvtType (t : Nat) : Bool := t ≤ 5 || isIntCode t
/-- The block types that pack and unpack take (R266). -/
def packType (t : Nat) : Bool := 6 ≤ t && t ≤ 10
/-- The plain types of pack and unpack (R266). -/
def plainType (t : Nat) : Bool := t = 0 || t = 2 || t = 3

/-- Is a transform allowed for a kind with its types (R266)? -/
def xfOk (kind xf ta tb : Nat) : Bool :=
  match xf with
  | 0 => true
  | 1 => kind ≤ 1 && isComplex ta
  | 2 => kind = 1 && (ta ≤ 5 || (11 ≤ ta && ta ≤ 19))
  | 3 => kind = 1 && isComplex ta
  | 4 => kind = 0 && cvtType ta && cvtType tb
  | 5 => kind = 0 && plainType ta && packType tb
  | 6 => kind = 0 && packType ta && plainType tb
  | 7 => kind = 1
  | 8 | 9 => kind = 0
  | _ => false

/-- The types of a collective that reduces: R264 names the set for sums only, and the model holds maximum and minimum to it
too (log entry 84). -/
def collType (t : Nat) : Bool := t ≤ 3 || t = 13 || t = 16

/-- Check 3 of R254: reserved fields and fields that the kind does not use. -/
def entryOk (kind : Nat) (e : List Word) : Bool :=
  let xf := eXf e
  let block := if xf = 5 then eTb e else eTa e
  ef e 8 19 16 == 0 && eCkk e != 3 && ef e 9 21 19 ≤ 5 && eBlen e != 3 && xfOk kind xf (eTa e) (eTb e) &&
    (!(eStart e || eLast e) || eCkk e != 0) && (eCkk e == 0 || kind == 0) &&
    (xf == 7 || ew e 10 == 0) &&
    (xf == 7 || (if xf = 5 && eTb e = 10 then eXps e % 2 ^ 14 == 0 else eXps e == 0)) &&
    (!(xf == 5 || xf == 6) || block == 10 || eBlen e == 1)

/-- Does a bank-layout entry fit the reservation that it names (R270)? -/
def Block.bankFits (b : Block) (e : List Word) : Option Resv :=
  match b.resv (eXps e) with
  | none => none
  | some r =>
    let cb := ef e 10 15 0
    if cb % 16 = 0 && ef e 10 31 16 < r.kb && cb + ef e 4 15 0 * 8 / ((matType r.tb).getD (8, 8, 1)).1 ≤ r.ncol &&
        ef e 4 31 16 ≤ r.K && eTb e = r.tb && (isBlockType r.tb || (ed e 2 == 0 && ew e 6 == 0)) then some r
    else none

/-- Check 4 of R254: the kind's own fields (R261-R264, R270). R263 gives E a range of 4 to 256 bytes and ICONV for E/4 = 0 alone:
the model takes E/4 of 65 to 255 as the sizes they name (log entry 98). -/
def State.kindOk (s : State) (kind : Nat) (e : List Word) : Bool :=
  match kind with
  | 0 => ew e 5 == 0 && ew e 6 == 0 && (eXf e == 5 || eXf e == 6 || ew e 7 == 0)
  | 1 => ew e 7 ≤ ef e 4 31 16 && (eXf e != 7 || (s.blk.bankFits e).isSome)
  | 2 => ef e 7 31 8 ≤ ew e 4 && ef e 7 7 0 != 0
  | _ => ef e 6 31 16 != 0 && ef e 6 15 0 < ef e 6 31 16 && ew e 7 ≤ 4 && (ew e 7 == 0 || ew e 7 == 4 || collType (eTa e))

/-- The queues that a `qfence` names, with their sequence numbers (R265). -/
def joinNames (e : List Word) : List (Nat × Nat) :=
  [(ef e 4 15 0, ed e 0), (ef e 4 31 16, ed e 2), (ef e 7 15 0, ed e 5)]

/-- The field checks of a `qfence` in a queue (R265). -/
def State.joinOk (s : State) (die q : Nat) (e : List Word) : Bool :=
  let nq := ef e 7 31 30
  let names := joinNames e
  ef e 8 31 16 == 0 && ew e 9 == 0 && ew e 10 == 0 && ew e 11 == 0 && ef e 7 29 16 == 0 && nq != 0 &&
    (names.drop nq).all (fun x => x.1 == 0 && x.2 == 0) &&
    (names.take nq).all fun x =>
      match s.queueOf x.1 with
      | .error _ => false
      | .ok (d, k) => !(d == die && k == q && s.cqIssued die q + 1 ≤ x.2)

/-! ## Enqueuing (R253, R255) -/

/-- The futures that a core has outstanding (R257). -/
def State.coreFutures (s : State) (core : Nat) : Nat := (s.hub.commands.filter fun c => c.core == core && c.bslot < 64).length

/-- The instance that a rank's next `coll` with an identifier joins: how many of them it has enqueued (R264). -/
def collKey (asid : Nat) (e : List Word) : Nat := (asid * 2 ^ 32 + ew e 5) * 2 ^ 16 + ef e 6 15 0

/-- A command enqueued once its entry is written to the ring (R255). -/
def State.enqueue (s : State) (kind die q : Nat) (d : Reg) (e : List Word) : State :=
  let n := s.cqIssued die q + 1
  let size := 2 ^ s.cqLsz die q
  let s1 := s.setCq die q 4 (BitVec.ofNat 64 n)
  let s2 := s1.setCq die q 1 (setBits (s1.cqWord die q 1) 31 16 ((n + 1) % size))
  let qn := ef e 8 15 0
  { s2 with
    hub := { s2.hub with commands := s2.hub.commands ++
      [{ kind := kind, die := die, qn := q, seq := n, entry := e, core := s.blk.core, slot := s.grp.slot,
         bslot := s.blk.bslot, asid := s.blk.asid,
         inst := if kind = 3 then sget 0 s.hub.collCount (collKey s.blk.asid e) else 0 }],
                          collCount := if kind = 3 then sset 0 s.hub.collCount (collKey s.blk.asid e)
                              (sget 0 s.hub.collCount (collKey s.blk.asid e) + 1) else s.hub.collCount }
    grp := { (s2.setCtl d (BitVec.ofNat 32 (qn * 2 ^ 16 + n % 2 ^ 16))).grp with
      futures := sput d.toNat ⟨s.ctl, die, qn, n⟩ s.grp.futures } }

/-- The five enqueuing instructions (R253-R255), a release over all memory (R211). Every kind may be enqueued on every
queue: R250 and R254 refuse none (log entry 86). -/
def enqueueOp (kind : Nat) (d a : Reg) (p : Perm) (s : State) : Res :=
  let e0 := (List.range 12).map fun k => s.operand (a.toNat + k) p s.ctl
  match s.queueOf (ef e0 8 15 0) with
  | .error code => trapCode s code
  | .ok (die, q) =>
    if !(if kind = 4 then s.joinOk die q e0 else entryOk kind e0 && s.kindOk kind e0) then trapCode s tICONV
    else if !s.quiet then .stall .fence
    else if 2 ^ s.cqLsz die q ≤ s.cqIssued die q - s.cqDone die q || 256 ≤ s.coreFutures s.blk.core then .stall .room
    else
      let n := s.cqIssued die q + 1
      let e := e0 ++ [BitVec.ofNat 32 n, BitVec.ofNat 32 (n / 2 ^ 32), 0x0F000000, 0]
      let va := s.ringSlot die q n
      let page : TrapInfo := { code := tPAGE, lane := s.ctl, fva := BitVec.ofNat 64 va }
      match s.check s.me s.blk.asid va 64 .store s.inHandler with
      | .spad _ => .trap s page
      | .fault code fva _ dn _ => .trap (if dn then s.noteDenial fva else s) { page with code := code, fva := BitVec.ofNat 64 fva }
      | .mem ps =>
        if s.anyHeld ps then .stall .held
        else
          let ws := ps.zip (e.flatMap fun w => bytesOfNat 4 w.toNat)
          s.crossing (ps.map (·.1)) <| .next ((s.perform s.who s.blk.asid s.blk.core ws).enqueue kind die q d e)

/-- `copy` (R253). -/
def execCopy (d a : Reg) (p : Perm) (l : BitVec 4) (s : State) : Host.Outcome State Fault Refusal :=
  gate (.copy d a p l) s (enqueueOp 0 d a p)

/-- `copyx` (R253). -/
def execCopyx (d a : Reg) (p : Perm) (l : BitVec 4) (s : State) : Host.Outcome State Fault Refusal :=
  gate (.copyx d a p l) s (enqueueOp 1 d a p)

/-- `gath` (R253). -/
def execGath (d a : Reg) (p : Perm) (l : BitVec 4) (s : State) : Host.Outcome State Fault Refusal :=
  gate (.gath d a p l) s (enqueueOp 2 d a p)

/-- `coll` (R253). -/
def execColl (d a : Reg) (p : Perm) (l : BitVec 4) (s : State) : Host.Outcome State Fault Refusal :=
  gate (.coll d a p l) s (enqueueOp 3 d a p)

/-- `qfence` (R253). -/
def execQfence (d a : Reg) (p : Perm) (l : BitVec 4) (s : State) : Host.Outcome State Fault Refusal :=
  gate (.qfence d a p l) s (enqueueOp 4 d a p)

/-! ## Queue and future instructions (R275-R279) -/

/-- `cq.seq` (R275). -/
def execCqSeq (d a : Reg) (p : Perm) (l : BitVec 4) (x : BitVec 1) (s : State) : Host.Outcome State Fault Refusal :=
  gate (.cqSeq d a p l x) s fun s =>
    let w := s.operand a.toNat p s.ctl
    if bits w 31 16 != 0 then trapCode s tICONV
    else
      match s.queueOf w.toNat with
      | .error code => trapCode s code
      | .ok (die, q) => .next (s.setPair d.toNat s.ctl (s.cqWord die q (if x = 0 then 3 else 4)))

/-- The command that a handle operand names: die, queue index and sequence number (R258, R275). -/
def withCommand (a : Reg) (p : Perm) (s : State) (f : Nat → Nat → Nat → Res) : Res :=
  let h := s.operand a.toNat p s.ctl
  match s.queueOf (bits h 31 16) with
  | .error code => trapCode s code
  | .ok (die, q) => f die q (fullSeq (s.cqIssued die q) (bits h 15 0))

/-- `fut.wait` (R276). -/
def execFutWait (d a : Reg) (p : Perm) (l : BitVec 4) (s : State) : Host.Outcome State Fault Refusal :=
  gate (.futWait d a p l) s fun s => withCommand a p s fun die q m =>
    if !s.commandDone die q m then .stall .future
    else
      let w := s.statusWord die q m
      let t := match s.grp.futureOf a.toNat with
        | some f => if f.die = die && f.qn % 256 = q && f.seq = m then s.resolveFuture a.toNat f else s
        | none => s
      .next (((t.noteStatus die q m).acquire 2).setCtl d w)

/-- `fut.test` (R277). -/
def execFutTest (d a : Reg) (p : Perm) (l : BitVec 4) (s : State) : Host.Outcome State Fault Refusal :=
  gate (.futTest d a p l) s fun s => withCommand a p s fun die q m =>
    .next (if s.commandDone die q m then ((s.noteStatus die q m).acquire 2).setCtl d (s.statusWord die q m) else s.setCtl d 0xFFFFFFFF)

/-- Is the join of a `qfence` satisfied (R213, R265)? -/
def State.joined (s : State) (c : Command) : Bool :=
  ((joinNames c.entry).take (ef c.entry 7 31 30)).all fun x =>
    match resolveQn (dieOf c.core) x.1 with
    | some (d, k) => x.2 ≤ s.cqDone d k
    | none => false

/-- The oldest command of a queue that has not completed. -/
def State.headCommand (s : State) (die q : Nat) : Option Command :=
  s.hub.commands.find? fun c => c.die == die && c.qn == q

/-- Has a command begun (R259): with its first access, a `qfence` at the head of its queue once its join is satisfied? -/
def State.begun (s : State) (c : Command) : Bool :=
  c.run.isSome || (c.kind == 4 && s.joined c && (s.headCommand c.die c.qn).any (·.seq == c.seq))

/-- A command asked to end CANCELLED, which it does if it has not begun (R259, R278). -/
def Command.cancel (s : State) (c : Command) : Command := { c with cancelled := c.cancelled || !s.begun c }

/-- `fut.cncl` (R278). -/
def execFutCncl (d a : Reg) (p : Perm) (l : BitVec 4) (s : State) : Host.Outcome State Fault Refusal :=
  gate (.futCncl d a p l) s fun s => withCommand a p s fun die q m =>
    if s.commandDone die q m then .next (s.setCtl d 0)
    else
      let cs := s.hub.commands.map fun c =>
        if c.die = die && c.qn = q && c.seq = m then c.cancel s else c
      let ok := cs.any fun c => c.die == die && c.qn == q && c.seq == m && c.cancelled
      .next ({ s with hub := { s.hub with commands := cs } }.setCtl d (BitVec.ofNat 32 ok.toNat))

/-- `fut.mov` (R279). -/
def execFutMov (d a : Reg) (p : Perm) (l : BitVec 4) (s : State) : Host.Outcome State Fault Refusal :=
  gate (.futMov d a p l) s fun s => withCommand a p s fun _ _ _ => .next (s.setCtl d (s.operand a.toNat p s.ctl))

/-! ## What an engine reads and writes -/

/-- A status code with the state in which the failure has been noted. -/
abbrev Failed := Nat × State

/-- A range cut at page boundaries. -/
def pageCuts (va n : Nat) : List (Nat × Nat) :=
  (pagesOf va n).map fun page => (max va page, min (va + n) (page + 4096) - max va page)

/-- The failure that a check's fault stands for (R259, R341). -/
def State.engineFault (s : State) (u : Unit') (asid code fva : Nat) (denied : Bool) : Failed :=
  (if code = tPAGE then 2 else if code = tECC then 7 else 3,
    if denied then s.noteFault u asid fva 1 else s)

/-- The place of a status among the tests of R259: PAGE and PROT before POISON, POISON before LINK. -/
def statusRank (code : Nat) : Nat := if code = 2 || code = 3 then 0 else if code = 8 then 1 else 2

/-- The failure of several that the tests of R259 come to first. -/
def firstFailure : List Failed → Option Failed
  | [] => none
  | e :: rest =>
    match firstFailure rest with
    | none => some e
    | some x => if statusRank x.1 < statusRank e.1 then some x else some e

/-- What several accesses of one unit find: their bytes, or the failure that R259 tests first. -/
def gatherAll {α : Type} (rs : List (Except Failed (List α))) : Except Failed (List α) :=
  match firstFailure (rs.filterMap fun r => match r with
    | .error e => some e
    | .ok _ => none) with
  | some e => .error e
  | none => .ok (rs.flatMap fun r => match r with
    | .ok bs => bs
    | .error _ => [])

/-- Bytes that an engine reads within one page (R259). -/
def State.enginePiece (s : State) (u : Unit') (asid va n : Nat) : Except Failed (List Byte) :=
  if 2 ^ 57 ≤ va || aliasBase < va + n then .error (2, s)
  else
    match s.check u asid va n .load false with
    | .mem ps =>
      if ps.any fun at_ => (s.unreadable asid at_).isSome then .error (8, s) else .ok (ps.map (s.readAt asid))
    | .fault code fva _ dn _ => .error (s.engineFault u asid code fva dn)
    | .spad _ => .error (2, s)

/-- Bytes that an engine reads (R259). -/
def State.engineRead (s : State) (u : Unit') (asid : Nat) (va : Nat) (n : Nat) : Except Failed (List Byte) :=
  gatherAll ((pageCuts (va % 2 ^ 64) n).map fun x => s.enginePiece u asid x.1 x.2)

/-- The places of bytes that an engine writes, checked. -/
def State.engineTargets (s : State) (u : Unit') (asid va n : Nat) : Except Failed (List (Nat × Nat)) :=
  gatherAll ((pageCuts (va % 2 ^ 64) n).map fun x =>
    if 2 ^ 57 ≤ x.1 || aliasBase < x.1 + x.2 then .error (2, s)
    else
      match s.check u asid x.1 x.2 .store false with
      | .mem ps => .ok ps
      | .fault code fva _ dn _ => .error (s.engineFault u asid code fva dn)
      | .spad _ => .error (2, s))

/-- Writes cut into naturally aligned words, in the order they come (R210). -/
def cutWords (ws : List ((Nat × Nat) × Byte)) : List (List ((Nat × Nat) × Byte)) :=
  (distinct (ws.map (·.1.1 / 4))).map fun w => ws.filter (·.1.1 / 4 == w)

/-! ## Units of a command (R259) -/

/-- An access of an engine, before it is made, page by page (R193, R360). -/
def State.touch (s : State) (u : Unit') (asid va n : Nat) : State × List Nat :=
  (pageCuts (va % 2 ^ 64) n).foldl (fun (t : State × List Nat) x =>
    let (v, pas) := t.1.reach u asid x.1 x.2
    (v, t.2 ++ pas)) (s, [])

/-- What a command reads from and writes to, and the unit that does it. A write answers with the words that are still to be
performed. -/
structure Port where
  unit : Unit'
  asid : Nat
  read : State → Nat → Nat → Except Failed (List Byte)
  write : State → Nat → List Byte → Except Failed (State × List (List ((Nat × Nat) × Byte)))

/-- A copy engine's port under an address space: what it writes is checked, and performed word by word (R210). -/
def enginePort (u : Unit') (asid : Nat) : Port :=
  ⟨u, asid, fun s va n => s.engineRead u asid va n,
   fun s va bs =>
    match s.engineTargets u asid va bs.length with
    | .error e => .error e
    | .ok ts => .ok ((s.touch u asid va bs.length).1, cutWords (ts.zip bs))⟩

/-- The failure of a unit that cannot read its source, its destinations of `n` bytes at `d` looked at too: a translation
that fails is tested before an error that the source holds (R259). -/
def Port.worse (io : Port) (s : State) (e : Failed) (dsts : List (Nat × Nat)) : Failed :=
  (firstFailure (e :: dsts.filterMap fun (d, n) => match io.write s d (List.replicate n 0) with
    | .error x => some x
    | .ok _ => none)).getD e

/-- A command under way in a state, with the places that its unit has read. -/
structure Prog extends Run where
  st : State
  pas : List Nat := []

/-- Bytes that a unit reads (R259), its translations cached on the way (R193). -/
def Prog.read (p : Prog) (io : Port) (va n : Nat) : Except Failed (Prog × List Byte) :=
  match io.read p.st va n with
  | .error e => .error e
  | .ok bs =>
    let (t, pas) := p.st.touch io.unit io.asid va n
    .ok ({ p with st := t, pas := p.pas ++ pas }, bs)

/-- The units of a command in ascending order up to the first that fails (R259). -/
def runUnits (step : Nat → Prog → Except Failed Prog) : List Nat → Prog → Prog × Nat
  | [], p => (p, 0)
  | i :: rest, p =>
    match step i p with
    | .error (c, s) => ({ p with st := s }, c)
    | .ok q => runUnits step rest q

/-- Writes of a unit, all of them checked before the first is performed: a unit that fails writes nothing (R259). -/
def writeAll (io : Port) : List (Nat × List Byte) → Prog → Except Failed Prog
  | [], p => .ok p
  | (d, bs) :: rest, p =>
    match io.write p.st d bs with
    | .error e => .error e
    | .ok (t, todo) => writeAll io rest { p with st := t, out := p.out ++ [(d, bs)], todo := p.todo ++ todo }

/-- A unit that has read `got` bytes writes one run of bytes. -/
def Prog.emit (p : Prog) (io : Port) (got dst : Nat) (bs : List Byte) (xlen : Nat) (f : BitVec 6) : Except Failed Prog :=
  writeAll io [(dst, bs)] { p with xlen := xlen, flags := p.flags ||| f, got := p.got + got }

/-! ## Transforms (R266-R268, R271) -/

/-- The bytes of elements of a width, packed (R82). -/
def packBytes (w : Nat) (codes : List Nat) : List Byte :=
  if w = 4 then (List.range (codes.length / 2)).map fun j =>
    BitVec.ofNat 8 (codes.getD (2 * j) 0 + 16 * codes.getD (2 * j + 1) 0)
  else codes.flatMap (bytesOfNat (w / 8))

/-- The imaginary sign bit of each complex element inverted (R266). -/
def conjBytes (e : Nat) (bs : List Byte) : List Byte :=
  (List.range bs.length).map fun j => if j % e = e - 1 then bs.getD j 0 ^^^ 0x80 else bs.getD j 0

/-- Bytes of an element of a type code (R73). -/
def typeBytes (t : Nat) : Nat := if t = 18 then 16 else if t = 17 then 8 else if t = 19 then 1 else (fmtD t).width / 8

/-- The code and flags of one element converted (R267). -/
def convertCode (ta tb rm : Nat) (sat : Bool) (c : Nat) : Nat × BitVec 6 :=
  let x := decodeVal (fmtD ta) c
  match fmtD tb, isIntCode ta, x with
  | .int sg w, true, .fin n m _ =>
    let z : Int := if n then -(m : Int) else m
    if sat then satTo z sg w else ((z % (2 ^ w : Nat)).toNat, 0)
  | T, _, _ => roundTo rm sat 0 x T

/-- Elements of a pack or unpack segment and the length of a block (R268). -/
def segElems (t : Nat) : Nat := 512 / elemWidth t
def segLen (t blen : Nat) : Nat := if t = 10 then 16 * 2 ^ blen else 32

/-- A segment of values packed: element bytes, then scale bytes (R121, R122, R268). -/
def packSegment (tb ty rm blen : Nat) (sat : Bool) (vs : List Val) : List Byte × BitVec 6 :=
  let len := segLen tb blen
  let blocks := (List.range (vs.length / len)).map fun b => (vs.drop (b * len)).take len
  let done := blocks.map fun b =>
    let sc := blockScale tb ty b
    let (E, k, nan) := scaleOf tb sc
    (sc, b.map fun v => if nan then (0, 0) else roundTo rm sat 0 (shiftVal v (-k)) E)
  (packBytes (elemWidth tb) (done.flatMap fun d => d.2.map (·.1)) ++ done.map (fun d => BitVec.ofNat 8 d.1),
    (done.flatMap fun d => d.2.map (·.2)).foldl (· ||| ·) 0)

/-- A segment unpacked to encodings of a plain type (R122, R268); elements of a NaN block as in `mxunp` (log entry 64). -/
def unpackSegment (ta tb rm blen : Nat) (sat : Bool) (raw : List Byte) : List Byte × BitVec 6 :=
  let len := segLen ta blen
  let cs := (List.range (segElems ta)).map fun i =>
    let (E, k, nan) := scaleOf ta (raw.getD (64 + i / len) 0).toNat
    roundTo rm sat 0 (if nan then qNaN else shiftVal (decodeVal E (rowCode raw (elemWidth ta) i)) k) (fmtD tb)
  (packBytes (fmtD tb).width (cs.map (·.1)), (cs.map (·.2)).foldl (· ||| ·) 0)

/-- The line that a header and its stored words stand for (R271). -/
def expandLine (h : Nat) (stored : List Byte) : List Byte :=
  (List.range 16).flatMap fun k =>
    if h / 2 ^ k % 2 = 1 then
      let pos := ((List.range k).filter fun t => h / 2 ^ t % 2 = 1).length
      (List.range 4).map fun j => stored.getD (4 * pos + j) 0
    else [0, 0, 0, 0]

/-- One unit of a `copy` (R261, R266-R268, R271). -/
def copyUnit (io : Port) (e : List Word) (i : Nat) (p : Prog) : Except Failed Prog :=
  let rm := eRm e
  let sat := eSat e
  let ta := eTa e
  let tb := eTb e
  let one := fun (sn dn : Nat) (f : List Byte → List Byte × BitVec 6) =>
    match p.read io (p.src + i * sn) sn with
    | .error x => .error (io.worse p.st x [(p.dst + i * dn, dn)])
    | .ok (p, bs) => p.emit io sn (p.dst + i * dn) (f bs).1 ((i + 1) * dn) (f bs).2
  match eXf e with
  | 1 => one (typeBytes ta) (typeBytes ta) fun bs => (conjBytes (typeBytes ta) bs, 0)
  | 4 => one (typeBytes ta) (typeBytes tb) fun bs =>
      let (c, f) := convertCode ta tb rm sat (natOfBytes bs)
      (bytesOfNat (typeBytes tb) c, f)
  | 5 =>
    let n := segElems tb * typeBytes ta
    match p.read io (p.src + i * n) n with
    | .error x => .error (io.worse p.st x [(p.dst + i * ew e 7, 64 + segElems tb / segLen tb (eBlen e))])
    | .ok (p, bs) =>
      let vs := (List.range (segElems tb)).map fun k => decodeVal (fmtD ta) (rowCode bs (8 * typeBytes ta) k)
      let (out, f) := packSegment tb (eXps e / 2 ^ 14) rm (eBlen e) sat vs
      p.emit io n (p.dst + i * ew e 7) out (i + 1) f
  | 6 =>
    let n := 64 + segElems ta / segLen ta (eBlen e)
    match p.read io (p.src + i * ew e 7) n with
    | .error x => .error (io.worse p.st x [(p.dst + i * (segElems ta * typeBytes tb), segElems ta * typeBytes tb)])
    | .ok (p, bs) =>
      let (out, f) := unpackSegment ta tb rm (eBlen e) sat bs
      p.emit io n (p.dst + i * out.length) out (i + 1) f
  | 8 =>
    match p.read io (p.src + i * 64) 64 with
    | .error x => .error (io.worse p.st x [(p.dst + p.xlen, 4)])
    | .ok (p, bs) => p.emit io 64 (p.dst + p.xlen) (compressLine bs) (p.xlen + (compressLine bs).length) 0
  | 9 =>
    match p.read io p.src 4 with
    | .error x => .error (io.worse p.st x [(p.dst + 64 * i, 64)])
    | .ok (p, hd) =>
      let h := natOfBytes hd
      let n := 4 * popCount (BitVec.ofNat 16 h)
      let bad := h / 65536 != 65535 - h % 65536
      match (if bad then .ok (p, []) else p.read io (p.src + 4) n) with
      | .error x => .error (io.worse p.st x [(p.dst + 64 * i, 64)])
      | .ok (p, ws) =>
        match p.emit io (4 + n) (p.dst + 64 * i) (if bad then List.replicate 64 0 else expandLine h ws) (64 * (i + 1)) 0 with
        | .error x => .error x
        | .ok q => .ok { q with src := p.src + 4 + n, bads := if bad then p.bads ++ [i] else p.bads }
  | _ => one 4 4 fun bs => (bs, 0)

/-- The number of units of a `copy` (R261). -/
def copyUnits (e : List Word) (size : Nat) : Nat :=
  match eXf e with
  | 1 | 4 => size / typeBytes (eTa e)
  | 5 => size / (segElems (eTb e) * typeBytes (eTa e))
  | 6 => size / (segElems (eTa e) * typeBytes (eTb e))
  | 8 | 9 => size / 64
  | _ => size / 4

/-- Are the size and alignment of a `copy` right (R260, R266-R268, R271)? -/
def copySized (e : List Word) (src dst size : Nat) : Bool :=
  src % 4 == 0 && dst % 4 == 0 && size % 4 == 0 &&
    match eXf e with
    | 1 => size % typeBytes (eTa e) == 0
    | 4 =>
      let a := typeBytes (eTa e)
      let b := typeBytes (eTb e)
      size % a == 0 && size % b == 0 && size / a * b % 4 == 0 && size / a * b % a == 0
    | 5 =>
      size % (segElems (eTb e) * typeBytes (eTa e)) == 0 && ew e 7 % 4 == 0 &&
        64 + segElems (eTb e) / segLen (eTb e) (eBlen e) ≤ ew e 7
    | 6 =>
      size % (segElems (eTa e) * typeBytes (eTb e)) == 0 && ew e 7 % 4 == 0 &&
        64 + segElems (eTa e) / segLen (eTa e) (eBlen e) ≤ ew e 7
    | 8 | 9 => size % 64 == 0
    | _ => true

/-! ## Rows and elements (R262, R263, R270) -/

/-- The bank form of a B element: the bytes of each part and its tag (R269). -/
def bankForm (tb c : Nat) : List (List Byte × BitVec 12) :=
  let tagged := fun (F : Fmt) (wb c : Nat) =>
    let f := c % 2 ^ F.frac
    let ex := c / 2 ^ F.frac % 2 ^ F.expBits
    let sg := c / 2 ^ (F.frac + F.expBits) % 2
    (bytesOfNat wb (if ex = 0 then f else f + 2 ^ F.frac), BitVec.ofNat 12 (sg * 2048 + ex))
  if tb = 17 then [tagged .f32 3 (c % 2 ^ 32), tagged .f32 3 (c / 2 ^ 32)]
  else if tb = 18 then [tagged .f64 7 (c % 2 ^ 64), tagged .f64 7 (c / 2 ^ 64)]
  else if tb ≤ 3 then [tagged (fmtD tb) ((matType tb).getD (8, 8, 1)).2.2 c]
  else [(bytesOfNat ((matType tb).getD (8, 8, 1)).2.2 c, 0)]

/-- The bytes and tags that an element of a row writes, by scratchpad offset (R141, R269). -/
def Resv.elemWrites (r : Resv) (j k n c : Nat) : List (Nat × Byte × BitVec 12) :=
  let bs := (bankForm r.tb c).flatMap fun (bytes, tag) =>
    (numbered bytes).map fun (t, v) => (v, if t = 0 then tag else 0)
  (List.range bs.length).map fun t => (r.place j k (n * r.wb + t), bs.getD t (0, 0))

/-- Bank-form bytes written with their tags. -/
def State.writeBank (s : State) (core bslot : Nat) (ws : List (Nat × Byte × BitVec 12)) : State :=
  s.atBlock core bslot fun t =>
    let u := t.performSpad none (ws.map fun w => (w.1, w.2.1))
    { u with blk := { u.blk with tags := ws.foldl (fun m w => sset 0 m w.1 w.2.2) u.blk.tags } }

/-- A row that has been read written to the bank. -/
def Prog.wrote (p : Prog) (core bslot : Nat) (ws : List (Nat × Byte × BitVec 12)) (raw : List Byte) (xlen : Nat) : Prog :=
  { p with st := p.st.writeBank core bslot ws, xlen := xlen, got := p.got + raw.length, out := p.out ++ [(0, raw)] }

/-- One unit of a `copyx` with the bank-layout transform (R270): an element row, or a scale row after them. An RB that is no
multiple of the element's bytes gives the whole elements that it holds; R270 says nothing of the rest (log entry 98). -/
def bankUnit (io : Port) (e : List Word) (core bslot : Nat) (r : Resv) (i : Nat) (p : Prog) : Except Failed Prog :=
  let rows := ef e 4 31 16
  let rb := ef e 4 15 0
  let j := ef e 10 31 16
  let cb := ef e 10 15 0
  let w := ((matType r.tb).getD (8, 8, 1)).1
  let cols := rb * 8 / w
  if i < rows then
    if ew e 7 ≤ i then .ok { p with xlen := i + 1 }
    else
      match p.read io (((p.src : Int) + i * es e 5) % (2 ^ 64 : Nat)).toNat rb with
      | .error x => .error x
      | .ok (p, raw) =>
        let ws := (List.range cols).flatMap fun n => r.elemWrites j i (cb + n) (rowCode raw w n)
        .ok (p.wrote core bslot ws raw (i + 1))
  else
    match p.read io (((p.dst : Int) + (i - rows : Nat) * es e 6) % (2 ^ 64 : Nat)).toNat cols with
    | .error x => .error x
    | .ok (p, raw) =>
      let ws := (numbered raw).map fun (n, v) => (r.scalePlace j (i - rows) (cb + n), v, (0 : BitVec 12))
      .ok (p.wrote core bslot ws raw (i + 1))

/-- One row of a `copyx` (R262, R266). -/
def rowUnit (io : Port) (e : List Word) (i : Nat) (p : Prog) : Except Failed Prog :=
  let rb := ef e 4 15 0
  if ew e 7 ≤ i then .ok { p with xlen := i + 1 }
  else
    let n := typeBytes (eTa e)
    let parts : List (Nat × Nat × Nat) :=
      if eXf e = 2 || eXf e = 3 then
        (List.range (rb / n)).map fun (k : Nat) =>
          ((((p.dst : Int) + (k : Int) * es e 6 + (i * n : Nat)) % (2 ^ 64 : Nat)).toNat, k * n, n)
      else [((((p.dst : Int) + i * es e 6) % (2 ^ 64 : Nat)).toNat, 0, rb)]
    match p.read io (((p.src : Int) + i * es e 5) % (2 ^ 64 : Nat)).toNat rb with
    | .error x => .error (io.worse p.st x (parts.map fun x => (x.1, x.2.2)))
    | .ok (p, raw0) =>
      let raw := if eXf e = 1 || eXf e = 3 then conjBytes n raw0 else raw0
      writeAll io (parts.map fun x => (x.1, (raw.drop x.2.1).take x.2.2)) { p with xlen := i + 1, got := p.got + rb }

/-- Are the size and alignment of a `copyx` right (R260, R266)? -/
def rowsSized (e : List Word) : Bool :=
  let rb := ef e 4 15 0
  let n := typeBytes (eTa e)
  ew e 0 % 4 == 0 && ew e 2 % 4 == 0 && ew e 5 % 4 == 0 && ew e 6 % 4 == 0 && rb % 4 == 0 &&
    match eXf e with
    | 1 => rb % n == 0
    | 2 | 3 => rb % n == 0 && ef e 4 31 16 * n % 4 == 0
    | _ => true

/-- One element of a `gath` (R263). P0 is taken as the low word of IDX, P1 as the high one (log entry 82). -/
def gatherUnit (io : Port) (e : List Word) (i : Nat) (p : Prog) : Except Failed Prog :=
  let n := 4 * ef e 7 7 0
  let dst := (p.dst + i * n) % 2 ^ 64
  match p.read io (ed e 5 + 4 * i) 4 with
  | .error x => .error (io.worse p.st x [(dst, n)])
  | .ok (p, ix) =>
    let idx := natOfBytes ix
    match (if idx = 0xFFFFFFFF then .ok (p, List.replicate n 0) else p.read io ((p.src + idx * n) % 2 ^ 64) n) with
    | .error x => .error (io.worse p.st x [(dst, n)])
    | .ok (p, bs) => p.emit io n dst bs (n * (i + 1)) 0

/-! ## Checksums (R274) -/

/-- The reflected Castagnoli update of one byte, least significant bit first (R274). -/
def crcByte (c : BitVec 32) (b : Byte) : BitVec 32 :=
  (List.range 8).foldl (fun (c : BitVec 32) _ =>
    if c.getLsbD 0 then (c >>> 1) ^^^ 0x82F63B78 else c >>> 1) (c ^^^ b.setWidth 32)

/-- The words that writes fold, in ascending address order, bytes not written as zero (R274). -/
def foldedWords (out : List (Nat × List Byte)) : List Word :=
  let bytes := out.flatMap fun (d, bs) => (numbered bs).map fun (j, v) => (d + j, v)
  let rec go : List (Nat × Byte) → Option (Nat × Word) → List Word
    | [], none => []
    | [], some (_, w) => [w]
    | (a, v) :: rest, none => go rest (some (a / 4, v.setWidth 32 <<< (8 * (a % 4))))
    | (a, v) :: rest, some (k, w) =>
      let x : Word := v.setWidth 32 <<< (8 * (a % 4))
      if a / 4 = k then go rest (some (k, w ||| x)) else w :: go rest (some (a / 4, x))
  go bytes none

/-- CKRUN and CKIDX after more words (R274). -/
def foldWords (kind : Nat) (run : Word) (idx : Nat) : List Word → Word × Nat
  | [] => (run, idx)
  | w :: rest =>
    let run1 := if kind = 1 then (bytesOfNat 4 w.toNat).foldl crcByte run else run + w.rotateLeft (idx % 32)
    foldWords kind run1 (idx + 1) rest

/-- Does a status leave the checksum bad (R274)? -/
def spoils (code : Nat) : Bool := code = 1 || code = 2 || code = 3 || code = 6 || code = 7 || code = 8

/-- The checksum state of a queue after a command, and whether the command ends with CHECK (R274). -/
def State.checksum (s : State) (c : Command) (code : Nat) (out : List (Nat × List Byte)) : State × Bool :=
  let kind := eCkk c.entry
  if kind = 0 then (s, false)
  else
    let w1 := s.cqWord c.die c.qn 1
    if spoils code then (s.setCq c.die c.qn 1 (setBits w1 2 2 1), false)
    else
      let st := eStart c.entry
      let w7 := s.cqWord c.die c.qn 7
      let mismatch := !st && bits w1 4 3 != kind
      let bad := if st then false else w1.getLsbD 2 || mismatch
      let run0 : Word := if st then (if kind = 1 then 0xFFFFFFFF else 0) else low32 w7
      let idx0 := if st then 0 else (high32 w7).toNat
      let (run, idx) := if mismatch then (run0, idx0) else foldWords kind run0 idx0 (foldedWords out)
      let s1 := s.setCq c.die c.qn 1 (setBits (setBits w1 4 3 (if st then kind else bits w1 4 3)) 2 2 bad.toNat)
      let s2 := s1.setCq c.die c.qn 7 (join64 run (BitVec.ofNat 32 idx))
      let want := if kind = 1 then run ^^^ 0xFFFFFFFF else run
      (s2, eLast c.entry && (bad || want != c.entry.getD 11 0))

/-! ## Completion (R259, R272, R273) -/

/-- The queue number of queue q of a die, the hub's die 40; on a K-die that of its own cores (R250). -/
def queueNumber (die q : Nat) : Nat := if die < 32 then q else if die < 40 then 4096 + 256 * (die - 32) + q else 8192 + q

/-- A write that an engine makes on its own account: dropped with SWF and the event QERR where it may not (R273). -/
def State.ownWrite (s : State) (die q kind va : Nat) (bs : List Byte) : State × Bool :=
  let asid := s.cqAsid die q
  let u := s.engineOf die q
  let drop := fun (t : State) =>
    ((t.setCq die q 1 (setBits (t.cqWord die q 1) 1 1 1)).event (t.vfOf asid) 7 (t.tagOf asid)
      (BitVec.ofNat 64 (queueNumber die q + kind * 2 ^ 16)) (BitVec.ofNat 64 va), false)
  match s.engineTargets u asid va bs.length with
  | .error (_, t) => drop t
  | .ok ts => (s.perform none asid 9999 (ts.zip bs), true)

/-- Are the lines that a command's completion writes held: its ring slot, the sequence word, the list (R325, R333)? -/
def State.completionHeld (s : State) (c : Command) (bads : List Nat) : Bool :=
  let slot := s.ringSlot c.die c.qn c.seq
  let bcn := (low32 (s.cqWord c.die c.qn 6)).toNat
  let list := (List.range bads.length).map fun k => ((s.cqWord c.die c.qn 5).toNat + 16 * (bcn + k), 16)
  ((slot + 56, 8) :: ((s.cqWord c.die c.qn 2).toNat, 8) :: list).any fun w =>
    match s.engineTargets (s.engineOf c.die c.qn) (s.cqAsid c.die c.qn) w.1 w.2 with
    | .ok ts => ts.any fun at_ => s.lineHeld none false (at_.1 / 64)
    | .error _ => false

/-- Bad chunks appended to the queue's list (R272). -/
def State.appendBads (s : State) (die q n : Nat) : List Nat → State
  | [] => s
  | k :: rest =>
    let w6 := s.cqWord die q 6
    let bcn := (low32 w6).toNat
    if (high32 w6).toNat ≤ bcn then s
    else
      let (t, ok) := s.ownWrite die q 2 ((s.cqWord die q 5).toNat + 16 * bcn) (bytesOfNat 8 n ++ bytesOfNat 8 k)
      (if ok then t.setCq die q 6 (join64 (BitVec.ofNat 32 (bcn + 1)) (high32 w6)) else t).appendBads die q n rest

/-- A command's completion writes, in the order of R259: entry words 14 and 15, bad chunks, DONE, the sequence word. -/
def State.complete (s : State) (c : Command) (code xlen : Nat) (flags : BitVec 6) (bads : List Nat) : State :=
  let w14 := code * 2 ^ 24 + flags.toNat * 2 ^ 16 + min bads.length 65535
  let slot := s.ringSlot c.die c.qn c.seq
  let s0 := if code = 7 then s.countError 9 true else s
  let (s1, _) := s0.ownWrite c.die c.qn 4 (slot + 56) (bytesOfNat 4 w14 ++ bytesOfNat 4 xlen)
  let s2 := s1.appendBads c.die c.qn c.seq bads
  let s3 := s2.setCq c.die c.qn 3 (BitVec.ofNat 64 c.seq)
  let s4 := s3.setCq c.die c.qn 1 (setBits (s3.cqWord c.die c.qn 1) 47 32 ((c.seq + 1) % 2 ^ s.cqLsz c.die c.qn))
  let (s5, _) := s4.ownWrite c.die c.qn 1 (s4.cqWord c.die c.qn 2).toNat (bytesOfNat 8 c.seq)
  { s5 with hub := { s5.hub with commands := s5.hub.commands.filter fun d =>
    !(d.die == c.die && d.qn == c.qn && d.seq == c.seq) } }

/-- A command that ends without a run: a `qfence`, or CANCELLED, SIZE or PROT before anything is written (R259). Its entry
and its completion are charged (R350). -/
def State.closeCommand (s : State) (c : Command) (code : Nat) : State :=
  ((s.checksum c code []).1.chargeTraffic c.asid c.die).complete c code 0 0 []

/-- The same, unless a line that its completion writes is held. -/
def State.endCommand (s : State) (c : Command) (code : Nat) : State :=
  if s.completionHeld c [] then s else s.closeCommand c code

/-- The energy of bytes moved and transformed for a context on a die, as far as they came (R350, R351). -/
def State.chargeMoves (s : State) (asid die xf : Nat) (r : Run) : State :=
  let s1 := (s.charge asid die 14 (((r.out.flatMap (·.2)).length + 63) / 64)).chargeTraffic asid die
  if xf = 0 then s1 else s1.charge asid die 15 ((r.got + 63) / 64)

/-- The energy of a command's work: bytes moved, source bytes transformed, or combined for a collective (R350, R351). -/
def State.chargeCommand (s : State) (c : Command) (r : Run) : State :=
  let units := fun (n : Nat) => (n + 63) / 64
  if c.kind = 3 then
    (s.charge c.asid c.die 20 (units (ew c.entry 4) + units (r.out.flatMap (·.2)).length)).chargeTraffic c.asid c.die
  else s.chargeMoves c.asid c.die (eXf c.entry) r

/-- A command that has run, from `s`, to a stop: the status in the order of R259, the checksum, the completion. It waits
while a line that its completion writes is held. -/
def State.finish (s : State) (c : Command) (p : Prog) (stop xlen : Nat) : State :=
  if s.completionHeld c p.bads then s
  else
    let (s1, bad) := p.st.checksum c stop p.out
    let code := if stop != 0 then stop else if bad then 4 else if p.bads.isEmpty then 0 else 5
    (s1.chargeCommand c p.toRun).complete c code xlen p.flags p.bads

/-- The progress of a command that has begun (R259). -/
def State.setRun (s : State) (c : Command) (r : Run) : State :=
  { s with hub := { s.hub with commands := s.hub.commands.map fun d =>
    if d.die = c.die && d.qn = c.qn && d.seq = c.seq then { d with run := some r } else d } }

/-- A core of a die by whose links its engines' accesses go (R374); the hub's own cross no die link. -/
def coreOfDie (die : Nat) : Nat := if die < 32 then 16 * die else if die < 40 then 512 + 16 * (die - 32) else 9999

/-- The links of a command's accesses that sleep woken (R374). -/
def State.wakeFor (s : State) (c : Command) (pas : List Nat) : State :=
  pas.foldl (fun (t : State) pa => t.wakeWay c.asid (coreOfDie c.die) pa) s

/-- May a command's accesses cross their links now (R371, R373, R374)? -/
def State.wayClear (s : State) (c : Command) (pas : List Nat) : Bool := pas.all (s.wayOpen c.asid (coreOfDie c.die))

/-- Is a word of a command refused at its home: by a key slot or a granule that is not what it was when the word was checked
(R341, R346)? -/
def State.wordRefused (s : State) (c : Command) (at_ : Nat × Nat) : Bool :=
  targetOf at_.1 == .hbm && match exportOf at_.2 with
    | some i => !s.exportPasses (s.exportWord i 0) at_.1 .store
    | none => !s.passes c.asid (s.engineOf c.die c.qn) at_.1 .store

/-- One step of a command: the next word of its last unit is performed, unless its line is held, or its next unit is
made, or it completes (R210, R259). Links on the way that sleep are woken first (R374). -/
def State.stepRun (s : State) (c : Command) (r : Run) (unit : Nat → Prog → Except Failed Prog) (total : Nat)
    (full : Run → Nat) : State :=
  match r.todo with
  | ws :: rest =>
    if !s.wayClear c (ws.map (·.1.1)) then s.wakeFor c (ws.map (·.1.1))
    else if ws.any fun w => s.lineHeld none false (w.1.1 / 64) then s
    else
      match ws.find? fun w => s.wordRefused c w.1 with
      | some w => s.finish c ⟨{ r with todo := [] }, s.denied c.asid w.1.1 1, []⟩ 3 r.was
      | none => ((s.perform none c.asid 9999 ws).sendFlits c.asid (ws.map (·.1.1))).setRun c { r with todo := rest }
  | [] =>
    if total ≤ r.unit then s.finish c ⟨r, s, []⟩ 0 (full r)
    else
      match unit r.unit ⟨r, s, []⟩ with
      | .error (code, t) => s.finish c ⟨r, t, []⟩ code r.xlen
      | .ok p =>
        if s.wayClear c p.pas then (p.st.sendFlits c.asid p.pas).setRun c { p.toRun with unit := r.unit + 1, was := r.xlen } else s.wakeFor c p.pas

/-- The progress of a command, at its beginning where it has none. -/
def Command.progress (c : Command) : Run := c.run.getD { src := ed c.entry 0, dst := ed c.entry 2 }

/-- One step of a `copy` (R261). XLEN at OK is SIZE for every transform but compression, as the list of R259 says, also for
pack and unpack, of which its table counts segments, and for `cvt` (log entry 83). -/
def State.stepCopy (s : State) (c : Command) : State :=
  let e := c.entry
  let size := ew e 4
  if !copySized e (ed e 0) (ed e 2) size then s.endCommand c 1
  else
    s.stepRun c c.progress (copyUnit (enginePort (s.engineOf c.die c.qn) c.asid) e) (copyUnits e size)
      fun r => if eXf e = 8 then r.xlen else size

/-- The rows of a bank-layout `copyx`: element rows, then the scale rows of a block type (R259, R270). -/
def bankRows (e : List Word) (r : Resv) : Nat :=
  ef e 4 31 16 + if isBlockType r.tb && ef e 4 31 16 != 0 then r.K / r.L else 0

/-- Has a bank-layout `copyx` a byte to write (R137, R260)? -/
def bankBytes (e : List Word) (r : Resv) : Bool := ef e 4 15 0 != 0 && (ew e 7 != 0 || ef e 4 31 16 < bankRows e r)

/-- The reservation that a bank-layout `copyx` writes: the one its handle names when it begins, which must take it
(R137, R270), and that one from then on. -/
def State.bankOf (s : State) (c : Command) : Option Resv :=
  match s.allBlocks.find? fun b => b.core == c.core && b.bslot == c.bslot && b.asid == c.asid with
  | none => none
  | some b =>
    match c.run with
    | some r => r.geom.map fun g => { w0 := g.1, w1 := g.2 }
    | none =>
      match b.bankFits c.entry with
      | none => none
      | some r => if r.mode != 0 && bankBytes c.entry r then none else some r

/-- Does a region that holds its lines watch the scratchpad lines of a row that a bank-layout `copyx` comes to (R325)? -/
def State.bankHeld (s : State) (c : Command) (r : Resv) (i : Nat) : Bool :=
  let e := c.entry
  let cols := ef e 4 15 0 * 8 / ((matType r.tb).getD (8, 8, 1)).1
  let offs := (List.range cols).flatMap fun n =>
    if i < ef e 4 31 16 then (r.elemWrites (ef e 10 31 16) i (ef e 10 15 0 + n) 0).map (·.1)
    else [r.scalePlace (ef e 10 31 16) (i - ef e 4 31 16) (ef e 10 15 0 + n)]
  match s.focusBlock c.core c.bslot with
  | some t => (distinct (offs.map (· / 64))).any fun l => t.lineHeld none true l
  | none => false

/-- One step of a `copyx` (R262, R270). -/
def State.stepRows (s : State) (c : Command) : State :=
  let e := c.entry
  let io := enginePort (s.engineOf c.die c.qn) c.asid
  if !rowsSized e then s.endCommand c 1
  else if eXf e = 7 then
    match s.bankOf c with
    | none => s.finish c ⟨c.progress, s, []⟩ 3 c.progress.xlen
    | some r =>
      if s.bankHeld c r c.progress.unit then s
      else s.stepRun c { c.progress with geom := some (r.w0, r.w1) } (bankUnit io e c.core c.bslot r) (bankRows e r)
        fun _ => bankRows e r
  else s.stepRun c c.progress (rowUnit io e) (ef e 4 31 16) fun _ => ef e 4 31 16

/-- One step of a `gath` (R263). -/
def State.stepGather (s : State) (c : Command) : State :=
  let e := c.entry
  if ew e 0 % 4 != 0 || ew e 2 % 4 != 0 || ew e 5 % 4 != 0 then s.endCommand c 1
  else
    s.stepRun c c.progress (gatherUnit (enginePort (s.engineOf c.die c.qn) c.asid) e) (ef e 7 31 8)
      fun _ => ew e 4 * (4 * ef e 7 7 0)

/-- The oldest command of a queue takes a step if it is of a kind: CANCELLED where it was cancelled (R259). -/
def State.perform1 (s : State) (die q kind : Nat) (run : Command → State) : State :=
  match s.headCommand die q with
  | none => s
  | some c => if c.kind != kind then s else if c.cancelled then s.endCommand c 6 else run c

/-- LINEAR_COPY (R261). -/
def execLinearCopy (die qn : Nat) (s : State) : Host.Outcome State Fault Refusal := move (s.perform1 die qn 0 s.stepCopy)

/-- STRIDED_COPY (R262). -/
def execStridedCopy (die qn : Nat) (s : State) : Host.Outcome State Fault Refusal := move (s.perform1 die qn 1 s.stepRows)

/-- INDEXED_GATHER (R263). -/
def execIndexedGather (die qn : Nat) (s : State) : Host.Outcome State Fault Refusal := move (s.perform1 die qn 2 s.stepGather)

/-- JOIN_OF_QUEUES (R213). -/
def execJoinOfQueues (die qn : Nat) (s : State) : Host.Outcome State Fault Refusal :=
  move (s.perform1 die qn 4 fun c => if s.joined c then s.endCommand c 0 else s)

/-! ## Collectives (R264) -/

/-- The number of participants, rank, identifier and operation of a contribution. -/
def cNp (c : Command) : Nat := ef c.entry 6 31 16
def cRank (c : Command) : Nat := ef c.entry 6 15 0
def cIdent (c : Command) : Nat := ew c.entry 5
def cOp (c : Command) : Nat := ew c.entry 7

/-- The contributions of each rank to an instance of a collective of an address space, ranks ascending; `none` where one
lacks, be it not enqueued yet or cancelled. Of ranks that disagree on NP each goes by its own (log entry 84). -/
def State.collMembers (s : State) (c0 : Command) : Option (List Command) :=
  let cs := s.hub.commands.filter fun c =>
    c.kind == 3 && c.asid == c0.asid && cIdent c == cIdent c0 && c.inst == c0.inst && !c.cancelled
  (List.range (cNp c0)).foldr (fun r acc =>
    match acc, cs.find? (fun c => cRank c == r) with
    | some l, some c => some (c :: l)
    | _, _ => none) (some [])

/-- May every member's command begin: are the commands before it in its queue members themselves (R210)? -/
def State.canBegin (s : State) (ms : List Command) : Bool :=
  ms.all fun m => s.hub.commands.all fun c =>
    !(c.die == m.die && c.qn == m.qn && c.seq < m.seq) || ms.contains c

/-- Element `i` of a reduction over the ranks' bytes: code and flags (R264). -/
def reduceCodes (op ta rm : Nat) (sat : Bool) (codes : List Nat) : Nat × BitVec 6 :=
  let T := fmtD ta
  let vs := codes.map (decodeVal T)
  match T with
  | .int sg w =>
    let zs := vs.map fun v => match v with
      | .fin n m _ => if n then -(m : Int) else m
      | _ => 0
    let z := match op with
      | 1 => zs.foldl (· + ·) 0
      | 2 => (zs.drop 1).foldl max (zs.headD 0)
      | _ => (zs.drop 1).foldl min (zs.headD 0)
    if sat then satTo z sg w else ((z % (2 ^ w : Nat)).toNat, 0)
  | _ =>
    if op = 1 then
      let (z, bad) := sumVals rm vs
      let (c, f) := roundTo rm sat 0 z T
      (c, f ||| ivIf (bad || vs.any Val.isSig))
    else ((chooseAll (op == 3) T codes).getD 0, ivIf (vs.any Val.isSig))

/-- What each rank's DST receives from all ranks' bytes, with flags (R264). RM and SAT are those of rank 0's entry, also where
ranks disagree on them, of which R264 says nothing (log entry 84). -/
def collResult (c : Command) (srcs : List (List Byte)) : List Byte × BitVec 6 :=
  match cOp c with
  | 0 => (srcs.headD [], 0)
  | 4 => (srcs.flatten, 0)
  | op =>
    let n := typeBytes (eTa c.entry)
    let outs := (List.range (ew c.entry 4 / n)).map fun i =>
      reduceCodes op (eTa c.entry) (eRm c.entry) (eSat c.entry) (srcs.map fun b => natOfBytes ((b.drop (i * n)).take n))
    (outs.flatMap fun o => bytesOfNat n o.1, (outs.map (·.2)).foldl (· ||| ·) 0)

/-- The ranks whose SRC an operation reads: all, but rank 0 alone for a broadcast (R264). -/
def collReaders (ms : List Command) : List Command := if (ms.head?.map cOp) == some 0 then ms.take 1 else ms

/-- The sources of an run, rank by rank, or the first failure. -/
def State.collSources (s : State) (ms : List Command) : Except Failed (List (List Byte)) :=
  gatherAll ((collReaders ms).map fun m =>
    match s.engineRead (s.engineOf m.die m.qn) m.asid (ed m.entry 0) (ew m.entry 4) with
    | .ok bs => .ok [bs]
    | .error e => .error e)

/-- The bytes that a rank's DST receives (R264). -/
def collBytes (m : Command) : Nat := if cOp m = 4 then cNp m * ew m.entry 4 else ew m.entry 4

/-- The end of every member where a source has failed: a member whose own DST fails a test that comes before is told that
(R259). -/
def failColl (ms : List Command) (e : Failed) : State :=
  ms.foldl (fun (t : State) m =>
    match t.engineTargets (t.engineOf m.die m.qn) m.asid (ed m.entry 2) (collBytes m) with
    | .ok _ => t.closeCommand m e.1
    | .error x => if statusRank x.1 < statusRank e.1 then x.2.closeCommand m x.1 else t.closeCommand m e.1) e.2

/-- One word of a rank's result (R210, R264). -/
def collUnit (io : Port) (i : Nat) (p : Prog) : Except Failed Prog :=
  p.emit io 0 (p.dst + 4 * i) ((p.data.drop (4 * i)).take 4) (4 * i + 4) 0

/-- One step of a contribution whose instance has begun. XLEN at OK is SIZE, of a gather too, as the list of R259 says; its
table counts bytes of DST written (log entry 83). -/
def State.stepColl (s : State) (c : Command) (r : Run) : State :=
  s.stepRun c r (collUnit (enginePort (s.engineOf c.die c.qn) c.asid)) (r.data.length / 4) fun _ => ew c.entry 4

/-- Do the ranks agree, and are their sizes and alignments right (R260, R264)? A reduction whose SIZE is no multiple of its
element is one that is not, and so is an instance of which one rank's SRC or DST is misaligned: every rank of it ends SIZE (log
entry 84). -/
def collSized (ms : List Command) : Bool :=
  match ms with
  | [] => false
  | c :: _ =>
    ms.all fun m => ew m.entry 4 == ew c.entry 4 && cOp m == cOp c && eTa m.entry == eTa c.entry &&
      ew m.entry 0 % 4 == 0 && ew m.entry 2 % 4 == 0 && ew m.entry 4 % 4 == 0 &&
      (cOp c == 0 || cOp c == 4 || ew m.entry 4 % typeBytes (eTa c.entry) == 0)

/-- An instance begins once every rank has arrived and its commands are the next of their queues: the sources are read,
and each rank's result is due. Ranks that disagree complete SIZE (R264). -/
def State.beginColl (s : State) (c0 : Command) : State :=
  match s.collMembers c0 with
  | none => s
  | some ms =>
    let every := fun (t : State) (code : Nat) => if ms.any fun m => s.completionHeld m [] then s
      else ms.foldl (fun (t : State) m => t.closeCommand m code) t
    if !s.canBegin ms then s
    else if !collSized ms then every s 1
    else
      let reach := fun (m : Command) => s.touch (s.engineOf m.die m.qn) m.asid (ed m.entry 0) (ew m.entry 4)
      match (collReaders ms).find? fun m => !s.wayClear m (reach m).2 with
      | some m => s.wakeFor m (reach m).2
      | none =>
      match s.collSources ms with
      | .error e => if ms.any fun m => s.completionHeld m [] then s else failColl ms e
      | .ok srcs =>
        let (out, f) := collResult (ms.headD c0) srcs
        let t := (collReaders ms).foldl (fun (t : State) m =>
          let (u, pas) := t.touch (t.engineOf m.die m.qn) m.asid (ed m.entry 0) (ew m.entry 4)
          u.sendFlits m.asid pas) s
        ms.foldl (fun (t : State) m => t.setRun m { m.progress with data := out, flags := f }) t

/-- COLLECTIVE_INSTANCE (R264): a step of the oldest contribution with an identifier in a queue; queue q of die e is
numbered 256 e + q, the hub's die 40. -/
def execCollectiveInstance (qn ident : Nat) (s : State) : Host.Outcome State Fault Refusal :=
  match s.hub.commands.find? fun c => c.die == qn / 256 && c.qn == qn % 256 && c.kind == 3 && cIdent c == ident with
  | none => move s
  | some c0 =>
    if c0.cancelled then move (s.perform1 (qn / 256) (qn % 256) 3 fun _ => s)
    else
      match c0.run with
      | some r => move (s.stepColl c0 r)
      | none => move (s.beginColl c0)

end Sys2Proof.Machine
end

