-- ==== Sys2Proof/Machine/Save.lean ====
section
/-! DEFINITION. Saving a context: what a save of a group captures and stops, the image in memory, its recovery record and
the fallback area (17_recovery.md R384-R387, 02_execution_model.md R46). -/

namespace Sys2Proof.Machine

/-! ## Requests brought to an end (R192, R388) -/

/-- Requests and contributions of a context performed, rejected and replayed until none is left that can move; `fuel`
bounds the moves. -/
def State.drain (asid : Nat) : Nat → State → State
  | 0, s => s
  | fuel + 1, s =>
    match (List.range s.mem.requests.length).find? fun k => (s.mem.requests[k]?).any fun r => r.asid == asid && r.rejected with
    | some k => State.drain asid fuel (s.replay k)
    | none =>
      let rs := (List.range s.mem.reductions.length).filter fun k => (s.mem.reductions[k]?).any fun r => r.asid == asid
      let t := rs.reverse.foldl State.applyRed s
      let ks := (List.range t.mem.requests.length).filter fun k => (t.mem.requests[k]?).any fun r => r.asid == asid
      State.drain asid fuel (ks.reverse.foldl State.arriveHome t)

/-- Enough moves to bring every request of the machine to its end twice. -/
def State.drainFuel (s : State) : Nat := 4 * (s.mem.requests.length + 1)

/-- Has a context no request and no contribution under way? -/
def State.drained (s : State) (asid : Nat) : Bool :=
  !(s.mem.requests.any (·.asid == asid)) && !(s.mem.reductions.any (·.asid == asid))

/-! ## A group stopped at a boundary (R384) -/

/-- Work inserted by age. -/
def insertWork (w : Work) : List Work → List Work
  | [] => [w]
  | v :: r => if w.stamp < v.stamp then w :: v :: r else v :: insertWork w r

/-- The outstanding matrix and descent work of a split, oldest first. -/
def Block.worksOf (b : Block) (slot k : Nat) : List Work :=
  ((b.resvs.flatMap (·.work)).filter fun w => w.slot == slot && w.spl == k).foldl (fun l w => insertWork w l) []

/-- Instructions due for re-execution, with the ticks at which they issued, in program order. -/
def inOrder : List (Nat × Addr × Word) → List (Nat × Addr × Word)
  | [] => []
  | x :: rest =>
    let sorted := inOrder rest
    sorted.takeWhile (·.1 < x.1) ++ x :: sorted.dropWhile (·.1 < x.1)

/-- A split stopped: its fence rolled back, its matrix work listed for re-execution, its counts at zero (R60, R209,
R336). A wait at a barrier has arrived there; another waiting instruction is unissued (R384). Faults that wait beside such
work are listed with it, and raise their traps afresh (R60). -/
def Split.halt (p : Split) (ws : List Work) : Split :=
  let keep : Option (Wait × Nat) := match p.wait with
    | some (.barrier b, t) => some (.barrier b, t)
    | _ => none
  let p1 : Split := { p with windows := [], spec := none, wait := keep, run := 0, waitCount := 0, urged := false, yieldUntil := 0 }
  match if ws.isEmpty then []
    else inOrder (p.pending.map (fun q => (q.stamp, q.pc, q.info.done)) ++ ws.map fun w => (w.stamp, w.pc, 0)) with
  | [] => p1
  | x :: rest =>
    { p1 with redo := (x :: rest).map (·.2) ++ p.redo, redoNpc := if p.redo.isEmpty then p.pc else p.redoNpc, pc := x.2.1
              pending := [] }

/-- A group stopped for a save: an open region aborted with PREEMPT, fences rolled back, reservations lost (R384). -/
def Group.halt (b : Block) (g : Group) : Group :=
  let g1 := g.abort 5 0
  let g2 := (List.range 4).foldl (fun (g : Group) k =>
    let h := g.rollback k
    { h with splits := sset {} h.splits k ((h.splitAt k).halt (b.worksOf g.slot k)) }) g1
  { g2 with lr := [], waitCount := 0 }

/-- Every pending fill of the issuing block landed and counted (R384). -/
def State.landAll : Nat → State → State
  | 0, s => s
  | fuel + 1, s => if s.blk.fills.isEmpty then s else State.landAll fuel (s.landFill 0)

/-- The words of every pending fill of a block, and one more for each. -/
def Block.fillFuel (b : Block) : Nat := (b.fills.map fun f => f.left.length + 1).foldl (· + ·) 0

/-- Work of the issuing group stopped: an `mma` at the row it has come to, a `desc` abandoned (R152, R159). -/
def State.stopWork (s : State) (w : Work) : State :=
  match s.blk.resvs.find? fun r => r.work.any fun o => o.stamp == w.stamp && o.slot == w.slot with
  | none => s
  | some r =>
    if !w.started then s
    else if w.kind = 2 then s.abandonDesc w r
    else (w.progress w.row).foldl (fun t x => t.setReg (x.1 / 32) (x.1 % 32) x.2) (s.stopRows r.handle w)

/-- The issuing group saved (R384): stopped, with what the save captures. Its core counts the fences that roll back
(R209). A DRAINING reservation whose last work it stops becomes STORAGE, which R135 leaves open: such work neither
completes nor faults (log entry 78). -/
def State.saveGroup (s : State) (mark : SaveMark) : State :=
  if s.grp.saved.isSome || s.grp.ended then s
  else
    let t := ((List.range 4).flatMap (s.blk.worksOf s.grp.slot)).foldl State.stopWork { s with grp := s.grp.halt s.blk }
    let strip := fun (r : Resv) =>
      if r.work.all fun w => w.slot != s.grp.slot then r
      else { r with work := r.work.filter fun w => w.slot != s.grp.slot }.drained
    let u := { t with grp := { t.grp with saved := some mark }, blk := { t.blk with resvs := t.blk.resvs.map strip } }
    let rolled := ((List.range 4).filter fun k => (s.grp.splitAt k).spec.isSome).length
    let n := sget 0 s.cores.rollbacks s.blk.core + rolled
    ({ u with cores := { u.cores with rollbacks := sset 0 u.cores.rollbacks s.blk.core n } } : State).landAll u.blk.fillFuel

/-- A full save (R384). -/
def fullSave : SaveMark := ⟨true, 0, []⟩

/-- Every group of a context that is not saved yet, by core and slot. -/
def State.unsaved (s : State) (asid : Nat) : List (Nat × Nat) :=
  s.allGroups.filterMap fun bg =>
    if bg.1.asid == asid && bg.2.saved.isNone && !bg.2.ended then some (bg.1.core, bg.2.slot) else none

/-! ## The image (R386) -/

/-- Zero bytes that bring a length to a multiple of 64. -/
def padTo64 (bs : List Byte) : List Byte := bs ++ List.replicate ((64 - bs.length % 64) % 64) 0

/-- `n` bytes that the spec says nothing of. -/
def openBytes (tick n : Nat) : List Byte := (List.range n).map fun k => (Config.freeDWord (tick + k)).setWidth 8

/-- The members of a list in an order that is left open. -/
def arrange (site : Nat) : Nat → List Nat → List Nat
  | 0, _ => []
  | k + 1, l =>
    let i := Config.headSite site k % l.length
    l.getD i 0 :: arrange site k (l.eraseIdx i)

/-- Where the bytes of the fields of an `n`-byte head lie: R386 names the fields and not their places (log entry 11). -/
def headPlaces (n : Nat) : List Nat := arrange n n (List.range n)

/-- A head of `n` bytes with the bytes of its fields at their places. -/
def headBytes (tick n : Nat) (fields : List Byte) : List Byte :=
  let ps := headPlaces n
  (List.range n).map fun o => fields.getD (ps.idxOf o) ((openBytes tick n).getD o 0)

/-- The bytes of the fields of a head. -/
def headFields (n : Nat) (head : List Byte) : List Byte := (headPlaces n).map fun o => head.getD o 0

/-- Numbers, each in so many bytes, one after another. -/
def packNats (l : List (Nat × Nat)) : List Byte := l.flatMap fun x => bytesOfNat x.1 x.2

/-- Numbers of the given sizes from the front of a list of bytes. -/
def unpackNats : List Nat → List Byte → List Nat
  | [], _ => []
  | n :: rest, bs => natOfBytes (bs.take n) :: unpackNats rest (bs.drop n)

/-- ST of a split-table entry (R37). -/
def SplitStatus.code : SplitStatus → Nat
  | .free => 0
  | .live => 1
  | .joinWait => 2
  | .exited => 3

/-- The status that ST names. -/
def SplitStatus.ofCode : Nat → SplitStatus
  | 1 => .live
  | 2 => .joinWait
  | 3 => .exited
  | _ => .free

/-- The four words of a split-table entry (R37). -/
def Split.words (p : Split) : List DWord :=
  [p.pc.setWidth 64, join64 p.em p.dm, p.gm, BitVec.ofNat 64 (8 * lowLane p.dm + p.st.code)]

/-- A split with the four words of its entry; a lane outside dm is never in em (R24). -/
def Split.ofWords (p : Split) (w : Nat → DWord) : Split :=
  { p with pc := (w 0).setWidth 57, em := low32 (w 1) &&& high32 (w 1), dm := high32 (w 1), gm := w 2, st := .ofCode (bits (w 3) 2 0) }

/-- The fields of a group's head with their sizes in bytes (R386): split table, sp, fl, ts, gs, the handle and the bearing of
each register, trap record and listed done masks, HSCR, handler mode. -/
def Group.headValues (g : Group) : List (Nat × Nat) :=
  ((List.range 4).flatMap fun k => (g.splitAt k).words.map fun w => (8, w.toNat)) ++
    [(3, g.sp.toNat), (1, g.fl.toNat), (4, g.ts.toNat)] ++ lanes.map (fun i => (8, (sget 0 g.gs i).toNat)) ++
    (List.range 64).map (fun r => (4, ((g.futureOf r).map fun f => f.qn * 65536 + f.seq % 65536).getD 0)) ++
    (List.range 64).map (fun r => (1, ((g.futureOf r).map fun f => 128 + f.lane).getD 0)) ++
    (List.range 22).map (fun k => (8, (sget 0 g.trap k).toNat)) ++ (List.range 16).map (fun k => (4, (sget 0 g.ldone k).toNat)) ++
    (List.range 8).map (fun k => (8, (sget 0 g.hscr k).toNat)) ++ [(1, g.handler.getD 4)]

/-- Words listed from a number on, as a map. -/
def wordsFrom {n : Nat} (v : Nat → Nat) (lo count : Nat) : Sparse (BitVec n) :=
  (List.range count).foldl (fun m k => sset 0 m k (BitVec.ofNat n (v (lo + k)))) []

/-- A group with the fields of its head, its futures armed again against the same queues and commands (R257, R388); `die` is
the die of its core. -/
def Group.ofHead (s : State) (die : Nat) (g : Group) (vs : List Nat) : Group :=
  let v := fun k => vs.getD k 0
  let future := fun (r : Nat) =>
    if v (115 + r) < 128 then none
    else (resolveQn die (v (51 + r) / 65536)).map fun (d, q) =>
      (r, (⟨v (115 + r) % 32, d, v (51 + r) / 65536, fullSeq (s.cqIssued d q) (v (51 + r) % 65536)⟩ : Future))
  { g with
    splits := (List.range 4).foldl (fun m k =>
      sset {} m k ((g.splitAt k).ofWords fun j => BitVec.ofNat 64 (v (4 * k + j)))) g.splits
    sp := BitVec.ofNat 21 (v 16), fl := BitVec.ofNat 6 (v 17), ts := BitVec.ofNat 32 (v 18), gs := wordsFrom v 19 32
    futures := (List.range 64).filterMap future
    trap := wordsFrom v 179 22, ldone := wordsFrom v 201 16, hscr := wordsFrom v 217 8
    handler := if v 225 < 4 then some (v 225) else none }

/-- The fields of a block's header with their sizes in bytes (R386). -/
def Block.headValues (b : Block) (nsp : Nat) : List (Nat × Nat) :=
  [(4, b.idx), (4, b.spanIdx), (8, b.recordAddr.toNat)] ++ (List.range 17).map (fun k => (8, sget 0 b.phases k)) ++
    (List.range 16).map (fun k => (8, (sget 0 b.objects k).toNat)) ++
    [(4, b.resvs.length), (4, nsp), (4, (b.groups.filter (·.saved.isSome)).length)]

/-- A block with the fields of its header. How many parts its image has is known from what was saved. -/
def Block.ofHead (b : Block) (vs : List Nat) : Block :=
  let v := fun k => vs.getD k 0
  { b with
    idx := v 0, spanIdx := v 1, recordAddr := BitVec.ofNat 64 (v 2), objects := wordsFrom v 20 16
    phases := (List.range 17).foldl (fun m k => sset 0 m k (v (3 + k))) [] }

/-- Ranges merged where they overlap, offsets ascending. -/
def mergeRanges : List (Nat × Nat) → List (Nat × Nat)
  | [] => []
  | (o, n) :: rest =>
    match mergeRanges rest with
    | [] => [(o, n)]
    | (p, m) :: more => if p < o + n then (o, max (o + n) (p + m) - o) :: more else (o, n) :: (p, m) :: more

/-- A range put in its place by offset. -/
def insertRange (r : Nat × Nat) : List (Nat × Nat) → List (Nat × Nat)
  | [] => [r]
  | q :: rest => if r.1 < q.1 then r :: q :: rest else q :: insertRange r rest

/-- A range without the bytes of the banks from `lo` up to `hi`. -/
def clipRange (lo hi : Nat) (r : Nat × Nat) : List (Nat × Nat) :=
  let a := (r.1, min (r.1 + r.2) lo - r.1)
  let s := max r.1 hi
  [a, (s, r.1 + r.2 - s)].filter fun x => x.2 != 0

/-- The scratchpad ranges that a save of a block captures (R385): all of it after a full save of any group, else the
records' ranges, without the banks of live reservations. -/
def Block.savedRanges (b : Block) : List (Nat × Nat) :=
  let marks := b.groups.filterMap (·.saved)
  let rs := if marks.any (·.full) then [(0, b.spadSize)] else marks.flatMap (·.ranges)
  let clipped := b.resvs.foldl (fun l r => l.flatMap (clipRange (32768 * r.first) (32768 * (r.first + r.count)))) rs
  mergeRanges ((clipped.filter fun x => x.2 != 0).foldl (fun l r => insertRange r l) [])

/-- `n` bytes of a block from an offset. -/
def Block.bytesAt (b : Block) (o n : Nat) : List Byte := (List.range n).map fun j => b.byte (o + j)

/-- A reservation's image (R386): the record, the bytes of its banks, its accumulator lines. -/
def State.resvImage (s : State) (b : Block) (r : Resv) : List Byte :=
  let acc := (List.range (r.accl + 1)).flatMap fun l => lanes.flatMap fun e =>
    bytesOfNat 8 (s.acc b.core (r.accb + l, e)).toNat
  padTo64 (bytesOfNat 8 r.w0.toNat ++ bytesOfNat 8 r.w1.toNat ++ b.bytesAt (32768 * r.first) (32768 * r.count) ++ acc)

/-- The registers that a save of a group captures. -/
def SaveMark.regs (m : SaveMark) : List Nat := (List.range 64).filter fun r => m.full || m.live.getLsbD r

/-- A group's image (R386). -/
def Group.image (tick : Nat) (g : Group) : List Byte :=
  headBytes tick 1024 (packNats g.headValues) ++ ((g.saved.map (·.regs)).getD []).flatMap fun r => lanes.flatMap fun i =>
    bytesOfNat 4 (g.reg r i).toNat

/-- A block's image (R386). -/
def State.blockImage (s : State) (b : Block) : List Byte :=
  let rs := b.savedRanges
  let list := padTo64 (rs.flatMap fun r => bytesOfNat 4 r.1 ++ bytesOfNat 4 r.2)
  headBytes s.tick 512 (packNats (b.headValues rs.length)) ++ b.resvs.flatMap (s.resvImage b) ++ list ++
    padTo64 (rs.flatMap fun r => b.bytesAt r.1 r.2) ++ (b.groups.filter (·.saved.isSome)).flatMap (Group.image s.tick)

/-- A group put in its place by its position in the block. -/
def insertGroup (g : Group) : List Group → List Group
  | [] => [g]
  | h :: rest => if g.idx < h.idx then g :: h :: rest else h :: insertGroup g rest

/-- A block with its groups in ascending position. -/
def Block.inOrder (b : Block) : Block := { b with groups := b.groups.foldl (fun l g => insertGroup g l) [] }

/-- How many bytes from an address the save engine may write before a page refuses (R387). -/
def State.writable (s : State) (asid va n : Nat) : Nat :=
  match (pageCuts va n).find? fun x => match s.check .hub asid x.1 x.2 .store false with
      | .mem _ => aliasBase < x.1 + x.2
      | _ => true with
  | some x => x.1 - va
  | none => n

/-- Bytes that the save engine writes page by page through the context's translation. -/
def State.saveWrite (s : State) (asid va : Nat) (bs : List Byte) : State :=
  (pageCuts va bs.length).foldl (fun (t : State) x =>
    match t.check .hub asid x.1 x.2 .store false with
    | .mem ps => t.perform none asid 9999 (ps.zip ((bs.drop (x.1 - va)).take x.2))
    | _ => t) s

/-- Is a line held that the save engine is to write (R325, R333)? -/
def State.saveHeld (s : State) (asid va n : Nat) : Bool :=
  (pageCuts va n).any fun x =>
    match s.check .hub asid x.1 x.2 .store false with
    | .mem ps => (distinct (ps.map (·.1 / 64))).any fun l => s.lineHeld none false l
    | _ => false

/-- The first byte of a stretch of physical memory that the save engine may not reach for a context, by its granule, its key
slot or the die (R341, R346, R405). -/
def State.physBarred (s : State) (asid pa n : Nat) : Option Nat :=
  ((List.range (n / 2 ^ 30 + 2)).map fun k => max pa (2 ^ 30 * (pa / 2 ^ 30 + k))).find? fun a =>
    a < pa + n && !s.passes asid .hub a .store

/-- Bytes written at a physical address in HBM. -/
def State.writePhys (s : State) (asid pa : Nat) (bs : List Byte) : State :=
  s.perform none asid 9999 ((numbered bs).map fun (j, v) => ((pa + j, 0), v))

/-- The recovery record (R386). -/
def recoveryRecord (cause : Nat) (full fault : Bool) (ngrp nblk len time off pa flen : Nat) : List Byte :=
  [cause + (if fault then 256 else 0) + (if full then 512 else 0) + 1024, ngrp + nblk * 2 ^ 32, len, time, off, pa, flen,
    0].flatMap (bytesOfNat 8)

/-- Is a line of a physical range held (R325, R333)? -/
def State.physHeld (s : State) (pa n : Nat) : Bool :=
  (List.range (n / 64 + 2)).any fun k => 64 * (pa / 64 + k) < pa + n && s.lineHeld none false (pa / 64 + k)

/-- The lowest offset of a partition's fallback area at which `n` bytes are free of other images (R387). -/
def State.fallbackPlace (s : State) (part n : Nat) : Option Nat :=
  let taken := s.mgmt.saved.filterMap fun v => v.fallback.bind fun x => if x.1 = part then some x.2 else none
  let free := fun (o : Nat) => o + n ≤ (sget (0, 0) s.iso.fallback part).2 && taken.all fun t => !(o < t.1 + t.2 && t.1 < o + n)
  match (0 :: taken.map fun t => t.1 + t.2).filter free with
  | [] => none
  | o :: rest => some (rest.foldl min o)

/-- The denial of a write of the save engine noted (R341, R364). -/
def State.noteSave (s : State) (asid va : Nat) : State := s.noteDeniedAt .hub asid va 1 .store 5

/-- A block put in its place by grid index. -/
def insertBlock (b : Block) : List Block → List Block
  | [] => [b]
  | c :: rest => if b.idx < c.idx then b :: c :: rest else c :: insertBlock b rest

/-- The resident blocks of a context, grid indices ascending. -/
def State.blocksOf (s : State) (asid : Nat) : List Block :=
  (s.allBlocks.filter (·.asid == asid)).foldl (fun l b => insertBlock b l) []

/-- The accumulator lines of a block's reservations zeroed (R169). -/
def State.clearLines (s : State) (b : Block) : State :=
  b.resvs.foldl (fun (t : State) r => t.clearAcc b.core r.accb (r.accl + 1)) s

/-- Blocks taken off their cores: slots, banks and accumulator lines released (R43, R169). -/
def State.takeOff (s : State) (asid : Nat) : State :=
  let t := (s.blocksOf asid).foldl State.clearLines s.unfocus
  { t with blocks := t.blocks.filter fun b => b.asid != asid }

/-- Commands of saved blocks told apart from those of later blocks of the same slot. -/
def parkCommands (bs : List Block) (cs : List Command) : List Command :=
  cs.map fun c =>
    match (List.range bs.length).find? fun k => (bs[k]?).any fun b => b.core == c.core && b.bslot == c.bslot && b.asid == c.asid with
    | some k => { c with bslot := 64 + k }
    | none => c

/-- The save of a context whose every group is saved (R385-R387): the image and its record are written, the blocks leave
their cores, SAVED is sent. A fallback area too small removes the context, and so does one that the firewall keeps from the
save engine, which R387 does not speak of (log entry 100). -/
def State.finishSave (s : State) (asid cause : Nat) : State :=
  let s0 := s.unfocus
  let bs := (s0.blocksOf asid).map Block.inOrder
  let full := bs.any fun b => b.groups.any fun g => g.saved.any (·.full)
  let image := bs.flatMap s0.blockImage
  let len := 64 + image.length
  let base := (sget 0 s0.iso.saveva asid).toNat
  let fits := s0.writable asid base len
  let part := s0.partOf (s0.vfOf asid)
  let area := sget (0, 0) s0.iso.fallback part
  let rest := len - fits
  let spot := if fits = len then some 0 else s0.fallbackPlace part rest
  let used := spot.getD 0
  let ngrp := ((bs.flatMap (·.groups)).filter (·.saved.isSome)).length
  if spot.isNone then (s.noteSave asid (base + fits)).remove asid 0x14
  else if fits < len && (s0.physBarred asid (area.1 + used) rest).isSome then
    ((s.noteSave asid (base + fits)).denied asid ((s0.physBarred asid (area.1 + used) rest).getD 0) 5).remove asid 0x14
  else if s0.saveHeld asid base fits || (fits < len && s0.physHeld (area.1 + used) rest) then s
  else
    let rcd := if fits = len then recoveryRecord cause full false ngrp bs.length len s0.mgmt.ns 0 0 0
      else recoveryRecord cause full true ngrp bs.length len s0.mgmt.ns fits (area.1 + used) rest
    let bytes := rcd ++ image
    let s1 := s0.saveWrite asid base (bytes.take fits)
    let s2 := if fits = len then s1 else (s1.noteSave asid (base + fits)).writePhys asid (area.1 + used) (bytes.drop fits)
    let place := if fits = 0 then area.1 + used + 2 ^ 63 else base
    let saved : Saved := ⟨asid, cause, full, bs, len, if fits = len then none else some (part, used, rest), place⟩
    let s3 := (s2.takeOff asid).charge asid 40 21 ((len + 63) / 64)
    let s4 := { s3 with
      hub := { s3.hub with commands := parkCommands bs s3.hub.commands }
      mgmt := { s3.mgmt with
        saved := (s3.mgmt.saved.filter fun (v : Saved) => v.asid != asid) ++ [saved]
        preempt := s3.mgmt.preempt.filter (·.1 != asid) } }
    s4.event (s4.vfOf asid) 9 (s4.tagOf asid)
      (BitVec.ofNat 64 (cause + if fits = len then 0 else 256)) (BitVec.ofNat 64 place)

/-- Has a context an engine command that is writing one of its blocks' banks (R137, R257)? -/
def State.bankCopies (s : State) (asid : Nat) : Bool := s.hub.commands.any fun c => c.asid == asid && c.run.any (·.geom.isSome)

/-- The save of a context ended if every group of it is saved and its requests have drained. -/
def State.trySave (s : State) (asid : Nat) : State :=
  match s.mgmt.preempt.find? (·.1 == asid) with
  | none => s
  | some (_, cause) =>
    if (s.unsaved asid).isEmpty && s.drained asid && !s.bankCopies asid && !(s.mgmt.removing.any (·.1 == asid)) then s.finishSave asid cause
    else s

/-- Every group of a context saved in full, at once (R384). -/
def State.saveRest (s : State) (asid : Nat) : State :=
  let s1 := State.drain asid s.drainFuel s
  if s1.drained asid then
    ((s1.unsaved asid).foldl (fun (t : State) x => t.atGroup x.1 x.2 0 fun u => u.saveGroup fullSave) s1).trySave asid
  else s1

/-- Is a group stopped at a barrier, `bo.wt`, `fut.wait`, `yieldc` or `yield`, so that a request saves it at once (R384)? -/
def Group.parked (g : Group) : Bool :=
  let ls := (List.range 4).filter fun k => (g.splitAt k).st == .live
  !ls.isEmpty && ls.all fun k => match (g.splitAt k).wait with
    | some (.barrier _, _) | some (.arrive, _) | some (.marks _ _, _) | some (.fills _ _, _) | some (.future, _) | some (.clk, _) => true
    | _ => false

/-- The stopped groups of a context saved at once, as a request finds them (R384). -/
def State.saveParked (s : State) (asid : Nat) : State :=
  let ready := s.allGroups.filterMap fun bg =>
    if bg.1.asid == asid && bg.2.parked then some (bg.1.core, bg.2.slot) else none
  (ready.foldl (fun (t : State) x => t.atGroup x.1 x.2 0 fun u => u.saveGroup fullSave) s).trySave asid

/-- A pre-emption of a context requested (R384): its stopped groups are saved at once. -/
def State.requestPreempt (s : State) (asid cause : Nat) : State :=
  if s.mgmt.preempt.any (·.1 == asid) || s.mgmt.saved.any (·.asid == asid) then s
  else
    ({ s with mgmt := { s.mgmt with preempt := s.mgmt.preempt ++ [(asid, cause)] } }).saveParked asid

/-- The groups that requests for cause QUOTA have found stopped saved at once (R352, R384). -/
def State.saveAsked (s : State) : State :=
  (s.mgmt.asked.filter fun a => s.mgmt.preempt.any (·.1 == a)).foldl State.saveParked
    { s with mgmt := { s.mgmt with asked := [] } }

/-- PREEMPT_DEADLINE (R384): 40 us after the request every group of the context that is not saved takes a full save. -/
def execPreemptDeadline (asid : Nat) (s : State) : Host.Outcome State Fault Refusal :=
  if s.mgmt.preempt.any (·.1 == asid) then move (s.saveRest asid) else move s

end Sys2Proof.Machine
end

