-- ==== Sys2Proof/Machine/System.lean ====
section
/-! DEFINITION. Traps, pre-emption points and system state: `tfence`, `trap`, `brk`, `phint`, `rte`, `sys.rd`, `sys.wr`,
`clk`, `grn`, `tlbinv`, `gen.bump` and the moves that complete them: opcodes 0xF2 to 0xFC (17_recovery.md R376-R389,
15_isolation.md R355-R358, 08_ordering_memory.md R192-R194). -/

namespace Sys2Proof.Machine

/-! ## Traps (R98, R382, R383) -/

/-- The flags that a read of fl sees: those of an open region among them (R97). -/
def State.seenFlags (s : State) : BitVec 6 :=
  match s.grp.region with
  | none => s.grp.fl
  | some r => r.flags.foldl (fun f x => f ||| x.2) s.grp.fl

/-- `tfence` (R98, R383). -/
def execTfence (s : State) : Host.Outcome State Fault Refusal :=
  gate .tfence s fun s =>
    let fl := s.seenFlags
    let t := fl &&& gmTE s.spl.gm
    if t = 0 then .next s else .trap s { code := tARITH, listed := false, flags := fl, enabled := t }

/-- `trap` (R383). -/
def execTrap (n : BitVec 8) (s : State) : Host.Outcome State Fault Refusal :=
  gate (.trap n) s fun s => .trap s { code := tSWTRAP, listed := false, imm := n }

/-- `brk` (R383). -/
def execBrk (n : BitVec 8) (s : State) : Host.Outcome State Fault Refusal :=
  gate (.brk n) s fun s => .trap s { code := tBRK, listed := false, imm := n }

/-- `rte` (R383): the record is checked, then its split goes on or the next pending trap is delivered. A fault of the
handler's own matrix work that waits is one raised in handler mode (R379). -/
def execRte (s : State) : Host.Outcome State Fault Refusal :=
  gate .rte s fun s =>
    let w := fun k => sget 0 s.grp.trap k
    if s.grp.handler.isNone then trapCode s tICONV
    else if bits (w 3) 1 0 != 0 || (List.range (bits (w 0) 27 23)).any fun k => bits (w (6 + k)) 1 0 != 0 then
      trapCode s tALIGN
    else if !s.spl.pending.isEmpty then .gone (s.remove s.blk.asid 0x12)
    else
      let t := s.returnFromTrap
      .gone (if t.grp.pendCount = 0 then t else t.deliverPending)

/-- TRAP_DELIVERY (R377, R378): a group's pending trap is delivered once no split of it has an instruction under way, none
is served, and none has raised a trap before. -/
def execTrapDelivery (core slot : Nat) (s : State) : Host.Outcome State Fault Refusal :=
  move (s.atGroup core slot 0 fun t =>
    let busy := (List.range 4).any t.splitBusy
    let own := match t.grp.handler with
      | none => true
      | some k => !(t.grp.splitAt k).pending.isEmpty
    if busy || !own || (t.grp.handler.isNone && t.grp.trapping.isSome) then t
    else
      match t.grp.handler with
      | some k => if t.grp.pendCount = 0 then t else ({ t with cur := k }).remove t.blk.asid 0x12
      | none => t.deliverPending)

/-! ## `phint` (R72, R383, R384) -/

/-- The liveness record in 48 bytes: live registers and ranges, unless it breaks R72. -/
def livenessRecord (size : Nat) (bs : List Byte) : Option SaveMark :=
  let w := fun k => natOfBytes ((bs.drop (8 * k)).take 8)
  let nr := w 1
  let rs := (List.range nr).map fun k => (w (2 + k) % 2 ^ 21, w (2 + k) / 2 ^ 32 % 2 ^ 22)
  let clean := (List.range nr).all fun k => w (2 + k) / 2 ^ 54 == 0 && w (2 + k) / 2 ^ 21 % 2 ^ 11 == 0
  if 4 < nr then none
  else if clean && rs.all (fun r => r.1 % 4 == 0 && r.2 % 4 == 0 && r.1 + r.2 ≤ size) then
    some ⟨false, BitVec.ofNat 64 (w 0), rs.filter fun r => r.2 != 0⟩
  else none

/-- The group saved at a `phint` (R384): the region aborted and everything saved, or the record's live state. -/
def State.phintSave (s : State) (mark : SaveMark) : State :=
  let t := if s.grp.region.isSome then s.saveGroup fullSave else (s.setSpl (s.spl.advance [] none)).saveGroup mark
  t.trySave s.blk.asid

/-- `phint` (R383). A record whose address is no multiple of 8 is read all the same: R72 gives no consequence (log entry
66). -/
def execPhint (o : BitVec 18) (s : State) : Host.Outcome State Fault Refusal :=
  gate (.phint o) s fun s =>
    let t := branchTarget s.spl.pc o
    if !targetOk t then badTarget s t
    else
      match s.readLane s.ctl t.toNat 48 .load false with
      | .bad ti dn => scalarFault s ti dn
      | .ok bs spad places =>
        match livenessRecord s.blk.spadSize bs with
        | none => trapCode s tILLEGAL
        | some mark =>
          let u := (s.noteRead spad places false true).fillTlb s.me s.blk.asid t.toNat
          if s.readsWait false [(s.ctl, bs, spad, places)] then .stall .fence
          else s.crossing (s.readsMiss (s.atHome false) [(s.ctl, bs, spad, places)]) <|
          if s.inHandler || !(u.mgmt.preempt.any (·.1 == s.blk.asid)) then .next u
          else if !u.drained u.blk.asid then .stall .fence
          else .gone (u.phintSave mark)

/-! ## Selectors (R355, R389) -/

/-- Is an address space one of the issuing group's function (R343, R355)? -/
def State.ownAsid (s : State) (asid : Nat) : Bool :=
  let w := s.vfWord (s.vfOf s.blk.asid) 1
  bits w 63 48 ≤ asid && asid < bits w 63 48 + bits w 47 32

/-- Does the issuing group's function own a die: a K-die by DEVM, an M-die by NMDM (R343)? -/
def State.ownDie (s : State) (die : Nat) : Bool :=
  let w := s.vfWord (s.vfOf s.blk.asid) 0
  if die < 32 then w.getLsbD (32 + die) else w.getLsbD (18 + (die - 32))

/-- Does a queue outside the K-dies belong to nobody: it is disabled, and it names no ring yet or an address space that is
not valid (log entry 21)? -/
def State.openQueue (s : State) (die q : Nat) : Bool :=
  !s.cqEn die q && (s.cqBase die q == 0 || !s.spaceValid (s.cqAsid die q))

/-- Is a copy queue one of the issuing group's function: on a K-die by the die, else by its owning address space (R251)? -/
def State.ownQueue (s : State) (die q : Nat) : Bool :=
  if die < 32 then s.ownDie die else s.openQueue die q || s.ownAsid (s.cqAsid die q)

/-- Temperature of a die in degrees Celsius, as its loop reads it. -/
def State.dieTemp (s : State) (die : Nat) : Nat := bits (s.dvfsWord die) 15 8

/-- The placement rank of a die among those of its kind, 0 coolest (R354). -/
def State.dieRank (s : State) (die : Nat) : Nat :=
  let kind := if die < 32 then List.range 32 else (List.range 8).map (32 + ·)
  (kind.filter fun d => s.dieTemp d < s.dieTemp die || (s.dieTemp d == s.dieTemp die && d < die)).length

/-- How an indexed selector's index fails: a trap code, or nothing (R355). -/
def State.indexStop (s : State) (sel idx : Nat) : Option Nat :=
  let own := fun (b : Bool) => if b then none else some tPROT
  match sel with
  | 0x200 => if 2 * 65536 ≤ idx then some tICONV else own (s.ownAsid (idx / 2))
  | 0x201 =>
    match resolveQn (dieOf s.blk.core) (idx / 8) with
    | none => some tICONV
    | some (d, q) => own (s.ownQueue d q)
  | 0x202 =>
    let w := s.vfWord (s.vfOf s.blk.asid) 1
    if 4 * 4096 ≤ idx then some tICONV
    else own (bits w 31 20 ≤ idx / 4 && idx / 4 ≤ bits w 31 20 + bits w 19 8)
  | 0x203 => if 4 ≤ idx then some tICONV else none
  | 0x204 => if 65536 ≤ idx then some tICONV else own (s.ownAsid idx)
  | 0x210 => if 40 ≤ idx then some tICONV else own (s.ownDie idx)
  | 0x211 => if 128 ≤ idx then some tICONV
      else own ((s.partWord (s.partOf (s.vfOf s.blk.asid)) 4).getLsbD (32 + idx / 8))
  | 0x212 => if 512 * 64 ≤ idx then some tICONV else own (s.ownDie (idx / 64 / 16))
  | 0x213 => if 40 ≤ idx then some tICONV else own (s.ownDie idx)
  | 0x214 => if 22 ≤ idx then some tICONV else none
  | _ => none

/-- The contents of a scalar selector (R355, R389). -/
def State.selector (s : State) (sel idx : Nat) : DWord :=
  let asid := s.blk.asid
  let vf := s.vfOf asid
  match sel with
  | 0 => s.grp.sp.setWidth 64
  | 1 => s.seenFlags.setWidth 64
  | 3 => (s.tagOf asid).setWidth 64
  | 4 => sget 0 s.iso.meter asid
  | 5 => s.vfWord vf 2
  | 6 => BitVec.ofNat 64 (sget 0 s.cores.rollbacks s.blk.core)
  | 0x100 => s.tvec asid
  | 0x101 => sget 0 s.iso.saveva asid
  | 0x140 => BitVec.ofNat 64 (sget 0 s.iso.restores asid)
  | 0x200 => s.spaceWord (idx / 2) (idx % 2)
  | 0x201 =>
    match resolveQn (dieOf s.blk.core) (idx / 8) with
    | some (d, q) => s.cqWord d q (idx % 8)
    | none => 0
  | 0x202 => s.wqWord (idx / 4) (idx % 4)
  | 0x203 => s.vfWord vf idx
  | 0x204 => sget 0 s.iso.meter idx
  | 0x210 => s.dvfsWord idx
  | 0x211 => sget 0 s.links.taps idx
  | 0x212 => sget 0 s.cores.trim idx
  | 0x213 => BitVec.ofNat 64 (s.dieTemp idx * 256 + s.dieRank idx)
  | 0x214 => BitVec.ofNat 64 (s.costOf idx (dieOf s.blk.core))
  | n =>
    if n < 0x130 then sget 0 s.grp.trap (n - 0x110)
    else if n < 0x140 then sget 0 s.grp.hscr (n - 0x130)
    else (sget 0 s.grp.ldone (n - 0x150)).setWidth 64

/-- What a read changes: the error count of a lane restarts (R354). -/
def State.afterRead (s : State) (sel idx : Nat) : State :=
  if sel = 0x211 then { s with links := { s.links with taps := sset 0 s.links.taps idx (setBits (sget 0 s.links.taps idx) 63 32 0) } }
  else s

/-- `sys.rd` (R355, R356). -/
def execSysRd (d : Reg) (sl : BitVec 12) (s : State) : Host.Outcome State Fault Refusal :=
  gate (.sysRd d sl) s fun s =>
    let sel := sl.toNat
    if sel = 2 then
      .next (s.active.foldl (fun (t : State) i => t.setPair d.toNat i (sget 0 s.grp.gs i)) s)
    else
      let idx := if indexed sel then (s.scalar d).toNat else 0
      match s.indexStop sel idx with
      | some code => trapCode s code
      | none => .next ((s.setPair d.toNat s.ctl (s.selector sel idx)).afterRead sel idx)

/-- Queues whose EN cannot read one where LSZ is out of range (R251, R282). -/
def lszFits (copy : Bool) (n : Nat) : Bool := if copy then 4 ≤ n && n ≤ 16 else 1 ≤ n && n ≤ 12

/-- Commands of a disabled queue: those not begun complete CANCELLED (R250). -/
def State.cancelQueue (s : State) (die q : Nat) : State :=
  { s with
    hub := { s.hub with commands := s.hub.commands.map fun c =>
      if c.die = die && c.qn = q then c.cancel s else c } }

/-- A write of a copy-queue record word (R251), or its trap: ISSUED and DONE may be written while EN is 0; enabling the
queue brings DONE, HEAD and TAIL in step. -/
def State.writeCq (s : State) (die q w : Nat) (v : DWord) : State ⊕ Nat :=
  let old := s.cqWord die q w
  match w with
  | 0 =>
    if !lszFits true (bits v 5 0) then .inr tICONV
    else .inl (s.setCq die q 0 (BitVec.ofNat 64 (bits v 56 0)))
  | 1 =>
    if !s.ownAsid (bits v 63 48) then .inr tPROT
    else
      let en := v.getLsbD 0 && lszFits true (s.cqLsz die q)
      let kept := setBits (setBits old 63 48 (bits v 63 48)) 15 8 (bits v 15 8)
      let w1 := if v.getLsbD 1 then setBits kept 1 1 0 else kept
      let w2 := setBits w1 0 0 en.toNat
      if en && !old.getLsbD 0 then
        let n := s.cqIssued die q
        let slot := (n + 1) % 2 ^ s.cqLsz die q
        .inl ((s.setCq die q 1 (setBits (setBits w2 47 32 slot) 31 16 slot)).setCq die q 3 (BitVec.ofNat 64 n))
      else
        let t := s.setCq die q 1 w2
        .inl (if en then t else t.cancelQueue die q)
  | 2 => if v.toNat % 8 != 0 then .inr tICONV else .inl (s.setCq die q 2 v)
  | 3 => .inl (if s.cqEn die q then s else s.setCq die q 3 v)
  | 4 => .inl (if s.cqEn die q then s else s.setCq die q 4 v)
  | 5 => if v.toNat % 16 != 0 then .inr tICONV else .inl (s.setCq die q 5 v)
  | 6 => .inl (s.setCq die q 6 (setBits old 63 32 (bits v 63 32)))
  | _ => .inl s

/-- A write of a work-queue record word (R282), `full` where the writer may set ASID (R363). TAIL is the doorbell. -/
def State.putWq (s : State) (q w : Nat) (v : DWord) (full : Bool) : State :=
  let old := s.wqWord q w
  match w with
  | 0 =>
    let w0 := setBits (setBits old 56 8 (bits v 56 8)) 3 0 (bits v 3 0)
    let s1 := s.setWq q 0 w0
    if lszFits false (bits v 3 0) then s1 else s1.setWq q 1 (setBits (s1.wqWord q 1) 0 0 0)
  | 1 =>
    let en := v.getLsbD 0 && lszFits false (bits (s.wqWord q 0) 3 0)
    let w1 := setBits (setBits old 10 8 (bits v 10 8)) 0 0 en.toNat
    s.setWq q 1 (if full then setBits w1 63 48 (bits v 63 48) else w1)
  | 3 =>
    let s1 := s.setWq q 3 (BitVec.ofNat 64 (bits v 31 0))
    if bits old 31 0 = bits (s.wqWord q 2) 31 0 then { s1 with hub := { s1.hub with wqSince := sset 0 s1.hub.wqSince q s.mgmt.ns } }
    else s1
  | _ => s

/-- A write of a trap-record word (R380), or ICONV. -/
def State.writeTrap (s : State) (k : Nat) (v : DWord) : State ⊕ Nat :=
  let old := sget 0 s.grp.trap k
  let put := fun (x : DWord) => (.inl { s with grp := { s.grp with trap := sset 0 s.grp.trap k x } } : State ⊕ Nat)
  match k with
  | 0 => if 16 < bits v 27 23 then .inr tICONV else put (setBits old 27 23 (bits v 27 23))
  | 1 => .inl s
  | 2 => .inl s
  | 3 => put (BitVec.ofNat 64 (bits v 56 0))
  | 4 => put (BitVec.ofNat 64 (bits v 31 0))
  | 5 => if gmLegal v then put v else .inr tICONV
  | _ => if bits v 63 57 != 0 then .inr tICONV else put v

/-- A write of a scalar selector, or its trap code (R355, R389). A write to what is read-only is ignored. -/
def State.writeSelector (s : State) (sel idx : Nat) (v : DWord) : State ⊕ Nat :=
  let asid := s.blk.asid
  match sel with
  | 0 =>
    if v.toNat % 4 != 0 || v.toNat < s.spillBottom || s.spillTop < v.toNat then .inr tICONV
    else .inl { s with grp := { s.grp with sp := v.setWidth 21 } }
  | 1 => .inl { s with grp := { s.grp with fl := v.setWidth 6 } }
  | 0x100 =>
    if bits v 63 57 != 0 || bits v 1 0 != 0 then .inr tICONV
    else .inl { s with iso := { s.iso with tvec := sset 0 s.iso.tvec asid v } }
  | 0x101 =>
    if bits v 11 0 != 0 then .inr tICONV
    else .inl { s with iso := { s.iso with saveva := sset 0 s.iso.saveva asid v } }
  | 0x200 =>
    if idx % 2 = 1 then .inl s
    else .inl { s with iso := { s.iso with space := sset 0 s.iso.space idx (setBits (s.spaceWord (idx / 2) 0) 51 21 (bits v 51 21)) } }
  | 0x201 =>
    match resolveQn (dieOf s.blk.core) (idx / 8) with
    | some (d, q) => s.writeCq d q (idx % 8) v
    | none => .inr tICONV
  | 0x202 =>
    if idx % 4 = 0 && !lszFits false (bits v 3 0) then .inr tICONV
    else if idx % 4 = 1 && !s.ownAsid (bits v 63 48) then .inr tPROT
    else .inl (s.putWq (idx / 4) (idx % 4) v true)
  | n =>
    if 0x110 ≤ n && n < 0x130 then s.writeTrap (n - 0x110) v
    else if 0x130 ≤ n && n < 0x140 then
      .inl { s with grp := { s.grp with hscr := sset 0 s.grp.hscr (n - 0x130) v } }
    else .inl s

/-- A generator state written: zero stores the value of R38. -/
def gsValue (v : DWord) : DWord := if v = 0 then 0x9E3779B97F4A7C15 else v

/-- `sys.wr` (R355, R356): PROT inside an open try region. -/
def execSysWr (d : Reg) (sl : BitVec 12) (s : State) : Host.Outcome State Fault Refusal :=
  gate (.sysWr d sl) s fun s =>
    let sel := sl.toNat
    if s.grp.region.isSome then trapCode s tPROT
    else if sel = 2 then
      .next { s with
        grp := { s.grp with gs := s.active.foldl (fun m i =>
          sset 0 m i (gsValue (join64 (s.source d.toNat i) (s.source (d.toNat + 1) i)))) s.grp.gs } }
    else
      let idx := if indexed sel then (s.source (d.toNat + 2) s.ctl).toNat else 0
      match s.indexStop sel idx with
      | some code => trapCode s code
      | none =>
        match s.writeSelector sel idx (s.scalar64 d) with
        | .inl t => .next t
        | .inr code => trapCode s code

/-! ## Clocks and meters (R357) -/

/-- `clk` (R357). -/
def execClk (d : Reg) (f : BitVec 1) (s : State) : Host.Outcome State Fault Refusal :=
  gate (.clk d f) s fun s =>
    .next (s.setPair d.toNat s.ctl (BitVec.ofNat 64 (if f = 0 then s.clkOf (dieOf s.blk.core) else s.mgmt.ns)))

/-- `grn` (R357). -/
def execGrn (d : Reg) (f : BitVec 1) (s : State) : Host.Outcome State Fault Refusal :=
  gate (.grn d f) s fun s =>
    .next (s.setPair d.toNat s.ctl
      (if f = 0 then sget 0 s.iso.meter s.blk.asid else s.vfWord (s.vfOf s.blk.asid) 2))

/-! ## Invalidation and generations (R192-R194, R358) -/

/-- The die of a translation holder (R193); the near-memory cores serve every die's invalidations. -/
def holderDie (h : Nat) : Nat := if 1000 ≤ h then (h - 1000) / 256 else if h = 999 then 40 else dieOf h

/-- Does an invalidation on a die reach a holder (R193)? -/
def reaches (die h : Nat) : Bool := holderDie h == die || (512 ≤ h && h < 640)

/-- Is a request performed under an export of an address space (R370)? -/
def State.exportedBy (s : State) (asid cp : Nat) : Bool :=
  (exportOf cp).any fun i => exASID (s.exportWord i 0) == asid

/-- Does a request carry a translation of the pages from `lo` on that a holder of a die issued, or one that the hub made
for it under an export of the address space (R193, R370)? -/
def State.underPages (s : State) (die asid lo pages : Nat) (r : Request) : Bool :=
  !r.spad && !r.rejected && ((r.asid == asid && reaches die r.core && lo ≤ r.va / 4096 && r.va / 4096 < lo + pages) ||
    s.exportedBy asid r.cp)

/-- Translations of a range discarded by every holder that a die's invalidation reaches (R193). -/
def State.dropTlb (s : State) (die asid lo pages : Nat) : State :=
  { s with
    mem := { s.mem with tlb := s.mem.tlb.filter fun e =>
      !(e.asid == asid && reaches die e.holder && lo ≤ e.page && e.page < lo + pages) } }

/-- Has an engine that an invalidation on a die reaches words of an address space under way, or any engine words that
go to an export of it (R193, R370)? -/
def State.enginesMoving (s : State) (asid : Nat) (reached : Nat → Bool) : Bool :=
  s.hub.commands.any fun c => c.run.any fun r =>
    (c.asid == asid && reached c.die && !r.todo.isEmpty) || r.todo.any fun ws => ws.any fun w => s.exportedBy asid w.1.2

/-- The waiting second part of an instruction that drains requests. -/
def State.draining (s : State) : Bool :=
  match s.spl.wait with
  | some (.drain, _) => true
  | _ => false

/-- `tlbinv` (R193, R358): a release, the invalidation, then the wait for every holder. -/
def execTlbinv (d a : Reg) (p : Perm) (l : BitVec 4) (x : BitVec 1) (s : State) : Host.Outcome State Fault Refusal :=
  gate (.tlbinv d a p l x) s fun s =>
    let c := s.ctl
    let base := (s.operand64 a.toNat p c).toNat
    let count := (s.operand (a.toNat + 2) p c).toNat
    let word := s.operand (a.toNat + 3) p c
    let asid := bits word 15 0
    let die := dieOf s.blk.core
    let (lo, pages) := if x = 1 then (0, 2 ^ 45) else (base / 4096, count)
    if s.grp.region.isSome || !s.ownAsid asid then trapCode s tPROT
    else if bits word 31 16 != 0 || !s.spaceValid asid || (x = 0 && (base % 4096 != 0 || 2 ^ 57 < base + 4096 * count)) then
      trapCode s tICONV
    else if !s.draining && !s.quiet then .stall .fence
    else
      let t := if s.draining then s else s.dropTlb die asid lo pages
      if t.mem.requests.any (t.underPages die asid lo pages) || t.mem.reductions.any (t.underPages die asid lo pages) ||
          t.enginesMoving asid (· == die) then
        (if s.draining then .stall .drain else .hold t .drain)
      else .next (t.setCtl d 0)

/-- The requests and then the accepted reductions that a test names brought to their ends. -/
def State.settleRequests (s : State) (named : Request → Bool) : State :=
  let ks := (List.range s.mem.requests.length).filter fun k => (s.mem.requests[k]?).any named
  let t := (ks.foldl (fun (t : State × Nat) k =>
    let u := t.1.arriveHome (k - t.2)
    (u, t.2 + (t.1.mem.requests.length - u.mem.requests.length))) (s, 0)).1
  let rs := (List.range t.mem.reductions.length).filter fun k => (t.mem.reductions[k]?).any named
  (rs.foldl (fun (t : State × Nat) k =>
    let u := t.1.applyRed (k - t.2)
    (u, t.2 + (t.1.mem.reductions.length - u.mem.reductions.length))) (t, 0)).1

/-- TLBINV_ACK (R193): a holder's requests under the invalidated entries are performed or rejected, and it acknowledges. -/
def execTlbinvAck (die holder asid lo pages : Nat) (s : State) : Host.Outcome State Fault Refusal :=
  move (s.settleRequests fun r => (r.core == holder || s.exportedBy asid r.cp) && s.underPages die asid lo pages r)

/-- A request of an address space, or of a peer under an export of it, under an old generation that no controller has
judged (R194, R370). -/
def State.oldRequest (s : State) (asid : Nat) (r : Request) : Bool :=
  !r.rejected && !r.spad && ((r.asid == asid && r.gen != s.gen asid) || (s.exportedBy asid r.cp && exportGen r.cp != s.gen asid))

/-- Does a fence's buffer hold a store translated under another generation than the current one (R433)? -/
def State.oldBuffers (s : State) (asid : Nat) : Bool :=
  s.allGroups.any fun bg => (List.range 4).any fun k =>
    match (bg.2.splitAt k).spec with
    | some f => f.buffer.any fun h => !h.spad && ((bg.1.asid == asid && h.gen != s.gen asid) ||
        (s.exportedBy asid h.cp && exportGen h.cp != s.gen asid))
    | none => false

/-- Before a bump: regions with a buffered line of memory of the address space abort with CONFLICT (R219). -/
def Group.beforeBump (named : HeldByte → Bool) (g : Group) : Group :=
  match g.region with
  | some r => if r.buffer.any named then g.abort 2 0 else g
  | none => g

/-- Every group made ready for a bump of an address space: a line is of it by its own translation or by that of an export
(R219, R370). -/
def State.beforeBump (s : State) (asid : Nat) : State :=
  let f := fun (b : Block) => Group.beforeBump fun h => !h.spad && (b.asid == asid || s.exportedBy asid h.cp)
  let each := fun (b : Block) => b.mapGroups (f b)
  { s with grp := f s.blk s.grp, blk := each s.blk, blocks := s.blocks.map each }

/-- The LR reservations of an address space end as its bump completes (R238). -/
def State.endReservations (s : State) (asid : Nat) : State :=
  let f := fun (g : Group) => ({ g with lr := g.lr.filter fun r => r.2.asid != asid } : Group)
  { s with grp := f s.grp }.mapOthers fun _ => f

/-- The next generation made current (R194). -/
def State.bump (s : State) (asid : Nat) : State :=
  let t := s.beforeBump asid
  { t with iso := { t.iso with space := sset 0 t.iso.space (2 * asid) (setBits (t.spaceWord asid 0) 15 0 (t.gen asid + 1)) } }

/-- Is a request or an accepted reduction under an old generation of an address space still to be judged (R194)? -/
def State.oldPending (s : State) (asid : Nat) : Bool :=
  s.mem.requests.any (s.oldRequest asid) || s.mem.reductions.any (s.oldRequest asid)

/-- `gen.bump` (R194, R219, R358, R433). -/
def execGenBump (d a : Reg) (p : Perm) (l : BitVec 4) (s : State) : Host.Outcome State Fault Refusal :=
  gate (.genBump d a p l) s fun s =>
    let word := s.operand a.toNat p s.ctl
    let asid := bits word 15 0
    if s.grp.region.isSome || !s.ownAsid asid then trapCode s tPROT
    else if bits word 31 16 != 0 || !s.spaceValid asid then trapCode s tICONV
    else if !s.draining && (s.oldBuffers asid || s.oldPending asid || s.enginesMoving asid fun _ => true) then .stall .fence
    else
      let t := if s.draining then s else s.bump asid
      if t.oldPending asid then (if s.draining then .stall .drain else .hold t .drain)
      else .next ((t.endReservations asid).setCtl d (BitVec.ofNat 32 (t.gen asid)))

/-- GEN_BUMP_COMPLETE (R194): every request and accepted reduction under an old generation of the address space is
rejected where it stands. -/
def execGenBumpComplete (asid : Nat) (s : State) : Host.Outcome State Fault Refusal :=
  let reject := fun (r : Request) => if s.oldRequest asid r then { r with rejected := true } else r
  move { s with mem := { s.mem with
    requests := ((s.mem.reductions.filter (s.oldRequest asid)).map reject).foldl
      (fun l r => insertRequest r l) (s.mem.requests.map reject)
    reductions := s.mem.reductions.filter fun r => !s.oldRequest asid r } }

end Sys2Proof.Machine
end

