-- ==== Sys2Proof/Machine/Launch.lean ====
section
/-! DEFINITION. From a launch record to running groups and back: command processors, ticket counters, stealing, admission,
the Firkin, the end of blocks and grids, the Tun, and the watchdogs (12_progress_scheduling.md R282-R298,
11_ordering_engines.md R280-R281, 02_execution_model.md R38-R43, 14_progress_rules.md R326, R332). -/

namespace Sys2Proof.Machine

/-! ## The launch record (R285, R286) -/

/-- The 32 words of a record. -/
def recordWords (bs : List Byte) : List DWord :=
  (List.range 32).map fun k => BitVec.ofNat 64 (natOfBytes ((bs.drop (8 * k)).take 8))

/-- Word `k` of a record and its fields. -/
def lw (r : List DWord) (k : Nat) : DWord := r.getD k 0
def lRT (r : List DWord) : Nat := bits (lw r 0) 3 0
def lSPILL (r : List DWord) : Nat := bits (lw r 0) 23 8
def lSPAD (r : List DWord) : Nat := bits (lw r 0) 39 24
def lNBK (r : List DWord) : Nat := bits (lw r 0) 46 40
def lSPB (r : List DWord) : Nat := bits (lw r 0) 50 47
def lGPB (r : List DWord) : Nat := bits (lw r 0) 55 51
def lCK (r : List DWord) : Bool := (lw r 0).getLsbD 56
def lNB (r : List DWord) : Nat := bits (lw r 3) 31 0 + 1
def lPARAM (r : List DWord) : Nat := (lw r 2).toNat
def lCOMPL (r : List DWord) : Nat := (lw r 5).toNat
def lKDM (r : List DWord) : Nat := bits (lw r 6) 31 0
def lMDM (r : List DWord) : Nat := bits (lw r 6) 39 32
def lSER (r : List DWord) : Bool := (lw r 6).getLsbD 40
def lSTEAL (r : List DWord) : Bool := (lw r 6).getLsbD 41

/-- The dies of a record's mask, ascending: K-dies, or M-dies numbered from 32 (R285). -/
def lDies (r : List DWord) : List Nat :=
  if lCK r then ((List.range 8).filter (lMDM r).testBit).map (32 + ·) else (List.range 32).filter (lKDM r).testBit

/-- The two words of binding `k` (R280), and its fields. -/
def bind0 (r : List DWord) (k : Nat) : DWord := lw r (8 + 2 * k)
def bind1 (r : List DWord) (k : Nat) : DWord := lw r (9 + 2 * k)
def bindV (r : List DWord) (k : Nat) : Bool := (bind0 r k).getLsbD 32

/-- Does a binding keep R280? -/
def bindingOk (r : List DWord) (k : Nat) : Bool :=
  let b0 := bind0 r k
  let b1 := bind1 r k
  let xf := bits b0 63 56
  let ta := bits b0 55 51
  let tb := bits b0 50 46
  let clean := bits b1 63 53 == 0 && bits b0 45 33 == 0
  let types := match xf with
    | 0 => ta == 0 && tb == 0
    | 9 => ta == 0 && tb == 0
    | 1 => isComplex ta && tb == 0
    | 4 => cvtType ta && cvtType tb
    | _ => false
  clean && (!bindV r k || (bits b0 2 0 == 0 && bits b1 33 32 == 0 && bits b1 1 0 == 0 && types))

/-- Range descriptor `k` of a task record (R296). -/
def rangeMD (r : List DWord) (k : Nat) : Nat := bits (lw r (24 + k)) 63 62
def rangeLEN (r : List DWord) (k : Nat) : Nat := bits (lw r (24 + k)) 47 16
def rangePOFS (r : List DWord) (k : Nat) : Nat := bits (lw r (24 + k)) 15 0

/-- Does a range descriptor keep R296? -/
def rangeOk (r : List DWord) (k : Nat) : Bool :=
  bits (lw r (24 + k)) 61 48 == 0 && rangePOFS r k % 8 == 0 && (rangeMD r k == 0 || rangeLEN r k != 0)

/-- Are the reserved fields of a record zero and its bindings and ranges sound (R287, code 2)? -/
def fieldsOk (r : List DWord) : Bool :=
  bits (lw r 0) 63 57 == 0 && bits (lw r 0) 7 4 == 0 && bits (lw r 1) 63 57 == 0 && bits (lw r 3) 63 32 == 0 &&
    bits (lw r 6) 63 42 == 0 && bits (lw r 7) 63 32 == 0 && (List.range 8).all (bindingOk r) &&
    (List.range 8).all fun k => if lRT r = 1 then lw r (24 + k) == 0 else rangeOk r k

/-- Are the sizes of a record within the limits of its kind (R70, R286, R287)? -/
def sizesOk (r : List DWord) : Bool :=
  (if lCK r then 64 * lSPAD r ≤ 0x100000 && lNBK r == 0 else 64 * lSPAD r + 32768 * lNBK r ≤ 0x200000 && lNBK r ≤ 64) &&
    128 * lSPILL r * (lGPB r + 1) ≤ 64 * lSPAD r && lNB r % (lSPB r + 1) == 0 &&
    (lSPB r == 0 || (!lCK r && !lSTEAL r))

/-- Are the dies of a record those of a function (R287, code 4)? -/
def State.diesOk (s : State) (vf : Nat) (r : List DWord) : Bool :=
  let w := s.vfWord vf 0
  !(lDies r).isEmpty && (lDies r).all fun d => if d < 32 then w.getLsbD (32 + d) else w.getLsbD (18 + (d - 32))

/-- What the hub reads for an address space: nothing where it may not or the bytes are poisoned (R283). -/
def State.hubRead (s : State) (asid va n : Nat) : Option (List Byte) :=
  if 2 ^ 57 ≤ va + n || aliasBase < va + n then none
  else
    match s.check .hub asid va n .load false with
    | .mem ps => if ps.any fun at_ => (s.unreadable asid at_).isSome then none else some (ps.map (s.readAt asid))
    | _ => none

/-- The ranges of a task: read, written, base and length; `none` where a base cannot be read (R287 code 6, R296). -/
def State.taskRanges (s : State) (asid : Nat) (r : List DWord) : Option (List (Bool × Bool × Nat × Nat)) :=
  ((List.range 8).filter fun k => rangeMD r k != 0).foldr (fun k acc =>
    match acc, s.hubRead asid (lPARAM r + rangePOFS r k) 8 with
    | some l, some bs => some ((rangeMD r k % 2 == 1, 2 ≤ rangeMD r k, natOfBytes bs, rangeLEN r k) :: l)
    | _, _ => none) (some [])

/-- The reject code of a record, 0 for none (R287); from the `task` instruction SER and STEAL are refused (R317). -/
def State.rejectCode (s : State) (vf asid : Nat) (r : List DWord) (fromTask : Bool) : Nat :=
  if lRT r != 2 && (fromTask || lRT r != 1) then 1
  else if !fieldsOk r || (fromTask && (lSER r || lSTEAL r)) then 2
  else if !sizesOk r then 3
  else if !s.diesOk vf r then 4
  else if bits (lw r 1) 1 0 != 0 || lPARAM r % 8 != 0 || lCOMPL r % 64 != 0 then 5
  else if lRT r = 2 && (s.taskRanges asid r).isNone then 6
  else 0

/-! ## Completion records (R288) -/

/-- The 64 bytes of a completion record. -/
def completionBytes (done gst rsn : Nat) (flags : BitVec 6) (nfail bcc : Nat) (first : Option (Nat × Nat × Nat)) :
    List Byte :=
  let w3 := match first with
    | some (blk, slot, code) => blk + slot * 2 ^ 57 + code * 2 ^ 60
    | none => 0
  [done, flags.toNat * 2 ^ 50 + rsn * 2 ^ 56 + gst * 2 ^ 60, nfail + min bcc (2 ^ 32 - 1) * 2 ^ 32, w3, 0, 0, 0,
    0].flatMap (bytesOfNat 8)

/-- The function that owns a work queue: the enabled one whose range holds it (R343). -/
def State.queueVf (s : State) (q : Nat) : Option Nat :=
  (List.range 1024).find? fun v =>
    let w := s.vfWord v 1
    w.getLsbD 0 && bits w 31 20 ≤ q && q ≤ bits w 31 20 + bits w 19 8

/-- The completion record written at COMPL, or dropped with QERR to the queue's function (R288). Where its line is held
it goes to its home as a request of the hub, which keeps the queue and its function (R325, R333); so does one behind another
of this COMPL that is held, wherever its page lies by now, so that GST is written last. -/
def State.writeCompletion (s0 : State) (queue asid compl : Nat) (bs : List Byte) : State :=
  let s := s0.chargeTraffic asid 40
  let vf := (s.queueVf queue).getD (s.vfOf asid)
  let drop := fun (t : State) => t.qerrVf vf asid queue 3 (BitVec.ofNat 64 compl)
  if 2 ^ 57 ≤ compl + 64 || aliasBase < compl + 64 then drop s
  else
    match s.check .hub asid compl 64 .store false with
    | .mem ps =>
      let (pa, cp) := ps.headD (0, 0)
      let t := s.fillTlb .hub asid compl
      if s.lineHeld none false (pa / 64) || s.mem.requests.any fun r =>
          r.core == 9999 && (r.pa / 64 == pa / 64 || r.asid == asid && r.va / 64 == compl / 64) then
        { t with mem := { t.mem with requests := t.mem.requests ++
          [⟨asid, s.gen asid, compl, pa, numbered bs, 9999, queue, vf, 0, 0, cp, false, { stamp := s.tick }, none, false, none⟩] } }
      else t.perform none asid 9999 (ps.zip bs)
    | _ => drop (s.noteDeniedAt .hub asid compl 64 .store 6)

/-- A grid's completion record with a status (R288). -/
def State.report (s : State) (g : Grid) (gst : Nat) : State :=
  s.writeCompletion g.queue g.asid (lCOMPL g.record)
    (completionBytes g.reported gst 0 g.fillFlags g.nfail g.badChunks g.firstFail)

/-! ## Taking records (R282-R284) -/

/-- HEAD, TAIL and the number of records waiting in a work queue (R282). -/
def State.wqHead (s : State) (q : Nat) : Nat := bits (s.wqWord q 2) 31 0
def State.wqTail (s : State) (q : Nat) : Nat := bits (s.wqWord q 3) 31 0
def State.wqWaiting (s : State) (q : Nat) : Nat := (s.wqTail q + 2 ^ 32 - s.wqHead q) % 2 ^ 32
def State.wqAsid (s : State) (q : Nat) : Nat := bits (s.wqWord q 1) 63 48

/-- Is a context stopped: pre-empted, saved or being removed (R384, R391)? -/
def State.stoppedContext (s : State) (asid : Nat) : Bool :=
  s.mgmt.preempt.any (·.1 == asid) || s.mgmt.saved.any (fun v => v.asid == asid) || s.mgmt.removing.any (·.1 == asid)

/-- May a record be taken from a queue: pending, its function not exhausted (R284, R352)? -/
def State.takeable (s : State) (q : Nat) : Bool :=
  let asid := s.wqAsid q
  (s.wqWord q 1).getLsbD 0 && s.wqWaiting q != 0 && !s.stoppedContext asid &&
    match s.queueVf q with
    | some v => !exhausted (s.vfWord v 2)
    | none => false

/-- Effective priority of a queue: PRI and one for each 256 us of waiting, at most 7 (R284). -/
def State.wqPriority (s : State) (q : Nat) : Nat :=
  min 7 (bits (s.wqWord q 1) 10 8 + (s.mgmt.ns - sget 0 s.hub.wqSince q) / 256000)

/-- The better of two queues: priority, then waiting time, then number (R284). -/
def State.betterQueue (s : State) (a b : Nat) : Nat :=
  if s.wqPriority a < s.wqPriority b then b
  else if s.wqPriority b < s.wqPriority a then a
  else if sget 0 s.hub.wqSince b < sget 0 s.hub.wqSince a then b
  else a

/-- The queue whose record is taken next (R284): only queues that have a record are listed in the state. -/
def State.nextQueue (s : State) : Option Nat :=
  let qs := (distinct (s.hub.wq.map (·.1 / 4))).filter s.takeable
  match qs with
  | [] => none
  | q :: rest => some (rest.foldl s.betterQueue q)

/-- A queue stopped with QERR (R283). -/
def State.stopQueue (s : State) (q kind : Nat) (det1 : DWord) : State :=
  let asid := s.wqAsid q
  let t := s.setWq q 1 (setBits (s.wqWord q 1) 0 0 0)
  t.event ((s.queueVf q).getD (s.vfOf asid)) 7 (s.tagOf asid) (BitVec.ofNat 64 (q + kind * 2 ^ 16)) det1

/-- HEAD advanced past a taken record, waiting time zero (R284). -/
def State.advanceQueue (s : State) (q : Nat) : State :=
  let t := s.setWq q 2 (BitVec.ofNat 64 ((s.wqHead q + 1) % 2 ^ 32))
  { t with hub := { t.hub with wqSince := sset 0 t.hub.wqSince q t.mgmt.ns } }

/-- The ranges of a stealing grid: die, next and end (R292). -/
def stealRanges (r : List DWord) : List (Nat × Nat × Nat) :=
  let ds := lDies r
  (List.range ds.length).map fun k => (ds.getD k 0, k * lNB r / ds.length, (k + 1) * lNB r / ds.length)

/-- A grid accepted (R289, R292): RUNNING is written. -/
def State.acceptGrid (s : State) (id q asid vf : Nat) (r : List DWord) (addr : DWord) (isTask : Bool)
    (after : Option Nat) : State :=
  let g : Grid := { id := id, queue := q, asid := asid, vf := vf, record := r, recordAddr := addr, isTask := isTask,
                    ranges := if lSTEAL r then stealRanges r else [], after := after }
  let t := { s with hub := { s.hub with grids := s.hub.grids ++ [g] } }
  if isTask then t else t.report g 0

/-- The reads of a record's range bases made: a denial noted, for the hub's command processor asks (R341, R364), translations
cached and lines taken back from the host (R193, R360). -/
def State.noteRanges (s : State) (asid : Nat) (r : List DWord) : State :=
  if lRT r != 2 then s
  else ((List.range 8).filter fun k => rangeMD r k != 0).foldl (fun (t : State) k =>
    ((t.noteDeniedAt .hub asid (lPARAM r + rangePOFS r k) 8 .load 6).reach .hub asid (lPARAM r + rangePOFS r k) 8).1) s

/-- A task put before the Tun's door, RUNNING written (R288, R295). -/
def State.admitTask (s : State) (id q asid vf pri : Nat) (r : List DWord) (addr : DWord)
    (after : Option Nat) : Task × State :=
  let t : Task := ⟨id, q, pri, asid, vf, r, addr, (s.taskRanges asid r).getD [], [], false, after⟩
  (t, (s.noteRanges asid r).writeCompletion q asid (lCOMPL r) (completionBytes 0 0 0 0 0 0 none))

/-- How many tasks the Tun holds, those at its door among them (R295). -/
def State.tunCount (s : State) : Nat := s.hub.tasks.length + s.hub.arriving.length

/-- The record that must end before one of its queue may be claimed (R289). -/
def State.previousRecord (s : State) (q : Nat) (r : List DWord) : Option Nat :=
  if lSER r && sget 0 s.hub.lastRecord q != 0 then some (sget 0 s.hub.lastRecord q - 1) else none

/-- A record accepted from a queue under a new number. -/
def State.countRecord (s : State) (q : Nat) : State :=
  { s with hub := { s.hub with nextGrid := s.hub.nextGrid + 1, lastRecord := sset 0 s.hub.lastRecord q (s.hub.nextGrid + 1) } }

/-- How many ticket counters are in use: a stealing grid takes none (R289, R292). -/
def State.tickets (s : State) : Nat := (s.hub.grids.filter fun g => !lSTEAL g.record).length

/-- LAUNCH_RECORD_TAKE (R283, R284, R287, R289, R295). -/
def execLaunchRecordTake (s : State) : Host.Outcome State Fault Refusal :=
  match s.nextQueue with
  | none => move s
  | some q =>
    let asid := s.wqAsid q
    let lsz := bits (s.wqWord q 0) 3 0
    let addr := bits (s.wqWord q 0) 56 8 * 256 + 256 * (s.wqHead q % 2 ^ lsz)
    if 2 ^ lsz < s.wqWaiting q then
      move (s.stopQueue q 0 (BitVec.ofNat 64 (s.wqHead q + s.wqTail q * 2 ^ 32)))
    else
      match s.hubRead asid addr 256 with
      | none => move (((s.chargeTraffic asid 40).noteDeniedAt .hub asid addr 256 .load 6).stopQueue q 5 (BitVec.ofNat 64 addr))
      | some bs =>
        let r := recordWords bs
        let v := (s.reach .hub asid addr 256).1
        let vf := (s.queueVf q).getD 0
        let code := s.rejectCode vf asid r false
        let id := s.hub.nextGrid
        let after := s.previousRecord q r
        if code != 0 then
          let t := ((v.noteRanges asid r).advanceQueue q).chargeTraffic asid 40
          let u := { t with hub := { t.hub with lastRecord := sset 0 t.hub.lastRecord q 0 } }
          move (u.writeCompletion q asid (lCOMPL r) (completionBytes 0 2 code 0 0 0 none))
        else if lRT r = 1 then
          if !lSTEAL r && 4096 ≤ s.tickets then move s
          else
            let t := (v.advanceQueue q).chargeTraffic asid 40
            move ((t.acceptGrid id q asid vf r (BitVec.ofNat 64 addr) false after).countRecord q)
        else if 4096 ≤ s.tunCount then move s
        else
          let (t, u) := ((v.advanceQueue q).chargeTraffic asid 40).admitTask id q asid vf (bits (s.wqWord q 1) 10 8) r (BitVec.ofNat 64 addr) after
          move ({ u with hub := { u.hub with arriving := u.hub.arriving ++ [t] } }.countRecord q)

/-! ## The Tun (R295-R298) -/

/-- Do two byte ranges intersect? -/
def bytesMeet (a n b m : Nat) : Bool := a < b + m && b < a + n

/-- Does a later task's range depend on an earlier one's (R297)? -/
def rangeDepends (t u : Bool × Bool × Nat × Nat) : Bool :=
  bytesMeet t.2.2.1 t.2.2.2 u.2.2.1 u.2.2.2 && ((t.1 && u.2.1) || (t.2.1 && u.1) || (t.2.1 && u.2.1))

/-- A task entered, with the earlier tasks it waits for (R297). -/
def State.enterTask (s : State) (t : Task) : State :=
  let deps := (s.hub.tasks.filter fun u => u.asid == t.asid && t.ranges.any fun a => u.ranges.any (rangeDepends a)).map (·.id)
  { s with hub := { s.hub with tasks := s.hub.tasks ++ [{ t with deps := deps }] } }

/-- TUN_ACCEPT (R295): the task longest at the door enters. -/
def execTunAccept (s : State) : Host.Outcome State Fault Refusal :=
  match s.hub.arriving with
  | [] => move s
  | t :: rest => move ({ s with hub := { s.hub with arriving := rest } }.enterTask t)

/-- Every task at the door entered: they were accepted before the one that comes now (R295). -/
def State.enterArriving (s : State) : State := s.hub.arriving.foldl State.enterTask { s with hub := { s.hub with arriving := [] } }

/-- Is a task ready: every task it depends on has ended (R297)? -/
def State.taskReady (s : State) (t : Task) : Bool :=
  !t.dispatched && !s.stoppedContext t.asid && t.deps.all fun d => s.hub.tasks.all (·.id != d)

/-- TASK_DISPATCH (R298): the ready task of highest priority, the earliest entered among equals, becomes a grid. -/
def execTaskDispatch (s : State) : Host.Outcome State Fault Refusal :=
  match s.hub.tasks.filter s.taskReady with
  | [] => move s
  | t0 :: rest =>
    let t := rest.foldl (fun (b : Task) (c : Task) => if b.pri < c.pri then c else b) t0
    if !lSTEAL t.record && 4096 ≤ s.tickets then move s
    else
      let mark := fun (u : Task) => if u.id = t.id then { u with dispatched := true } else u
      let s1 := { s with hub := { s.hub with tasks := s.hub.tasks.map mark } }
      move (s1.acceptGrid t.id t.queue t.asid t.vf t.record t.recordAddr true t.after)

/-- `task` (R317): the record is checked and enters the Tun, a release at package scope. The alias window holds no record
(R183). -/
def execTask (d a : Reg) (p : Perm) (l : BitVec 4) (s : State) : Host.Outcome State Fault Refusal :=
  gate (.task d a p l) s fun s =>
    let c := s.ctl
    let va := s.addr a p c
    if va % 64 != 0 then .trap s { code := tALIGN, lane := c, fva := BitVec.ofNat 64 va }
    else if aliasBase ≤ va then .trap s { code := tPAGE, lane := c, fva := BitVec.ofNat 64 va }
    else
      let n := min 256 (aliasBase - va)
      match s.readLane c va n .load true with
      | .bad t dn => scalarFault s t dn
      | .ok bs _ ps =>
        if n < 256 then .trap s { code := tPAGE, lane := c, fva := BitVec.ofNat 64 aliasBase, part2 := true }
        else
        let r := recordWords bs
        let asid := s.blk.asid
        let queue := ((s.hub.grids.find? (·.id == s.blk.grid)).map (·.queue)).getD 0
        let code := s.rejectCode (s.vfOf asid) asid r true
        if !s.quiet || s.mustWait true ps then .stall .fence
        else if code != 0 then .next ((s.noteRanges asid r).setCtl d (BitVec.ofNat 32 code))
        else if 4096 ≤ s.tunCount then .next (s.setCtl d 7)
        else s.crossing (ps.map (·.1)) <|
          let id := s.hub.nextGrid
          let (t, u) := s.admitTask id queue asid (s.vfOf asid) (bits (s.wqWord queue 1) 10 8) r (BitVec.ofNat 64 va) none
          let v := { u with hub := { u.hub with nextGrid := id + 1 } }
          .next ((v.enterArriving.enterTask t).setCtl d 0)

/-! ## Admission (R290-R294) -/

/-- Group slots of a core that are taken: those of groups that have not ended (R40). -/
def State.takenSlots (s : State) (core : Nat) : List Nat :=
  s.allGroups.filterMap fun bg => if bg.1.core = core && !bg.2.ended then some bg.2.slot else none

/-- The free group slots, banks and block slots of a core, lowest first (R294). On a near-memory core blocks are admitted
by their bytes (R293) and take whole units of 32 KiB (R234), so that resident blocks may take more units than 1 MiB
holds: the units are numbered from 0 to 1023, and each block has its own (log entry 67). -/
def State.freeSlots (s : State) (core : Nat) : List Nat := (List.range 32).filter fun k => !(s.takenSlots core).contains k
def State.freeBanks (s : State) (core : Nat) : List Nat :=
  let taken := (s.allBlocks.filter (·.core == core)).flatMap (·.banks)
  (List.range (if isNear core then 1024 else 64)).filter fun k => !taken.contains k
def State.freeBlockSlot (s : State) (core : Nat) : Option Nat :=
  let taken := (s.allBlocks.filter (·.core == core)).map (·.bslot)
  (List.range 32).find? fun k => !taken.contains k

/-- The scratchpad bytes in use on a near-memory core (R293). -/
def State.nearUsed (s : State) (core : Nat) : Nat :=
  ((s.allBlocks.filter (·.core == core)).map fun b => 64 * lSPAD b.record).foldl (· + ·) 0

/-- Banks that a record's block takes (R293). -/
def lBanks (r : List DWord) : Nat := (64 * lSPAD r + 32767) / 32768 + lNBK r

/-- Can a core take one block of a record (R293)? -/
def State.coreFits (s : State) (r : List DWord) (core : Nat) : Bool :=
  lGPB r + 1 ≤ (s.freeSlots core).length && (s.freeBlockSlot core).isSome && !s.mgmt.offlineCores.contains core &&
    !s.mgmt.offline.contains (dieOf core) &&
    (if isNear core then s.nearUsed core + 64 * lSPAD r ≤ 0x100000 else lBanks r ≤ (s.freeBanks core).length)

/-- The cores of a die (R11). -/
def coresOf (die : Nat) : List Nat :=
  if die < 32 then (List.range 16).map (16 * die + ·) else (List.range 16).map (512 + 16 * (die - 32) + ·)

/-- The cores that a claim takes on a die: for a block the fitting core with the fewest free slots, for a span the
lowest that fit (R293). -/
def State.chooseCores (s : State) (r : List DWord) (die : Nat) : Option (List Nat) :=
  let fit := (coresOf die).filter (s.coreFits r)
  let n := lSPB r + 1
  if fit.length < n then none
  else if n = 1 then
    match fit with
    | [] => none
    | c :: rest => some [rest.foldl (fun b c => if (s.freeSlots c).length < (s.freeSlots b).length then c else b) c]
  else some (fit.take n)

/-- A group at admission: its place, no split yet (R294). -/
def newGroup (idx slot : Nat) : Group := { idx := idx, slot := slot }

/-- Ended groups of a core off the slots that they have released (R40), and with them the contributions of theirs that
are still under way: each goes by a number that no slot has. -/
def State.retireSlots (s : State) (core : Nat) : State :=
  let past := fun (slot : Nat) => slot + 64 * (s.hub.nextOrder + 1)
  let gone := fun (slot : Nat) => slot < 64 && s.allGroups.any fun bg => bg.1.core == core && bg.2.ended && bg.2.slot == slot
  let f := fun (c : Nat) (g : Group) => if c = core && g.ended && g.slot < 64 then { g with slot := past g.slot } else g
  let move := fun (r : Request) => if r.core = core && gone r.slot then { r with slot := past r.slot } else r
  { s with
    mem := { s.mem with requests := s.mem.requests.map move, reductions := s.mem.reductions.map move }
    grp := f s.blk.core s.grp
    blk := s.blk.mapGroups (f s.blk.core)
    blocks := s.blocks.map fun b => b.mapGroups (f b.core) }

/-- The registers and banks of a block that has just been placed hold what was written there: no error of what they held
before is left (R42, R43, R393). -/
def State.cleared (s : State) (b : Block) : State :=
  { s with mem := { s.mem with upsets := s.mem.upsets.filter fun u =>
      !((u.1 == 1 && u.2.1 == b.core && b.groups.any (·.slot == u.2.2 / 2048)) ||
        (u.1 == 2 && (b.banks.map (bankPlace b.core)).contains u.2.1)) } }

/-- A block admitted to a core (R293, R294): slots, banks and block slot the lowest free ones. The launch is an acquire of
its groups: no older L1 copy of the core is left to them (R223, R284, R298). -/
def State.admitBlock (s : State) (grid : Grid) (core idx span : Nat) : State :=
  let t := (s.retireSlots core).dropL1 core
  let r := grid.record
  let slots := (t.freeSlots core).take (lGPB r + 1)
  let b : Block := { core := core, bslot := (t.freeBlockSlot core).getD 0, grid := grid.id, idx := idx, spanIdx := span,
                     asid := grid.asid, record := r, recordAddr := grid.recordAddr, banks := (t.freeBanks core).take (lBanks r),
                     groups := (List.range (lGPB r + 1)).map fun k => newGroup k (slots.getD k 0),
                     order := t.hub.nextOrder }
  { t.cleared b with blocks := t.blocks ++ [b], hub := { t.hub with nextOrder := t.hub.nextOrder + 1 } }

/-- Blocks admitted to cores in order, with rising grid and span indices. -/
def State.placeBlocks (s : State) (grid : Grid) (t : Nat) : Nat → List Nat → State
  | _, [] => s
  | k, c :: rest => State.placeBlocks (s.admitBlock grid c (t + k) k) grid t (k + 1) rest

/-- The state with a grid replaced. -/
def State.setGrid (s : State) (g : Grid) : State :=
  let put := fun (h : Grid) => if h.id = g.id then g else h
  { s with hub := { s.hub with grids := s.hub.grids.map put } }

/-- Has the previous record of a grid's queue ended, where it must (R289)? -/
def State.claimable (s : State) (g : Grid) : Bool :=
  !s.stoppedContext g.asid &&
    match g.after with
    | some p => s.hub.grids.all (·.id != p) && (s.hub.tasks ++ s.hub.arriving).all (·.id != p)
    | none => true

/-- Has a die blocks of a grid to dispatch: of a stealing one those of its own range (R290, R292)? -/
def Grid.feeds (g : Grid) (d : Nat) : Bool := !lSTEAL g.record || g.ranges.any fun x => x.1 == d && x.2.1 < x.2.2

/-- May a die claim from a grid: one of a task is offered to the dies of its mask in ascending order of temperature, so
that a die takes it where no cooler one can (R298; the order among claims is DEDUCED, log entry 68)? -/
def State.offered (s : State) (g : Grid) (d : Nat) : Bool :=
  !g.isTask || (lDies g.record).all fun e => !(s.dieRank e < s.dieRank d) || !g.feeds e || (s.chooseCores g.record e).isNone

/-- BLOCK_CLAIM (R290-R294): a die claims the next block or span of a grid when a core can take it and the reorder window
has room; a stealing grid's die dispatches its own range (R292). `ck` tells M-dies from K-dies. -/
def execBlockClaim (ck : Bool) (die grid : Nat) (s : State) : Host.Outcome State Fault Refusal :=
  let d := if ck then 32 + die else die
  match s.hub.grids.find? (·.id == grid) with
  | none => move s
  | some g =>
    if lCK g.record != ck || !(lDies g.record).contains d || !s.claimable g || !s.offered g d then move s
    else
      match s.chooseCores g.record d with
      | none => move s
      | some cores =>
        if lSTEAL g.record then
          match g.ranges.find? fun x => x.1 == d && x.2.1 < x.2.2 with
          | none => move s
          | some (_, next, _) =>
            let step := fun (x : Nat × Nat × Nat) => if x.1 = d then (d, next + 1, x.2.2) else x
            move ((s.setGrid { g with ranges := g.ranges.map step }).placeBlocks g next 0 cores)
        else if lNB g.record ≤ g.ticket || g.reported + 256 ≤ g.ticket + lSPB g.record then move s
        else move ((s.setGrid { g with ticket := g.ticket + lSPB g.record + 1 }).placeBlocks g g.ticket 0 cores)

/-- The die with the most undispatched blocks, the lowest among equals (R292). -/
def victimOf : List (Nat × Nat × Nat) → Option (Nat × Nat × Nat)
  | [] => none
  | x :: rest =>
    match victimOf rest with
    | none => some x
    | some y => if x.2.2 - x.2.1 < y.2.2 - y.2.1 then some y else some x

/-- STEAL_REQUEST (R292): a die with an empty range receives the upper part of the victim's. -/
def execStealRequest (die grid : Nat) (s : State) : Host.Outcome State Fault Refusal :=
  match s.hub.grids.find? (·.id == grid) with
  | none => move s
  | some g =>
    match victimOf g.ranges, g.ranges.find? (·.1 == die) with
    | some (v, lo, hi), some (_, n, e) =>
      if n < e || hi - lo ≤ 1 then move s
      else
        let cut := lo + (hi - lo + 1) / 2
        let deal := fun (x : Nat × Nat × Nat) => if x.1 = v then (v, lo, cut) else if x.1 = die then (die, cut, hi) else x
        move (s.setGrid { g with ranges := g.ranges.map deal })
    | _, _ => move s

/-! ## The start of groups (R38, R41, R281) -/

/-- The generator seed of a lane (R38). -/
def laneSeed (seed : DWord) (b g i : Nat) : DWord :=
  gsValue (seed ^^^ BitVec.ofNat 64 (b * 2 ^ 32) ^^^ BitVec.ofNat 64 (g * 32) ^^^ BitVec.ofNat 64 i)

/-- A group at its start (R34, R37, R38, R41). -/
def startGroup (r : List DWord) (b : Nat) (g : Group) : Group :=
  let param := lw r 2
  { g with
    regs := ((List.range 2).flatMap fun h => lanes.map fun i => (32 * h + i, if h = 0 then low32 param else high32 param)).filter
      fun x => x.2 != 0
    splits := [(0, { st := .live, dm := 0xFFFFFFFF, em := 0xFFFFFFFF, pc := (lw r 1).setWidth 57 })]
    sp := BitVec.ofNat 21 (64 * lSPAD r - 128 * lSPILL r * g.idx)
    gs := lanes.map fun i => (i, laneSeed (lw r 4) b g.idx i) }

/-- The port of a core's Firkin: memory read under the block's address space, the issuing block's scratchpad written. R281 gives
no status to a fill that runs beyond the scratchpad: it ends PROT after the units that fit (log entry 98). -/
def firkinPort (core asid : Nat) : Port :=
  ⟨.core core, asid, fun s va n => s.engineRead (.core core) asid va n,
   fun s off bs =>
    if s.blk.spadSize < off + bs.length then .error (3, s)
    else .ok (s.performSpad none ((numbered bs).map fun (j, v) => (off + j, v)), [])⟩

/-- The command entry that a binding stands for (R281): RNE, no saturation. -/
def bindingEntry (r : List DWord) (k src : Nat) : List Word :=
  let b0 := bind0 r k
  let b1 := bind1 r k
  [BitVec.ofNat 32 src, BitVec.ofNat 32 (src / 2 ^ 32), BitVec.ofNat 32 (bits b1 52 32), 0, BitVec.ofNat 32 (bits b1 31 0), 0,
    0, 0, BitVec.ofNat 32 (bits b0 63 56 * 2 ^ 24), BitVec.ofNat 32 (bits b0 55 51 * 2 ^ 27 + bits b0 50 46 * 2 ^ 22), 0, 0]

/-- One fill: the state, its status, bad chunks and flags (R281). -/
def State.fill (s : State) (k : Nat) : State × Nat × Nat × BitVec 6 :=
  let r := s.blk.record
  let core := s.blk.core
  let asid := s.blk.asid
  let at_ := lPARAM r + bits (bind0 r k) 31 0
  match s.engineRead (.core core) asid at_ 8 with
  | .error (c, t) => (t.chargeTraffic asid (dieOf core), c, 0, 0)
  | .ok bs =>
    let e := bindingEntry r k (natOfBytes bs)
    let size := ew e 4
    let t := (s.touch (.core core) asid at_ 8).1.chargeTraffic asid (dieOf core)
    if !copySized e (ed e 0) (ed e 2) size then (t, 1, 0, 0)
    else
      let (p, stop) := runUnits (copyUnit (firkinPort core asid) e) (List.range (copyUnits e size))
        { st := t, src := ed e 0, dst := ed e 2 }
      (p.st.chargeMoves asid (dieOf core) (eXf e) p.toRun, stop, p.bads.length, p.flags)

/-- The fills of a block in slot order: state, first failure (slot, status), bad chunks, flags. -/
def State.fills (s : State) : List Nat → State × Option (Nat × Nat) × Nat × BitVec 6
  | [] => (s, none, 0, 0)
  | k :: rest =>
    let (t, c, n, f) := s.fill k
    let (u, fail, m, h) := t.fills rest
    (u, (if c != 0 then some (k, c) else fail), n + m, f ||| h)

/-- The earlier of two first failures, by block index (R288). -/
def firstOf (a : Option (Nat × Nat × Nat)) (b : Nat × Nat × Nat) : Option (Nat × Nat × Nat) :=
  match a with
  | some x => if b.1 < x.1 then some b else some x
  | none => some b

/-- FIRKIN_FILL (R281): the bindings of an admitted block in slot order, then its groups start, or all end unstarted, which
may complete a phase of the span's barrier (R314). -/
def execFirkinFill (core bslot : Nat) (s : State) : Host.Outcome State Fault Refusal :=
  move (s.atBlock core bslot fun t =>
    if t.blk.started || t.stoppedContext t.blk.asid then t
    else
      let (u, fail, bad, f) := t.fills ((List.range 8).filter (bindV t.blk.record))
      let note := fun (g : Grid) =>
        if g.id != u.blk.grid then g
        else
          let g1 := { g with badChunks := g.badChunks + bad, fillFlags := g.fillFlags ||| f }
          match fail with
          | some (slot, code) => { g1 with nfail := g1.nfail + 1, firstFail := firstOf g1.firstFail (u.blk.idx, slot, code) }
          | none => g1
      let start := fun (g : Group) => if fail.isSome then { g with ended := true } else startGroup u.blk.record u.blk.idx g
      let v := { u with
        hub := { u.hub with grids := u.hub.grids.map note }
        grp := start u.grp
        blk := { u.blk with started := true, groups := u.blk.groups.map start } }
      if fail.isSome then v.tryBarrier 16 else v)

/-! ## Ends (R40, R43, R288, R291) -/

/-- Has everything that a block issued completed (R40)? -/
def State.blockDone (s : State) (b : Block) : Bool :=
  b.started && b.groups.all (·.ended) && b.fills.isEmpty && b.resvs.all (·.work.isEmpty) &&
    !(s.hub.commands.any fun c => c.core == b.core && c.bslot == b.bslot && c.asid == b.asid) &&
    !((s.mem.requests ++ s.mem.reductions).any fun r => r.core == b.core && r.asid == b.asid &&
      b.groups.any fun g => g.slot == r.slot)

/-- A grid over: its last report, and a task leaves the Tun (R40, R288). -/
def State.endGrid (s : State) (g : Grid) (gst : Nat) : State :=
  let t := s.report g gst
  { t with hub := { t.hub with grids := t.hub.grids.filter (·.id != g.id), tasks := t.hub.tasks.filter (·.id != g.id) } }

/-- Completions leave the reorder window in index order, DONE written at each (R291). -/
def State.reportWindow : Nat → Grid → State → State
  | 0, _, s => s
  | fuel + 1, g, s =>
    if g.ended.contains g.reported then
      let g1 := { g with reported := g.reported + 1, ended := g.ended.filter (· != g.reported) }
      if lNB g.record ≤ g1.reported then (s.setGrid g1).endGrid g1 (if g1.nfail = 0 then 1 else 3)
      else State.reportWindow fuel g1 ((s.setGrid g1).report g1 0)
    else s

/-- A block's index marked ended in its grid's window (R291). -/
def State.blockEnded (s : State) (b : Block) : State :=
  match s.hub.grids.find? (·.id == b.grid) with
  | none => s
  | some g =>
    let g1 := { g with ended := g.ended ++ [b.idx] }
    State.reportWindow (g1.ended.length + 1) g1 (s.setGrid g1)

/-- BLOCK_END (R40, R43): a block whose work is done leaves its core and is reported; the blocks of a context that is
being removed end with the removal (R391). -/
def execBlockEnd (core bslot : Nat) (s : State) : Host.Outcome State Fault Refusal :=
  match s.allBlocks.find? fun b => b.core == core && b.bslot == bslot with
  | none => move s
  | some b =>
    if !s.blockDone b || s.mgmt.removing.any (·.1 == b.asid) then move s
    else
      let t := s.clearLines b
      let mine := fun (c : Block) => c.core == core && c.bslot == bslot
      let u := if mine t.blk && !t.blk.record.isEmpty then { t with blk := {}, grp := {}, cur := 0, turn := false }
        else { t with blocks := t.blocks.filter fun c => !mine c }
      move (u.blockEnded b)

/-- A group whose wait count has reached 1,024: its ready split that has waited longest counts as having waited 128 until
it issues (R326). A split that has waited was ready in the last clk. -/
def Group.urge (g : Group) : Group :=
  let waiting := (List.range 4).filter fun k => (g.splitAt k).st == .live && (g.splitAt k).waitCount != 0
  match waiting with
  | [] => g
  | k0 :: rest =>
    if g.waitCount < 1024 || waiting.any fun k => (g.splitAt k).urged then g
    else
      let k := rest.foldl (fun b c => if (g.splitAt b).waitCount < (g.splitAt c).waitCount then c else b) k0
      { g with splits := sset {} g.splits k { g.splitAt k with urged := true } }

/-- GROUP_WAIT_LIMIT (R326). -/
def execGroupWaitLimit (core slot : Nat) (s : State) : Host.Outcome State Fault Refusal :=
  move (s.updGroup core slot Group.urge)

/-- WATCHDOG_EXPIRY (R332): the context of a grid with a resident block is removed. -/
def execWatchdogExpiry (grid : Nat) (s : State) : Host.Outcome State Fault Refusal :=
  match s.hub.grids.find? (·.id == grid) with
  | none => move s
  | some g =>
    if s.allBlocks.any (·.grid == grid) && !(s.mgmt.saved.any fun v => v.asid == g.asid) then move (s.remove g.asid 0x10)
    else move s

end Sys2Proof.Machine
end

