-- ==== Sys2Proof/Machine/Recovery.lean ====
section
/-! DEFINITION. Removal of a context, die resets, accounting, scrubbing, sparing, power and temperature
(17_recovery.md R389-R397, 15_isolation.md R350-R354, 18_recovery_bringup.md R401, R403, R406, R407). -/

namespace Sys2Proof.Machine

/-! ## Removal (R390, R391) -/

/-- An uncorrectable error in control state (R393, STR 8): the context that owns the state is removed; a record of the
module is loaded again from the controller's copy. Numbers from 65536 on stand for records of the module. -/
def State.controlError (s : State) (asid : Nat) : State :=
  let t := s.countError 8 true
  if asid < 65536 && t.spaceValid asid then t.remove asid 0x0C else t

/-- CONTEXT_REMOVAL (R390, R391): removal of a context begins for cause 0x0C, an error in its control state (log entry
91). Every other cause is raised by the rule that names it: 0x10 by WATCHDOG_EXPIRY, 0x11 by REMOVE, 0x12 and 0x13 where
a trap cannot be delivered, 0x14 by a save, 0x15 by the dead-die timer, 0x16 by a die reset. -/
def execContextRemoval (asid cause : Nat) (s : State) : Host.Outcome State Fault Refusal :=
  if cause = 0x0C then move (s.controlError asid) else move s

/-- Stage 1: undispatched tasks of the context leave the Tun, REMOVED (R391). -/
def State.stopDispatch (s : State) (asid : Nat) : State :=
  let gone := (s.hub.tasks ++ s.hub.arriving).filter fun t => t.asid == asid && !t.dispatched
  let t := gone.foldl (fun (u : State) t =>
    u.writeCompletion t.queue asid (lCOMPL t.record) (completionBytes 0 4 0 0 0 0 none)) s
  let keep := fun (t : Task) => !(t.asid == asid && !t.dispatched)
  { t with hub := { t.hub with tasks := t.hub.tasks.filter keep, arriving := t.hub.arriving.filter keep } }

/-- A group that removal has stopped. -/
def Group.stop (g : Group) : Group :=
  { g with splits := [], region := none, futures := [], lr := [], handler := none, saved := none, ended := true }

/-- Every group of a context changed. -/
def State.mapContext (s : State) (asid : Nat) (f : Group → Group) : State :=
  let each := fun (b : Block) => if b.asid = asid then b.mapGroups f else b
  { s with
    grp := if s.blk.asid = asid && !s.blk.record.isEmpty then f s.grp else s.grp
    blk := each s.blk
    blocks := s.blocks.map each }

/-- Stage 3: commands of the context that have not begun are cancelled (R278, R391). -/
def State.cancelContext (s : State) (asid : Nat) : State :=
  { s with hub := { s.hub with commands := s.hub.commands.map fun c => if c.asid = asid then c.cancel s else c } }

/-- Stage 4: matrix work dropped, reservations freed with their accumulator lines zeroed (R169, R391). -/
def State.freeReservations (s : State) (asid : Nat) : State :=
  let t := (s.allBlocks.filter (·.asid == asid)).foldl State.clearLines s
  let each := fun (b : Block) => if b.asid = asid then { b with resvs := [] } else b
  { t with blk := each t.blk, blocks := t.blocks.map each }

/-- May a core hold L1 lines of a context: is it one of its function's dies (R343)? -/
def State.reachesCore (s : State) (asid core : Nat) : Bool :=
  let w := s.vfWord (s.vfOf asid) 0
  (if isNear core then w.getLsbD (18 + (dieOf core - 32)) else w.getLsbD (32 + dieOf core)) ||
    s.allBlocks.any fun b => b.asid == asid && b.core == core

/-- The L1 lines, data and instruction, discarded on every core that a context may have run on: a line names no context
(R182, R391). -/
def State.dropContextCopies (s : State) (asid : Nat) : State :=
  { s with mem := { s.mem with
    l1 := s.mem.l1.filter fun c => !s.reachesCore asid c.core
    l1i := s.mem.l1i.filter fun c => !s.reachesCore asid c.core } }

/-- Stage 5: the L1 lines of the context are discarded, its rejected requests dropped (R391). -/
def State.dropContextLines (s0 : State) (asid : Nat) : State :=
  let s := s0.dropContextCopies asid
  { s with
    mem := { s.mem with
      requests := s.mem.requests.filter fun r => !(r.asid == asid && r.rejected && r.core != 9999) } }

/-- Stage 7: the context's translations dropped on every holder (R391). -/
def State.dropContextTlb (s : State) (asid : Nat) : State :=
  { s with mem := { s.mem with tlb := s.mem.tlb.filter fun e => e.asid != asid } }

/-- Stage 8: dirty lines of the context written back under its key slot (R391). -/
def State.cleanContext (s : State) (asid : Nat) : State :=
  s.clean fun l => sget 0 s.mem.lineKey l == s.keyMark asid

/-- Every queue of the context left with EN = 0 (R391). -/
def State.disableQueues (s : State) (asid : Nat) : State :=
  let ws := (distinct (s.hub.wq.map (·.1 / 4))).filter fun q => s.wqAsid q == asid
  let t := ws.foldl (fun (u : State) q => u.setWq q 1 (setBits (u.wqWord q 1) 0 0 0)) s
  let cs := (distinct (t.hub.cq.map (·.1 / 8))).filter fun k => t.cqAsid (k / 256) (k % 256) == asid
  cs.foldl (fun (u : State) k => u.setCq (k / 256) (k % 256) 1 (setBits (u.cqWord (k / 256) (k % 256) 1) 0 0 0)) t

/-- The recovery record of a removal, with its address: at SAVEVA, or in the fallback area, or nowhere (R386, R387,
R390). -/
def State.removalRecord (s : State) (asid cause : Nat) : State × Nat :=
  let bs := [cause, 0, 64, s.mgmt.ns, 0, 0, 0, 0].flatMap (bytesOfNat 8)
  let base := (sget 0 s.iso.saveva asid).toNat
  let part := s.partOf (s.vfOf asid)
  if s.writable asid base 64 = 64 then (s.saveWrite asid base bs, base)
  else
    let t := s.noteSave asid (base + s.writable asid base 64)
    match t.fallbackPlace part 64 with
    | some o =>
      let pa := (sget (0, 0) t.iso.fallback part).1 + o
      match t.physBarred asid pa 64 with
      | some x => (t.denied asid x 5, 0)
      | none => (t.writePhys asid pa bs, pa + 2 ^ 63)
    | none => (t, 0)

/-- The state without the saved image of a context: its fallback space is free (R387). -/
def State.forgetImage (s : State) (asid : Nat) : State :=
  { s with mgmt := { s.mgmt with saved := s.mgmt.saved.filter fun (x : Saved) => x.asid != asid } }

/-- Is a line held that the recovery record of a removal goes to (R325, R333)? -/
def State.recordHeld (s : State) (asid : Nat) : Bool :=
  let base := (sget 0 s.iso.saveva asid).toNat
  let part := s.partOf (s.vfOf asid)
  if s.writable asid base 64 = 64 then s.saveHeld asid base 64
  else ((s.forgetImage asid).fallbackPlace part 64).any fun o => s.physHeld ((sget (0, 0) s.iso.fallback part).1 + o) 64

/-- After stage 8: blocks gone, grids and tasks ended REMOVED, queues disabled, REMOVED sent (R391). -/
def State.endRemoval (s : State) (asid cause : Nat) : State :=
  let t := (s.takeOff asid).forgetImage asid
  let u := (t.hub.grids.filter (·.asid == asid)).foldl (fun (u : State) g => u.endGrid g 4) t
  let (v, place) := (u.disableQueues asid).removalRecord asid cause
  let w := { v with
    mgmt := { v.mgmt with
      removing := v.mgmt.removing.filter (·.1 != asid)
      stageCounts := v.mgmt.stageCounts.filter (·.1 != asid)
      preempt := v.mgmt.preempt.filter (·.1 != asid) } }
  (w.charge asid 40 21 1).event (w.vfOf asid) 3 (w.tagOf asid) (BitVec.ofNat 64 cause) (BitVec.ofNat 64 place)

/-- Has a stage's count of requests of the context reached zero (R391)? -/
def State.stageDrained (s : State) (asid stage : Nat) : Bool :=
  match stage with
  | 3 => s.hub.commands.all fun c => c.asid != asid
  | 5 => s.mem.requests.all fun r => r.asid != asid || r.rejected
  | 6 => s.mem.reductions.all fun r => r.asid != asid
  | _ => true

/-- What a die has under way of a context that a stage waits for: commands, requests, or contributions (R391, R392). -/
def State.stageCount (s : State) (asid stage die : Nat) : Nat :=
  match stage with
  | 3 => (s.hub.commands.filter fun c => c.asid == asid && c.die == die).length
  | 5 => (s.mem.requests.filter fun r => r.asid == asid && !r.rejected && dieOf r.core == die).length
  | 6 => (s.mem.reductions.filter fun r => r.asid == asid && r.pa < 2 ^ 40 && 32 + r.pa / 2 ^ 37 % 8 == die).length
  | _ => 0

/-- The counts of every die as a stage of a removal has begun. -/
def State.noteStage (s : State) (asid stage : Nat) : State :=
  let counts := ((List.range 40).map fun d => (asid, d, s.stageCount asid stage d)).filter fun x => x.2.2 != 0
  { s with mgmt := { s.mgmt with stageCounts := s.mgmt.stageCounts.filter (·.1 != asid) ++ counts } }

/-- What a stage stops at its start (R391). -/
def State.beginStage (s : State) (asid stage : Nat) : State :=
  match stage with
  | 1 => s.stopDispatch asid
  | 2 => s.mapContext asid Group.stop
  | 3 => s.cancelContext asid
  | 4 => s.freeReservations asid
  | 6 => s.dropContextLines asid
  | 7 => s.dropContextTlb asid
  | 8 => s.cleanContext asid
  | _ => s

/-- REMOVAL_STAGE (R391): the next stage begins once the count of the one before has reached zero; after stage 8 the
removal is over. -/
def execRemovalStage (asid : Nat) (s : State) : Host.Outcome State Fault Refusal :=
  match s.mgmt.removing.find? (·.1 == asid) with
  | none => move s
  | some (_, cause, stage) =>
    if !s.stageDrained asid stage then move s
    else if 8 ≤ stage then
      move (if s.recordHeld asid then s else s.endRemoval asid cause)
    else
      let step := fun (x : Nat × Nat × Nat) => if x.1 = asid then (asid, cause, stage + 1) else x
      let t := (s.beginStage asid (stage + 1)).noteStage asid (stage + 1)
      move { t with mgmt := { t.mgmt with removing := t.mgmt.removing.map step } }

/-! ## Die resets (R392, R401, R403) -/

/-- Contexts with a block or a command on a die (R392). -/
def State.contextsOn (s : State) (die : Nat) : List Nat :=
  distinct (((s.allBlocks.filter fun b => dieOf b.core == die).map (·.asid)) ++
    ((s.hub.commands.filter fun c => c.die == die || dieOf c.core == die).map (·.asid)))

/-- A key map without the entries of a die's cores, `w` entries each. -/
def clearCores {α : Type} (m : Sparse α) (die w : Nat) : Sparse α :=
  let lo := if die < 32 then 16 * die else 512 + 16 * (die - 32)
  sclear m (lo * w) ((lo + 16) * w)

/-- Is a line homed on an M-die (R11, R341)? -/
def onMdie (m line : Nat) : Bool := 64 * line / 2 ^ 37 == m

/-- A dirty line of a reset slice that could not be written back: HBM keeps what it held, and the line is poisoned
(R403). -/
def State.loseLine (s : State) (e : L2Line) : State :=
  let js := List.range 64
  { s with
    mem := { s.mem with
      bytes := js.foldl (fun b j => sset 0 b (64 * e.line + j) (e.below.getD j 0)) s.mem.bytes
      lineKey := sset 0 s.mem.lineKey e.line e.key
      past := js.foldl (fun m j => serase m (64 * e.line + j)) s.mem.past
      upsets := s.mem.upsets ++ [(6, e.line, 0)]
      l2 := s.mem.l2.filter fun x => x.line != e.line } }

/-- The slices of an M-die at its reset: each dirty line written back where that succeeds, else lost; what the reduction
units have accepted is gone (R403). -/
def State.resetSlices (s : State) (m : Nat) : State :=
  let lost := s.mem.l2.filter fun e => onMdie m e.line && !Config.physical s.tick e.line
  let t := lost.foldl State.loseLine s
  let u := t.clean (onMdie m)
  { u with mem := { u.mem with reductions := u.mem.reductions.filter fun r => !(r.pa < 2 ^ 40 && r.pa / 2 ^ 37 == m) } }

/-- Does an error lie in a die's registers, banks or accumulators, which a reset gives their cold values (R403)? -/
def upsetOn (die : Nat) (u : Nat × Nat × Nat) : Bool :=
  (u.1 == 2 && dieOf (u.2.1 / 1024) == die) || ((u.1 == 1 || u.1 == 4 || u.1 == 11) && dieOf u.2.1 == die)

/-- A die reset (R403): its blocks, caches, translations, queues and requests are gone, with the errors of what they held;
every other record stands. -/
def State.resetDie (s : State) (die : Nat) : State :=
  let t := if 32 ≤ die then s.resetSlices (die - 32) else s
  let here := fun (c : Nat) => dieOf c == die
  let t1 := if here t.blk.core && !t.blk.record.isEmpty then { t with blk := {}, grp := {}, cur := 0, turn := false } else t
  { t1 with
    blocks := t1.blocks.filter fun b => !here b.core
    mem := { t1.mem with
      l1 := t1.mem.l1.filter fun c => !here c.core
      l1i := t1.mem.l1i.filter fun c => !here c.core
      tlb := t1.mem.tlb.filter fun e => holderDie e.holder != die
      requests := t1.mem.requests.filter fun r => !here r.core
      upsets := t1.mem.upsets.filter fun u => !upsetOn die u }
    cores := { t1.cores with
      acc := clearCores t1.cores.acc die 16384
      rollbacks := clearCores t1.cores.rollbacks die 1
      fetches := clearCores t1.cores.fetches die 1
      trim := clearCores t1.cores.trim die 64
      softErrors := t1.cores.softErrors.filter fun e => dieOf e.1 != die
      clk := serase t1.cores.clk die }
    hub := { t1.hub with
      cq := sclear t1.hub.cq (2048 * die) (2048 * (die + 1))
      commands := t1.hub.commands.filter fun c => c.die != die } }

/-- A die reset with the contexts on it removed for cause DIERESET (R390, R392). -/
def State.dieReset (s : State) (die : Nat) (spare : List Nat) : State :=
  let cs := (s.contextsOn die).filter fun a => !spare.contains a
  cs.foldl (fun (t : State) a => t.remove a 0x16) (s.resetDie die)

/-- The dies whose count of a stage of a context's removal has not fallen since the stage began (R392). -/
def State.stalledDies (s : State) (asid stage : Nat) : List Nat :=
  (List.range 40).filter fun d =>
    let n := s.stageCount asid stage d
    n != 0 && s.mgmt.stageCounts.all fun x => !(x.1 == asid && x.2.1 == d) || x.2.2 ≤ n

/-- REMOVAL_ESCALATION (R392): every die whose count has not fallen is reset. -/
def execRemovalEscalation (asid : Nat) (s : State) : Host.Outcome State Fault Refusal :=
  match s.mgmt.removing.find? (·.1 == asid) with
  | none => move s
  | some (_, _, stage) =>
    if s.stageDrained asid stage then move s
    else move ((s.stalledDies asid stage).foldl (fun (t : State) d => t.dieReset d [asid]) s)

/-! ## Accounting (R353) -/

/-- The share of a function in a tick's shared energy (R353): `a` its allocated bytes, `c` its core-ns, `bytes` the
bytes per link and function. -/
def sharedEnergy (eH eL : Nat) (links bytes : List (Nat × Nat × Nat)) (vf a c : Nat) : Nat :=
  let link := fun (l : Nat × Nat × Nat) =>
    let b := ((bytes.find? fun x => x.1 == l.1 && x.2.1 == vf).map (·.2.2)).getD 0
    if l.2.2 = 0 then 0 else l.2.1 * b / l.2.2
  eH * a / 2 ^ 40 + eL * c / 640000000 + (links.map link).foldl (· + ·) 0

/-- ACCOUNTING_TICK (R353): every function's share to USED and QUOTA, the remainder and everything else to the system
account. A correction of the calibration, that of RECAL or one of the sensor loop, takes effect (R350, R398). -/
def execAccountingTick (eH eL : Nat) (links vfs bytes : List (Nat × Nat × Nat)) (s : State) :
    Host.Outcome State Fault Refusal :=
  let shares := vfs.map fun v => (v.1, sharedEnergy eH eL links bytes v.1 v.2.1 v.2.2)
  let total := eH + eL + (links.map (·.2.1)).foldl (· + ·) 0 + Config.restEnergy s.tick
  let given := (shares.map (·.2)).foldl (· + ·) 0
  let t := shares.foldl (fun (u : State) x => u.chargeVf x.1 0 x.2) s
  move { t with iso := { t.iso with
    systemAccount := t.iso.systemAccount + (total - given)
    calibration := if s.iso.recal || Config.choice s.tick 4 then s.tick + 1 else t.iso.calibration
    recal := false } }

/-! ## Soft errors (R393, R397) -/

/-- One more error that has been corrected in a bank since its last trim step (R354). -/
def State.countTrim (s : State) (core bank : Nat) : State :=
  let k := 64 * core + bank
  let w := sget 0 s.cores.trim k
  { s with cores := { s.cores with trim := sset 0 s.cores.trim k (setBits w 7 0 (min 255 (bits w 7 0 + 1))) } }

/-- An error that the code of a structure has corrected, or a retry over a link, whose CRCE counts it (R354, R374, R393). -/
def State.corrected (s : State) (str place : Nat) : State :=
  let t0 := s.countError str false
  let w := s.linkWord place
  let t := if str = 9 then
      { t0 with links := { t0.links with state := sset 0 s.links.state place (setBits w 63 32 (bits w 63 32 + 1)) } }
    else t0
  if (str == 2 || str == 3) && place / 1024 < 512 && place % 1024 < 64 then t.countTrim (place / 1024) (place % 1024) else t

/-- A soft error in a port's receive staging buffer: a byte of one of its payloads reads otherwise, and nothing tells of it
(R427). Places count the buffer's bytes. -/
def State.upsetStaged (s : State) (port place : Nat) : State :=
  let v := (Config.freeDWord s.tick).setWidth 8
  let slots := (List.range s.links.staged.length).filter fun j => s.links.staged[j]?.any (·.1 == port)
  match slots[place / 244]? with
  | none => s
  | some j => { s with links := { s.links with staged := s.links.staged.modify j fun e => (e.1, e.2.set (place % 244) v) } }

/-- A soft error arises (R393, R394). No code corrects one in a register word (1), a bank (2), an accumulator entry (4),
a dirty L2 line (6), a line of HBM (7), the residue of an update (11) or control state (8, of a context); an L1 copy (5,
of a core's line) and a clean L2 line are fetched again; 12 is a port's staging buffer (R427). From 16 on the error is
one of structure k - 16 that is corrected. -/
def State.suffer (s : State) (u : Nat × Nat × Nat) : State :=
  if 16 < u.1 && u.1 < 26 then s.corrected (u.1 - 16) u.2.1
  else if u.1 == 1 || u.1 == 2 || u.1 == 4 || u.1 == 11 || (u.1 == 6 && (s.l2Entry u.2.1).isSome) ||
      (u.1 == 7 && 64 * u.2.1 < 2 ^ 40) then
    let t := { s with mem := { s.mem with upsets := s.mem.upsets ++ [u] } }
    if u.1 = 11 then t else t.countError u.1 true
  else if u.1 = 5 then
    ({ s with mem := { s.mem with
      l1 := s.mem.l1.filter fun c => !(c.core == u.2.1 && c.line == u.2.2)
      l1i := s.mem.l1i.filter fun c => !(c.core == u.2.1 && c.line == u.2.2) } }).countError 5 true
  else if u.1 = 6 then s.countError 6 true
  else if u.1 = 8 then s.controlError u.2.1
  else if u.1 = 12 then s.upsetStaged u.2.1 u.2.2
  else s

/-- BANK_SCRUB (R393, R354): an uncorrectable error of a bank in compute mode poisons its reservation and stands until its
granule is rewritten; a corrected one is counted. Which of them a scrub finds, and where, is a physical matter. -/
def execBankScrub (core bank : Nat) (s : State) : Host.Outcome State Fault Refusal :=
  let covers := fun (b : Block) (r : Resv) => r.mode != 0 && b.core == core &&
    ((b.banks.drop r.first).take r.count).contains bank
  if !(s.allBlocks.any fun b => b.resvs.any (covers b)) then move s
  else
    let known := s.mem.upsets.any fun u => u.1 == 2 && u.2.1 == bankPlace core bank
    if known || Config.physical s.tick (128 * core + 2 * bank) then
      let each := fun (b : Block) =>
        { b with resvs := b.resvs.map fun r => if covers b r then { r with poisoned := true } else r }
      let new := if known then [] else [(2, bankPlace core bank, (Config.freeDWord s.tick).toNat % 4096)]
      move ((({ s with blk := each s.blk, blocks := s.blocks.map each
                       mem := { s.mem with upsets := s.mem.upsets ++ new } } : State).countError 3 true).softError core 3)
    else if Config.physical s.tick (128 * core + 2 * bank + 1) then move (s.corrected 3 (bankPlace core bank))
    else move s

/-- L2_SCRUB (R393): a dirty line whose error cannot be corrected is poisoned; a clean one is fetched again; an error that
is corrected is counted. -/
def execL2Scrub (line : Nat) (s : State) : Host.Outcome State Fault Refusal :=
  if (s.l2Entry line).isSome && Config.physical s.tick line then
    move ({ s with mem := { s.mem with upsets := s.mem.upsets ++ [(6, line, 0)] } }.countError 6 true)
  else if Config.physical s.tick (2 ^ 40 + line) then move (s.countError 6 false)
  else move s

/-- HBM_PATROL_SCRUB (R393): a line whose error cannot be corrected is poisoned; one that is corrected is counted. -/
def execHbmPatrolScrub (line : Nat) (s : State) : Host.Outcome State Fault Refusal :=
  if 64 * line < 2 ^ 40 && Config.physical s.tick line then
    move ({ s with mem := { s.mem with upsets := s.mem.upsets ++ [(7, line, 0)] } }.countError 7 true)
  else if Config.physical s.tick (2 ^ 40 + line) then move (s.countError 7 false)
  else move s

/-- ROW_SPARING (R397): the row is remapped; every read returns what it would have returned. -/
def execRowSparing (row : Nat) (s : State) : Host.Outcome State Fault Refusal :=
  if s.mgmt.spared.contains row then move s else move { s with mgmt := { s.mgmt with spared := s.mgmt.spared ++ [row] } }

/-! ## Power and temperature (R354, R406, R407) -/

/-- Target MHz and capping reason of a die. -/
def State.dieMHz (s : State) (die : Nat) : Nat := bits (s.dvfsWord die) 63 48
def State.dieReason (s : State) (die : Nat) : Nat := bits (s.dvfsWord die) 7 0

/-- A die moved to a DVFS point for a reason (R406). -/
def State.setPoint (s : State) (die mhz reason : Nat) : State :=
  let w := setBits (setBits (s.dvfsWord die) 63 48 mhz) 47 32 mhz
  let w1 := setBits (setBits w 31 16 (Config.voltage mhz).toNat) 7 0 reason
  { s with mgmt := { s.mgmt with dvfs := sset dvfsReset s.mgmt.dvfs die w1 } }

/-- Does a die's point fall for its temperature (R407)? -/
def State.isHot (s : State) (die : Nat) : Bool := sget 0 s.mgmt.hot die != 0

/-- The state in which capping for power has a say in a die's point: its reason now, or once it is cool again (R354,
R406, R407). -/
def State.powerStep (s : State) (die mhz : Nat) : State :=
  if s.isHot die then { (s.setPoint die mhz 2) with mgmt := { (s.setPoint die mhz 2).mgmt with hot := sset 0 s.mgmt.hot die 2 } }
  else s.setPoint die mhz 1

/-- The cores drawing most, on which issue is held to one clk in two (R406): which they are is a physical matter. The
capping reason of every K-die reads 1, of one that is too hot once it is cool again (R407). -/
def State.throttle (s : State) : State :=
  let t := (List.range 32).foldl (fun (u : State) d => u.powerStep d (u.dieMHz d)) s
  { t with mgmt := { t.mgmt with throttled := (List.range 640).filter fun c => Config.choice s.tick (2 ^ 23 + c) } }

/-- POWER_SAMPLE (R406): above the cap the K-die that draws the most falls by one step, and issue is held on cores where
every K-die stands at 900 MHz; 50 W under the cap for 10 ms a die rises by one step, but not one that is too hot (R407). -/
def execPowerSample (meanWatts hottest coolest : Nat) (under10ms : Bool) (s : State) : Host.Outcome State Fault Refusal :=
  if s.mgmt.powerCap < meanWatts then
    if (List.range 32).all fun d => s.dieMHz d ≤ 900 then move s.throttle
    else if hottest < 32 && 900 < s.dieMHz hottest then move (s.powerStep hottest (s.dieMHz hottest - 25))
    else move s
  else
    let t := { s with mgmt := { s.mgmt with throttled := [] } }
    if under10ms && meanWatts + 50 ≤ s.mgmt.powerCap && coolest < 40 && s.dieMHz coolest < 1800 && !s.isHot coolest then
      let m := s.dieMHz coolest + 25
      move (t.setPoint coolest m (if m = 1800 then 0 else s.dieReason coolest))
    else move t

/-- A die's temperature as its sensors read it (R407). -/
def State.setTemp (s : State) (die temp : Nat) : State :=
  { s with mgmt := { s.mgmt with dvfs := sset dvfsReset s.mgmt.dvfs die (setBits (s.dvfsWord die) 15 8 temp) } }

/-- TEMPERATURE_CAPPING (R407): above 95 C a die's point falls one step, until the die is below 92 C; at 110 C it is reset. -/
def execTemperatureCapping (die temp : Nat) (s : State) : Host.Outcome State Fault Refusal :=
  if 40 ≤ die then move s
  else
    let t := s.setTemp die (min temp 255)
    if 110 ≤ temp then move (t.dieReset die [])
    else if 95 < temp || (t.isHot die && 92 ≤ temp) then
      let u := t.setPoint die (max 900 (t.dieMHz die - 25)) 2
      let was := if t.isHot die then sget 0 t.mgmt.hot die else t.dieReason die % 2 + 1
      move { u with mgmt := { u.mgmt with hot := sset 0 u.mgmt.hot die was } }
    else if t.isHot die then
      let u := t.setPoint die (t.dieMHz die) (sget 0 t.mgmt.hot die - 1)
      move { u with mgmt := { u.mgmt with hot := serase u.mgmt.hot die } }
    else move t

/-- THERMTRIP (R407): the die is reset and the contexts on it removed. -/
def execThermtrip (die : Nat) (s : State) : Host.Outcome State Fault Refusal :=
  if 40 ≤ die then move s else move ((s.setTemp die 110).dieReset die [])

/-- THERMAL (R364, R407): coolant outside its limits, an inlet above 40 C (0) or a flow below 6 L/min (1), told to the
physical function. -/
def execThermal (reason value : Nat) (s : State) : Host.Outcome State Fault Refusal :=
  if !(reason == 0 && 40 < value || reason == 1 && value < 6) then move s else move (s.event physicalFn 8 0 (BitVec.ofNat 64 (reason % 256 + value % 256 * 256)) 0)

/-- BANK_SENSE_TRIM_STEP (R354): a new threshold code, the corrected-error count restarted. -/
def execBankSenseTrimStep (core bank code : Nat) (s : State) : Host.Outcome State Fault Refusal :=
  if 512 ≤ core || 64 ≤ bank then move s
  else move { s with cores := { s.cores with trim := sset 0 s.cores.trim (64 * core + bank) (BitVec.ofNat 64 (code % 256 * 256)) } }

/-- The pre-error count of a lane (R354): what the lane has corrected since, added modulo 2 to the 32. -/
def State.countPre (s : State) (k : Nat) : State :=
  let w := sget 0 s.links.taps k
  { s with links := { s.links with taps := sset 0 s.links.taps k (setBits w 63 32 (bits w 63 32 + Config.preErrors k s.tick)) } }

/-- LINK_EQUALISATION (R354): a lane's taps and eye margin, and what it has counted by then. -/
def execLinkEqualisation (port lane main pre post margin : Nat) (s : State) : Host.Outcome State Fault Refusal :=
  if 16 ≤ port || 8 ≤ lane then move s
  else
    let k := 8 * port + lane
    let w := main % 256 * 2 ^ 24 + pre % 256 * 2 ^ 16 + post % 256 * 2 ^ 8 + margin % 256
    let t := s.countPre k
    move { t with links := { t.links with taps := sset 0 t.links.taps k (setBits (sget 0 t.links.taps k) 31 0 w) } }

end Sys2Proof.Machine
end

