-- ==== Sys2Proof/Machine/Links.lean ====
section
/-! DEFINITION. Links, snoops, fabric ports, host accesses, peer requests, queue windows and registers
(16_isolation_host_and_peers.md R359-R375). -/

namespace Sys2Proof.Machine

/-! ## Link states (R374) -/

/-- Is a host module up: one at least trained and not DOWN (R359)? -/
def State.hostUp (s : State) : Bool := (List.range 4).any fun m => 2 ≤ s.linkST (56 + m)

/-- Is a number that of a link? -/
def isLink (l : Nat) : Bool := l < 60

/-- Snoops that wait for a link delivered as it becomes ACTIVE (R375). -/
def State.deliverSnoops (s : State) (l : Nat) : State := s.endSnoops l (if s.timerRan l then 2 else 1)

/-- An event of the module: LINKDOWN for a link of a kind (R364). -/
def State.linkDown (s : State) (kind idx : Nat) : State := s.event physicalFn 4 0 (BitVec.ofNat 64 (kind + idx * 256)) 0

/-- The kind and the index by which an event names a link (R364). -/
def linkKind (l : Nat) : Nat × Nat := if l < 40 then (1, l) else if l < 56 then (2, l - 40) else (0, l - 56)

/-- Is a request outstanding on a fabric port (R371)? -/
def State.usesPort (s : State) (p : Nat) (r : Request) : Bool :=
  2 ^ 58 ≤ r.pa && !r.spad && r.port.isNone && s.portOf r.asid (moduleOf r.pa) (r.pa / 64) == some p

/-- The requests outstanding on a port that goes DOWN: the port stands with each, which goes over a remaining port once it is
over, or fails with LINK or ECC and this PORT (R371, R373). -/
def State.leavePort (s : State) (p : Nat) : State :=
  let mark := fun (r : Request) => if s.usesPort p r then { r with port := some p } else r
  { s with mem := { s.mem with requests := s.mem.requests.map mark, reductions := s.mem.reductions.map mark } }

/-- A link that has failed to train: DOWN, and LINKDOWN sent (R359, R373). R364 gives a die link a kind of its own, so that
it is sent for one too (log entry 87). What was under way over it is an error of links that nothing corrects (R393), and the
requests outstanding on a port go another way or fail (R371). -/
def State.linkFails (s : State) (l : Nat) : State :=
  let t := if 40 ≤ l && l < 56 then s.leavePort (l - 40) else s
  ((t.countError 9 true).setLink l 0).linkDown (linkKind l).1 (linkKind l).2

/-- A link that begins to retrain: RTRN counts it (R374). -/
def State.retrain (s : State) (l : Nat) : State :=
  let w := s.linkWord l
  { s with links := { s.links with state := sset 0 s.links.state l (setBits w 31 16 (bits w 31 16 + 1)) } }.setLink l 1

/-- Has a link an outstanding request: one that crosses it, or an engine command of its die that has begun (R374)? -/
def State.linkBusy (s : State) (l : Nat) : Bool :=
  ((s.mem.requests ++ s.mem.reductions).any fun r => !r.spad && (s.route r.asid r.core r.pa).contains l) ||
    s.hub.commands.any fun c => c.run.any fun r =>
      (c.die == l || r.todo.any fun ws => ws.any fun w => (s.route c.asid 9999 w.1.1).contains l)

/-- LINK_SLEEP (R374): an idle link enters SLEEP. -/
def execLinkSleep (link : Nat) (s : State) : Host.Outcome State Fault Refusal :=
  if isLink link && s.linkST link = 2 && !(s.links.snoops.any (·.1 == link)) && !s.linkBusy link then move (s.setLink link 3) else move s

/-- LINK_WAKE (R374): a sleeping link enters WAKING. -/
def execLinkWake (link : Nat) (s : State) : Host.Outcome State Fault Refusal :=
  if s.linkST link = 3 then move (s.setLink link 4) else move s

/-- WAKE_COMPLETE (R374): ACTIVE, or TRAINING where the wake failed. -/
def execWakeComplete (link : Nat) (ok : Bool) (s : State) : Host.Outcome State Fault Refusal :=
  if s.linkST link != 4 then move s
  else if ok then move ((s.setLink link 2).deliverSnoops link)
  else move (s.retrain link)

/-- LINK_TRAINING_DONE (R359, R373, R374): ACTIVE, or DOWN. -/
def execLinkTrainingDone (link : Nat) (ok : Bool) (s : State) : Host.Outcome State Fault Refusal :=
  if s.linkST link != 1 then move s
  else if ok then move ((s.setLink link 2).deliverSnoops link)
  else move (s.linkFails link)

/-- The module that a snoop of a line over a fabric port is for: one that caches the line, else the lowest other one that the
routing table says the port reaches (R371, R375; log entry 87). -/
def State.portModule (s : State) (port line : Nat) : Nat :=
  match s.links.copies.find? fun x => x.2.1 == line && (s.portsTo x.1).contains port with
  | some x => x.1
  | none => ((s.links.routes.find? fun e => e.1 < 8192 && e.1 != s.ownModule && e.2.testBit port).map (·.1)).getD 0

/-- SNOOP (R375), of a die or of a module behind a fabric port: delivered at once over an ACTIVE link; else it waits, waking a
link that sleeps. -/
def execSnoop (link line : Nat) (s : State) : Host.Outcome State Fault Refusal :=
  if link < 56 then move (s.snoop link line (if 40 ≤ link then s.portModule (link - 40) line else 0)) else move s

/-- The event DEADDIE of a die or a module (R364). -/
def State.deadEvent (s : State) (kind idx : Nat) : State := s.event physicalFn 5 0 (BitVec.ofNat 64 (kind + idx * 2 ^ 16)) 0

/-- DEAD_DIE_TIMER (R375): a die, or each module that a waiting fabric snoop is for, whose timer has run out is dead: its snoops
complete and its copies are dropped; the contexts of a die are removed with cause DEADDIE and it is taken offline. -/
def execDeadDieTimer (link : Nat) (s : State) : Host.Outcome State Fault Refusal :=
  if !s.timerRuns link || s.linkST link = 2 || s.linkST link = 4 then move s
  else
    let t := s.endSnoops link 3
    if 40 ≤ link then
      let dead := distinct ((s.links.snoops.filter (·.1 == link)).map (·.2.2))
      let u := dead.foldl (fun (u : State) m => u.deadEvent 2 m) t
      move { u with links := { u.links with copies := u.links.copies.filter fun x => !dead.contains x.1 } }
    else
      let u := if link < 32 then t.deadEvent 0 link else t.deadEvent 1 (link - 32)
      let v := { u with mem := { u.mem with l1 := u.mem.l1.filter fun c => dieOf c.core != link } }
      let w := (v.contextsOn link).foldl (fun (x : State) a => x.remove a 0x15) v
      move { w with mgmt := { w.mgmt with offline := if w.mgmt.offline.contains link then w.mgmt.offline else w.mgmt.offline ++ [link] } }

/-- UCIE_MODULE_FAILURE (R359): the module is down, LINKDOWN is sent; the others carry its traffic. -/
def execUcieModuleFailure (m : Nat) (s : State) : Host.Outcome State Fault Refusal :=
  if 4 ≤ m then move s else move (s.linkFails (56 + m))

/-! ## Fabric ports (R372, R373) -/

/-- Header fields of a flit (R372). -/
def flitSEQ (h : BitVec 64) : Nat := bits h 63 52
def flitACK (h : BitVec 64) : Nat := bits h 51 40
def flitKIND (h : BitVec 64) : Nat := bits h 39 38
def flitVC (h : BitVec 64) : Nat := bits h 37 36
def flitCRED (h : BitVec 64) : Nat := bits h 35 28

/-- The header of a flit: its bytes 0 to 7 (R372). -/
def flitHeader (flit : List Byte) : BitVec 64 := BitVec.ofNat 64 (natOfBytes (flit.take 8))

/-- A CRC-32 of the IEEE 802.3 polynomial after one more byte, in that standard's own bit order (PRESUMED, log entry 88). -/
def crc32Byte (c : BitVec 32) (b : Byte) : BitVec 32 :=
  (List.range 8).foldl (fun (c : BitVec 32) _ => if c.getLsbD 0 then (c >>> 1) ^^^ 0xEDB88320 else c >>> 1) (c ^^^ b.setWidth 32)

/-- The CRC-32 of bytes (R372). -/
def crc32 (bs : List Byte) : BitVec 32 := ~~~(bs.foldl crc32Byte 0xFFFFFFFF)

/-- Has a flit its 256 bytes, the last four of them the CRC-32 of the others (R372)? -/
def flitGood (flit : List Byte) : Bool :=
  flit.length == 256 && natOfBytes ((flit.drop 252).take 4) == (crc32 (flit.take 252)).toNat

/-- A failed flit (R373, R374): CRCE and the failures in a row counted, a NAK sent with the last good SEQ. -/
def State.countCrc (s : State) (port : Nat) : State :=
  let t := s.corrected 9 (40 + port)
  { t with
    links := { t.links with
      fails := sset 0 s.links.fails port (sget 0 s.links.fails port + 1)
      naked := sset 0 s.links.naked port (sget 0 s.links.rxSeq port + 1) } }

/-- A good flit in order (R372, R373): SEQ, the credits that it returns, and its payload, where it carries data, in the
receive staging buffer of its port, which holds four (R427). -/
def State.takeFlit (s : State) (port : Nat) (flit : List Byte) : State :=
  let hdr := flitHeader flit
  let key := 4 * port + flitVC hdr
  let mine := s.links.staged.filter (·.1 == port)
  let kept := (mine ++ [(port, (flit.drop 8).take 244)]).drop (mine.length - 3)
  { s with
    links := { s.links with
      rxSeq := sset 0 s.links.rxSeq port (flitSEQ hdr)
      fails := sset 0 s.links.fails port 0
      naked := serase s.links.naked port
      credits := sset 0 s.links.credits key (sget 0 s.links.credits key + flitCRED hdr)
      staged := if flitKIND hdr = 0 then s.links.staged.filter (·.1 != port) ++ kept else s.links.staged } }

/-- The flits of a replay buffer after the last good one: those that are sent again, in order, where a NAK names it (R373).
What is before them is acknowledged and leaves the buffer. -/
def afterAck (port ack : Nat) (buf : List (Nat × Nat)) : List (Nat × Nat) :=
  if buf.contains (port, ack % 4096) then
    (buf.takeWhile (· != (port, ack % 4096))).filter (·.1 != port) ++ (buf.dropWhile (· != (port, ack % 4096))).drop 1
  else buf

/-- The sender goes back to the flit after the last good one (R373). -/
def State.replayFrom (s : State) (port ack : Nat) : State :=
  { s with links := { s.links with
    txAck := sset 0 s.links.txAck port (ack % 4096)
    replay := afterAck port ack s.links.replay } }

/-- FLIT_RECEIVE (R372, R373): a bad flit is discarded, counted and answered with a NAK, and every flit out of order is
discarded; a good one in order moves the last good SEQ and takes its ACK, which for a NAK is where the replay begins. Its
lanes count what they have corrected (R354). The flit comes as its header and the bytes that follow. -/
def execFlitReceive (port : Nat) (hdr : BitVec 64) (rest : List (BitVec 8)) (s : State) : Host.Outcome State Fault Refusal :=
  if 16 ≤ port || !s.portUp port then move s
  else
    let flit := bytesOfNat 8 hdr.toNat ++ rest
    let t := (List.range 8).foldl (fun (u : State) k => u.countPre (8 * port + k)) s
    if !flitGood flit then move (t.countCrc port)
    else if flitSEQ (flitHeader flit) != (sget 0 s.links.rxSeq port + 1) % 4096 then move t
    else move ((t.takeFlit port flit).replayFrom port (flitACK (flitHeader flit)))

/-- NAK (R373). -/
def execNak (port ack : Nat) (s : State) : Host.Outcome State Fault Refusal :=
  if 16 ≤ port then move s else move (s.replayFrom port ack)

/-- PORT_RETRAIN (R373): after 8 failures in a row the port retrains; after 3 failed retrains it is DOWN. A port that is
DOWN, for want of an owner too, stays there (R371). -/
def execPortRetrain (port : Nat) (ok : Bool) (s : State) : Host.Outcome State Fault Refusal :=
  if 16 ≤ port || sget 0 s.links.fails port < 8 || s.linkST (40 + port) = 0 then move s
  else
    let l := 40 + port
    let n := sget 0 s.links.retrains port + 1
    let t := s.retrain l
    let clear := fun (u : State) (k : Nat) =>
      { u with links := { u.links with fails := sset 0 u.links.fails port k, retrains := sset 0 u.links.retrains port 0 } }
    if ok then move (((clear t 0).setLink l 2).deliverSnoops l)
    else if n < 3 then
      move { t with links := { t.links with retrains := sset 0 t.links.retrains port n } }
    else move ((clear t 0).linkFails l)

/-! ## Host accesses to HBM (R341, R361) -/

/-- HDM decoder range `k` of a function: host base and length in 1 GiB granules, and the first granule (R361). -/
def State.hdmRange (s : State) (vf k : Nat) : Nat × Nat × Nat :=
  let a := sget 0 s.mgmt.hdm (16 * vf + 2 * k)
  let b := sget 0 s.mgmt.hdm (16 * vf + 2 * k + 1)
  (bits a 63 30, bits b 63 32, bits b 9 0)

/-- The device address that a function's decoders give a host address (R361). -/
def State.hdmTarget (s : State) (vf hpa : Nat) : Option Nat :=
  ((List.range 8).map (s.hdmRange vf)).findSome? fun r =>
    if r.1 ≤ hpa / 2 ^ 30 && hpa / 2 ^ 30 < r.1 + r.2.1 then some ((r.2.2 + hpa / 2 ^ 30 - r.1) * 2 ^ 30 + hpa % 2 ^ 30)
    else none

/-- May a function's host reach a device address (R341, R346, R361)? -/
def State.hostMay (s : State) (vf pa : Nat) : Bool :=
  let part := s.partOf vf
  let g := sget 0 s.iso.granule (pa / 2 ^ 30)
  (s.vfWord vf 1).getLsbD 0 && pa < 2 ^ 40 && g.getLsbD 7 && bits g 5 0 == part && (s.partWord part 5).getLsbD 0 &&
    s.keyUsable (bits (s.vfWord vf 0) 17 6) part

/-- An access denied that no context has made (R341, R361, R364): FWALL to the physical function, and to the function whose
access it is. -/
def State.hostDenied (s : State) (vf : Option Nat) (fw : Nat) (addr : DWord) (kind : Nat) : State :=
  let tag : Word := match vf with
    | some v => BitVec.ofNat 32 (s.partOf v * 2 ^ 26 + v * 2 ^ 16)
    | none => 0
  let t := { s with iso := { s.iso with violations := sset 0 s.iso.violations fw (sget 0 s.iso.violations fw + 1) } }
  let det1 := BitVec.ofNat 64 (kind + fw * 2 ^ 32)
  let u := match vf with
    | some v => t.event v 2 tag addr det1
    | none => t
  u.event physicalFn 2 tag addr det1

/-- The answer to a read of a host kept: bytes, and whether they carry poison (R361). -/
def State.answerHost (s : State) (bs : List Byte) (poison : Bool) : State :=
  { s with links := { s.links with hostReply := some (bs, poison) } }

/-- The answer to a host access that is denied: a read returns data with poison set, a write is discarded (R361). -/
def State.refuseHost (s : State) (write : Bool) (n : Nat) : State :=
  if write then s else s.answerHost (openBytes s.tick n) true

/-- Lines that the host may keep after it has reached them, freely, in the hub directory's record (R360). -/
def State.hostKeeps (s : State) (ls : List Nat) : State :=
  { s with mem := { s.mem with hostLines :=
    s.mem.hostLines ++ ls.filter fun l => !s.mem.hostLines.contains l && Config.choice s.tick (2 ^ 25 + l) } }

/-- Has a move that is held come before on one of these lines (R325)? -/
def State.behindHeld (s : State) (ls : List Nat) : Bool := s.mem.held.any fun h => ls.any h.1.contains

/-- A write of another agent at its home, or the move held back where its line is (R325, R333); `asid` and `cp` name the
key it goes under. -/
def State.outsideWrite (s : State) (i : Instr) (asid cp pa : Nat) (data : List (BitVec 8)) : State :=
  let ws := (numbered data).map fun (j, v) => ((pa + j, cp), v)
  if (distinct (ws.map (·.1.1 / 64))).any (fun l => s.lineHeld none false l) || s.behindHeld (ws.map (·.1.1 / 64)) then
    { s with mem := { s.mem with held := s.mem.held ++ [(distinct (ws.map (·.1.1 / 64)), i)] } }
  else if ws.isEmpty then s
  else s.perform none asid 9999 ws

/-- HOST_MEM_ACCESS (R360, R361): a write is performed at its home under HKEY, or discarded; a read, of as many bytes as
`data` has, is answered with the bytes, or with poison. A denied access is counted and reported, by the hub's firewall where
no decoder range holds it. A read waits behind what is held of its lines (R325). -/
def execHostMemAccess (vf hpa : Nat) (write : Bool) (data : List (BitVec 8)) (s : State) :
    Host.Outcome State Fault Refusal :=
  match s.hdmTarget vf hpa with
  | none => move ((s.hostDenied (some vf) 0 (BitVec.ofNat 64 hpa) 2).refuseHost write data.length)
  | some pa =>
    let asid := 65536 + bits (s.vfWord vf 0) 17 6
    let n := min data.length (2 ^ 30 - pa % 2 ^ 30)
    let places := (List.range n).map fun j => (pa + j, 0)
    let ls := distinct (places.map (·.1 / 64))
    if !s.hostMay vf pa then
      move ((s.hostDenied (some vf) (1 + pa / 2 ^ 37 % 8) (BitVec.ofNat 64 pa) 2).refuseHost write data.length)
    else if write then move ((s.outsideWrite (.hostMemAccess vf hpa write data) asid 0 pa (data.take n)).hostKeeps ls)
    else if s.behindHeld ls then move { s with mem := { s.mem with held := s.mem.held ++ [(ls, .hostMemAccess vf hpa write data)] } }
    else move ((s.answerHost (places.map (s.readAt asid)) (places.any fun at_ => (s.unreadable asid at_).isSome)).hostKeeps ls)

/-! ## Peer requests at the exporter (R370) -/

/-- A request of another module denied (R341, R364, R370): at the address that the export gives it, or of an entry of the
walk. One whose handle names no entry in use, or whose page is not mapped, has no physical address: what the event says
there is free. -/
def State.peerDenied (s : State) (idx off : Nat) : State :=
  let w0 := s.exportWord idx 0
  let vf := if exST w0 = 0 then none else some (s.vfOf (exASID w0))
  match (if exST w0 = 0 then none else s.translate .hub (exASID w0) (bits (s.exportWord idx 1) 56 0 + off)) with
  | some (f, leaf) =>
    if walkDenied leaf then s.denied (exASID w0) f 4 else s.denied (exASID w0) (4096 * f + off % 4096) 3
  | none => s.hostDenied vf 0 (Config.freeDWord s.tick) 3

/-- An IMPORT that names a live entry with a wrong CHK (R368): BAD counts it, and at 15 the entry is REVOKING, to be freed
once its requests are over (R370). -/
def State.failedImport (s : State) (idx : Nat) : State :=
  let w0 := s.exportWord idx 0
  let n := min 15 (bits w0 63 60 + 1)
  let w := setBits w0 63 60 n
  { s with links := { s.links with
    exports := sset 0 s.links.exports (4 * idx) (if n = 15 then setBits w 56 54 2 else w) } }

/-- A line under an export that the module which reads it may cache, freely, in the hub directory's record; which module
that is its packet says (R181, R375). The host's copy is taken back first (R360). -/
def State.exportCopy (s : State) (idx line : Nat) : State :=
  let m := (Config.freeDWord s.tick).toNat % 8192
  let t := s.recall [line]
  if Config.choice s.tick 5 && !s.links.copies.contains (m, line, idx) then
    { t with links := { t.links with copies := t.links.copies ++ [(m, line, idx)] } }
  else t

/-- The slots of this module that import under a handle of another one REVOKED, as that module tells (R370): their L1 copies
dropped, and their functions' hosts told. -/
def State.revokedFrom (s : State) (handle : BitVec 64) : State :=
  let ks := (s.links.peerHandle.filter fun e => e.2 == handle && bits (sget 0 s.links.peerSlot e.1) 63 62 == 1).map (·.1)
  ks.foldl (fun (u : State) k =>
    let die := k / 256
    let v := { u with
      mem := { u.mem with l1 := u.mem.l1.filter fun c => dieOf c.core != die }
      links := { u.links with peerSlot := sset 0 u.links.peerSlot k (setBits (sget 0 u.links.peerSlot k) 63 62 2) } }
    match (List.range 1024).find? fun f => (v.vfWord f 1).getLsbD 0 && (v.vfWord f 0).getLsbD (32 + die) with
    | some f => v.event f 6 0 handle (BitVec.ofNat 64 (die + k % 256 * 256))
    | none => v) s

/-- PEER_REQUEST (R370): a request of another module under an export, translated under the exporter's address space and
performed under the key slot that the export's record names; `kind` is 0 read, 1 write, 2 atomic, whose data are the bytes
it leaves. It touches one page. Kind 3 is an IMPORT of another module that names the entry (R368), kind 4 another module's
word that the export of `handle` is revoked. -/
def execPeerRequest (handle : BitVec 64) (off kind n : Nat) (data : List (BitVec 8)) (s : State) :
    Host.Outcome State Fault Refusal :=
  let idx := hIdx handle
  let w0 := s.exportWord idx 0
  let asid := exASID w0
  if kind = 4 then move (if hMod handle = s.ownModule then s else s.revokedFrom handle)
  else if kind = 3 then
    move (if hMod handle = s.ownModule && exST w0 == 1 && sget 0 s.links.serial idx == hSer handle &&
      bits w0 47 32 != hChk handle then s.failedImport idx else s)
  else if hMod handle != s.ownModule || exST w0 != 1 || sget 0 s.links.serial idx != hSer handle || bits w0 47 32 != hChk handle ||
      bits (s.exportWord idx 2) 40 0 < off + n || !(bits w0 59 57).testBit kind then move (s.peerDenied idx off)
  else
    match s.exportPlace idx off (if kind = 0 then .load else if kind = 1 then .store else .rmw) 0 with
    | .at_ pa cp =>
      if kind = 0 then
        move (if s.behindHeld [pa / 64] then
          { s with mem := { s.mem with held := s.mem.held ++ [([pa / 64], .peerRequest handle off kind n data)] } }
        else (s.fillTlb .hub asid (bits (s.exportWord idx 1) 56 0 + off)).exportCopy idx (pa / 64))
      else move (s.outsideWrite (.peerRequest handle off kind n data) asid cp pa ((data.take n).take (4096 - off % 4096)))
    | .gone _ _ denied => move (if denied then s.peerDenied idx off else s)

/-! ## Queue windows and registers (R5, R362, R363) -/

/-- QUEUE_DOORBELL (R363): TAIL of a queue of the function's windows. -/
def execQueueDoorbell (vf q tail : Nat) (s : State) : Host.Outcome State Fault Refusal :=
  let w := s.vfWord vf 1
  if bits w 19 8 < q then move s
  else move (s.putWq (bits w 31 20 + q) 3 (BitVec.ofNat 64 tail) false)

/-- Word `w` of a function's command block, and its status word (R409). -/
def State.blockWord (s : State) (fn w : Nat) : DWord := sget 0 s.mgmt.command (8 * fn + w)
/-- Word `w` of the command that a function has under way, as it stood at the doorbell (R409). -/
def State.cmdWord (s : State) (fn w : Nat) : DWord :=
  match s.mgmt.running.find? (·.fn == fn) with
  | some c => c.words.getD w 0
  | none => 0
def State.cmdStatus (s : State) (fn : Nat) : DWord := sget 0 s.mgmt.status fn
/-- BUSY (R362). -/
def State.cmdBusy (s : State) (fn : Nat) : Bool := (s.cmdStatus fn).getLsbD 63

/-- Is a function's command the one that executes: BUSY, and the oldest (R408)? -/
def State.cmdRuns (s : State) (fn : Nat) : Bool := s.cmdBusy fn && (s.mgmt.running.head?).any (·.fn == fn)

/-- A doorbell (R408, R409): ignored while BUSY, else the command is under way. -/
def State.doorbell (s : State) (fn : Nat) : State :=
  if s.cmdBusy fn then s
  else { s with mgmt := { s.mgmt with
    status := sset 0 s.mgmt.status fn (BitVec.ofNat 64 (2 ^ 63))
    running := s.mgmt.running ++ [⟨fn, (List.range 7).map (s.blockWord fn), false⟩] } }

/-- What follows where QUOTA of a function stands above zero again: its exhaustion is over, and pre-emptions for QUOTA whose
saves have not begun are off (R343, R352). -/
def State.quotaRaised (s : State) (vf : Nat) : State :=
  let begun := fun (a : Nat) => s.allGroups.any fun bg => bg.1.asid == a && bg.2.saved.isSome
  if exhausted (s.vfWord vf 2) then s
  else
    { s with
      iso := { s.iso with spent := s.iso.spent.filter (· != vf) }
      mgmt := { s.mgmt with preempt := s.mgmt.preempt.filter fun x => !(x.2 == 0x0D && s.vfOf x.1 == vf && !begun x.1) } }

/-- QUOTA written by the physical function (R343, R352). -/
def State.setQuota (s : State) (vf : Nat) (v : DWord) : State :=
  { s with iso := { s.iso with vf := sset 0 s.iso.vf (4 * vf + 2) v } }.quotaRaised vf

/-- The windows of the physical function that the model lays out for records that only it writes (log entry 30): HDM
decoders, address-space records and quotas. -/
def pfHdm : Nat := 2 ^ 20
def pfSpace : Nat := 2 ^ 25
def pfQuota : Nat := 2 ^ 26
/-- The first queue window (BAR0) of a function. -/
def windowBase : Nat := 2 ^ 24

/-- A write of `n` bytes to a queue window (R363): TAIL is the doorbell's. A narrower or misaligned one is discarded and
logged by the hub's firewall, under the offset in the window. -/
def State.windowWrite (s : State) (fn o n : Nat) (v : DWord) : State :=
  let pf := fn == physicalFn
  let w := s.vfWord fn 1
  let q := o / 4096
  if o % 8 != 0 || n != 8 then s.hostDenied (if pf then none else some fn) 0 (BitVec.ofNat 64 o) 2
  else if o % 4096 ≥ 32 || (!pf && bits w 19 8 < q) || 4096 ≤ q then s
  else s.putWq (if pf then q else bits w 31 20 + q) (o % 4096 / 8) v pf

/-- What ends with an address space (R244, R391): its bindings, and its ranks' places among their collectives (R264). -/
def State.endSpace (s : State) (asid : Nat) : State :=
  { s with
    mem := { s.mem with bindings := s.mem.bindings.filter (·.1 != asid) }
    hub := { s.hub with collCount := sclear s.hub.collCount (asid * 2 ^ 48) ((asid + 1) * 2 ^ 48) } }

/-- An address-space record word written by the host: KEY, VF, V and SUP, ROOT, not GEN (R344). -/
def State.hostSpace (s : State) (k : Nat) (v : DWord) : State :=
  let old := sget 0 s.iso.space k
  let w := if k % 2 = 0 then setBits (setBits old 51 21 (bits v 51 21)) 16 16 (bits v 16 16)
    else setBits (setBits (setBits 0 43 32 (bits v 43 32)) 25 16 (bits v 25 16)) 0 0 (bits v 0 0)
  let t := { s with iso := { s.iso with space := sset 0 s.iso.space k w } }
  if k % 2 = 1 && old.getLsbD 0 && !v.getLsbD 0 then t.endSpace (k / 2) else t

/-- REGISTER_WRITE (R5, R362, R363, R409): a write of bytes by a function, through BAR2 or, from 2^24 on, its queue
windows; what is read-only stays, and BAR2 takes aligned writes of 8 bytes (log entry 30). -/
def execRegisterWrite (fn off : Nat) (data : List (BitVec 8)) (s : State) : Host.Outcome State Fault Refusal :=
  let pf := fn == physicalFn
  let bytes := data.length
  let value : BitVec 64 := BitVec.ofNat 64 (natOfBytes data)
  if physicalFn < fn then move s
  else if windowBase ≤ off && off < 2 * windowBase then move (s.windowWrite fn (off - windowBase) bytes value)
  else if off % 8 != 0 || bytes != 8 then move s
  else if 0x100 ≤ off && off < 0x140 then
    move { s with mgmt := { s.mgmt with command := sset 0 s.mgmt.command (8 * fn + (off - 0x100) / 8) value } }
  else if off = 0x140 then move (s.doorbell fn)
  else if 0x200 ≤ off && off < 0x1200 then
    move { s with
      mgmt := { s.mgmt with mailbox := (List.range 8).foldl (fun m j =>
        sset 0 m (4096 * fn + (off - 0x200) + j) (value.extractLsb' (8 * j) 8)) s.mgmt.mailbox } }
  else if off = 0x4008 then move { s with mgmt := { s.mgmt with eri := sset 0 s.mgmt.eri fn value.toNat } }
  else if pf && pfHdm ≤ off && off < pfHdm + 131072 then
    move { s with mgmt := { s.mgmt with hdm := sset 0 s.mgmt.hdm ((off - pfHdm) / 8) value } }
  else if pf && pfSpace ≤ off && off < pfSpace + 1048576 then move (s.hostSpace ((off - pfSpace) / 8) value)
  else if pf && pfQuota ≤ off && off < pfQuota + 8192 then move (s.setQuota ((off - pfQuota) / 8) value)
  else move s

/-- Word `w` of slot `k` of a function's event ring, the event that it last took (R364). -/
def State.ringWord (s : State) (fn k w : Nat) : DWord :=
  match s.mgmt.events.reverse.find? fun e => e.1 == fn && e.2.1 % 256 == k with
  | some (_, _, e) => [BitVec.ofNat 64 (e.code + e.tag.toNat * 2 ^ 32), e.time, e.det0, e.det1].getD w 0
  | none => 0

/-- What a function's host reads in eight aligned bytes through BAR2, or, from 2^24 on, through its queue windows (R343,
R362-R364, R405, R409; the physical function's further windows: log entry 30). An offset with no meaning, and the doorbell,
read as zero. -/
def State.registerRead (s : State) (fn off : Nat) : DWord :=
  let pf := fn == physicalFn
  let o := off - windowBase
  let w1 := s.vfWord fn 1
  if physicalFn < fn || off % 8 != 0 then 0
  else if windowBase ≤ off && off < 2 * windowBase then
    if 32 ≤ o % 4096 then 0
    else if pf then s.wqWord (o / 4096) (o % 4096 / 8)
    else if o / 4096 ≤ bits w1 19 8 then s.wqWord (bits w1 31 20 + o / 4096) (o % 4096 / 8)
    else 0
  else if off < 0x20 then (if pf then 0 else s.vfWord fn (off / 8))
  else if 0x100 ≤ off && off < 0x140 then s.blockWord fn ((off - 0x100) / 8)
  else if off = 0x148 then s.cmdStatus fn
  else if off = 0x150 then (if pf then s.mgmt.bootst else 0)
  else if 0x200 ≤ off && off < 0x1200 then
    BitVec.ofNat 64 (natOfBytes ((List.range 8).map fun j => sget 0 s.mgmt.mailbox (4096 * fn + (off - 0x200) + j)))
  else if 0x2000 ≤ off && off < 0x4000 then s.ringWord fn ((off - 0x2000) / 32) (off % 32 / 8)
  else if off = 0x4000 then BitVec.ofNat 64 (sget 0 s.mgmt.ewi fn)
  else if off = 0x4008 then BitVec.ofNat 64 (sget 0 s.mgmt.eri fn)
  else if off = 0x4010 then BitVec.ofNat 64 (sget 0 s.mgmt.overflow fn)
  else if pf && pfHdm ≤ off && off < pfHdm + 131072 then sget 0 s.mgmt.hdm ((off - pfHdm) / 8)
  else if pf && pfSpace ≤ off && off < pfSpace + 1048576 then sget 0 s.iso.space ((off - pfSpace) / 8)
  else if pf && pfQuota ≤ off && off < pfQuota + 8192 then s.vfWord ((off - pfQuota) / 8) 2
  else 0

/-! ## Notices of a system fault (R400) -/

/-- The contexts of a function that are valid. -/
def State.contextsOfVf (s : State) (vf : Nat) : List Nat :=
  let w := s.vfWord vf 1
  ((List.range (bits w 47 32)).map (bits w 63 48 + ·)).filter fun a => s.spaceValid a && s.vfOf a == vf

/-- Routing after a fault (R371, R400): a module that failed is reached by no port, a port that failed reaches none. -/
def State.reroute (s : State) (kind idx : Nat) : State :=
  let routes := match kind with
    | 2 => serase s.links.routes idx
    | 3 => (s.links.routes.map fun e => (e.1, if e.1 < 8192 && e.2.testBit idx then e.2 - 2 ^ idx else e.2)).filter (·.2 != 0)
    | _ => s.links.routes
  let t := if kind = 3 && idx < 16 then s.leavePort idx else s
  { t with links := { t.links with routes := routes } }

/-- The event of a fault told to a function's host (R364, R400): DEADDIE for a die or a module, LINKDOWN for a port. -/
def State.tellFault (s : State) (kind index fn : Nat) : State :=
  if kind < 3 then s.event fn 5 0 (BitVec.ofNat 64 (kind + index * 2 ^ 16)) 0
  else s.event fn 4 0 (BitVec.ofNat 64 (2 + index * 256)) 0

/-- MANAGEMENT_NOTICE (R371, R400): a fault of a K-die (0), M-die (1), module (2) or port (3): the contexts of the job are
pre-empted, those with state on a failed die removed, their hosts told, routes rewritten. What is under way to a module
then goes another way, or is rejected and fails (R373). Kind 4 is the controller's own writing of its
routing table: `job` is the mask of ports that reach module `index`, index 8192 the module's own number. -/
def execManagementNotice (kind index job : Nat) (s : State) : Host.Outcome State Fault Refusal :=
  if kind = 4 then move { s with links := { s.links with routes := sset 0 s.links.routes index job } }
  else
    let t := { s with mgmt := { s.mgmt with notices := s.mgmt.notices ++ [(kind, index, job)] } }
    let u := (t.contextsOfVf job).foldl (fun (x : State) a => x.requestPreempt a 0x0E) t
    let die := if kind = 0 then index else 32 + index
    let hit := if kind < 2 then u.contextsOn die else []
    let told := (distinct (job :: hit.map u.vfOf)).foldl (fun (x : State) f => x.tellFault kind index f) u
    move ((hit.foldl (fun (x : State) a => x.remove a 0x15) told).reroute kind index)

end Sys2Proof.Machine
end

