-- ==== Sys2Proof/Machine/Digest.lean ====
section
/-! DEFINITION. The functions of the security engine that R15, R347, R349 and R404 name and do not restate: SHA-256 (FIPS
180-4), signatures and shared secrets on P-256 (FIPS 186-5, SP 800-56A), HKDF (RFC 5869) and the unwrapping of a wrapped key
(RFC 3394) with AES-256 (FIPS 197). They are those of the standards named (PRESUMED, log entry 8). -/

namespace Sys2Proof.Machine

/-- The round constants of SHA-256. -/
def shaConstants : List Word :=
  [0x428A2F98, 0x71374491, 0xB5C0FBCF, 0xE9B5DBA5, 0x3956C25B, 0x59F111F1, 0x923F82A4, 0xAB1C5ED5,
   0xD807AA98, 0x12835B01, 0x243185BE, 0x550C7DC3, 0x72BE5D74, 0x80DEB1FE, 0x9BDC06A7, 0xC19BF174] ++
  [0xE49B69C1, 0xEFBE4786, 0x0FC19DC6, 0x240CA1CC, 0x2DE92C6F, 0x4A7484AA, 0x5CB0A9DC, 0x76F988DA,
   0x983E5152, 0xA831C66D, 0xB00327C8, 0xBF597FC7, 0xC6E00BF3, 0xD5A79147, 0x06CA6351, 0x14292967] ++
  [0x27B70A85, 0x2E1B2138, 0x4D2C6DFC, 0x53380D13, 0x650A7354, 0x766A0ABB, 0x81C2C92E, 0x92722C85,
   0xA2BFE8A1, 0xA81A664B, 0xC24B8B70, 0xC76C51A3, 0xD192E819, 0xD6990624, 0xF40E3585, 0x106AA070] ++
  [0x19A4C116, 0x1E376C08, 0x2748774C, 0x34B0BCB5, 0x391C0CB3, 0x4ED8AA4A, 0x5B9CCA4F, 0x682E6FF3,
   0x748F82EE, 0x78A5636F, 0x84C87814, 0x8CC70208, 0x90BEFFFA, 0xA4506CEB, 0xBEF9A3F7, 0xC67178F2]

/-- The eight words of a digest under way. -/
structure Sha where
  a : Word
  b : Word
  c : Word
  d : Word
  e : Word
  f : Word
  g : Word
  h : Word

/-- The words with which a digest begins. -/
def Sha.init : Sha :=
  ⟨0x6A09E667, 0xBB67AE85, 0x3C6EF372, 0xA54FF53A, 0x510E527F, 0x9B05688C, 0x1F83D9AB, 0x5BE0CD19⟩

/-- One round with a constant and a word of the message schedule. -/
def Sha.round (s : Sha) (kw : Word × Word) : Sha :=
  let s1 := s.e.rotateRight 6 ^^^ s.e.rotateRight 11 ^^^ s.e.rotateRight 25
  let ch := (s.e &&& s.f) ^^^ (~~~s.e &&& s.g)
  let t1 := s.h + s1 + ch + kw.1 + kw.2
  let s0 := s.a.rotateRight 2 ^^^ s.a.rotateRight 13 ^^^ s.a.rotateRight 22
  let maj := (s.a &&& s.b) ^^^ (s.a &&& s.c) ^^^ (s.b &&& s.c)
  ⟨t1 + (s0 + maj), s.a, s.b, s.c, s.d + t1, s.e, s.f, s.g⟩

/-- The message schedule, newest word first, after `n` more words. -/
def shaSchedule : Nat → List Word → List Word
  | 0, ws => ws
  | n + 1, ws =>
    let w := fun (k : Nat) => ws.getD k 0
    let s0 := (w 14).rotateRight 7 ^^^ (w 14).rotateRight 18 ^^^ (w 14 >>> 3)
    let s1 := (w 1).rotateRight 17 ^^^ (w 1).rotateRight 19 ^^^ (w 1 >>> 10)
    shaSchedule n ((s1 + w 6 + s0 + w 15) :: ws)

/-- Bytes as a number, most significant first. -/
def beNat (bs : List Byte) : Nat := natOfBytes bs.reverse

/-- A number as `n` bytes, most significant first. -/
def beBytes (n v : Nat) : List Byte := (bytesOfNat n v).reverse

/-- The digest after one block of 64 bytes. -/
def Sha.block (s : Sha) (bs : List Byte) : Sha :=
  let ws := (List.range 16).map fun k => BitVec.ofNat 32 (beNat ((bs.drop (4 * k)).take 4))
  let t := (shaConstants.zip (shaSchedule 48 ws.reverse).reverse).foldl Sha.round s
  ⟨s.a + t.a, s.b + t.b, s.c + t.c, s.d + t.d, s.e + t.e, s.f + t.f, s.g + t.g, s.h + t.h⟩

/-- The digest after `n` blocks of a message. -/
def Sha.blocks : Nat → Sha → List Byte → Sha
  | 0, s, _ => s
  | n + 1, s, bs => Sha.blocks n (s.block (bs.take 64)) (bs.drop 64)

/-- SHA-256: the 32 bytes of a message's digest. -/
def sha256 (bs : List Byte) : List Byte :=
  let zeros := (119 - bs.length % 64) % 64
  let m := bs ++ [0x80#8] ++ List.replicate zeros 0 ++ beBytes 8 (8 * bs.length)
  let s := Sha.blocks (m.length / 64) Sha.init m
  [s.a, s.b, s.c, s.d, s.e, s.f, s.g, s.h].flatMap fun w => beBytes 4 w.toNat

/-! ## Signatures and shared secrets on P-256 (R15, R347, R349, R404) -/

/-- The prime of P-256, the order of its base point, and that point. -/
def p256P : Nat := 2 ^ 256 - 2 ^ 224 + 2 ^ 192 + 2 ^ 96 - 1
def p256N : Nat := 0xFFFFFFFF00000000FFFFFFFFFFFFFFFFBCE6FAADA7179E84F3B9CAC2FC632551
def p256B : Nat := 0x5AC635D8AA3A93E7B3EBBD55769886BC651D06B0CC53B0F63BCE3C3E27D2604B
def p256G : Option (Nat × Nat) :=
  some (0x6B17D1F2E12C4247F8BCE6E563A440F277037D812DEB33A0F4A13945D898C296,
    0x4FE342E2FE1A7F9B8EE7EB4A7C0F9E162BCE33576B315ECECBB6406837BF51F5)

/-- `b` to the power of the low 256 bits of `e`, modulo `m`. -/
def powMod (m b e : Nat) : Nat :=
  (List.range 256).foldr (fun k r => if e.testBit k then r * r % m * b % m else r * r % m) 1

/-- The inverse of a number modulo a prime of at most 256 bits. -/
def invMod (m a : Nat) : Nat := powMod m (a % m) (m - 2)

/-- The sum of two points of P-256; `none` is the point at infinity. -/
def ecAdd (a b : Option (Nat × Nat)) : Option (Nat × Nat) :=
  match a, b with
  | none, q => q
  | q, none => q
  | some (x1, y1), some (x2, y2) =>
    if x1 = x2 && (y1 + y2) % p256P = 0 then none
    else
      let l := if x1 = x2 then (3 * x1 * x1 + p256P - 3) * invMod p256P (2 * y1) % p256P
        else (y2 + p256P - y1) * invMod p256P (x2 + p256P - x1) % p256P
      let x3 := (l * l + 2 * p256P - x1 - x2) % p256P
      some (x3, (l * (x1 + p256P - x3) + p256P - y1) % p256P)

/-- The low 256 bits of `k` times a point. -/
def ecMul (k : Nat) (q : Option (Nat × Nat)) : Option (Nat × Nat) :=
  (List.range 256).foldr (fun i r => if k.testBit i then ecAdd (ecAdd r r) q else ecAdd r r) none

/-- A private key, or a number used once, made of a number: from 1 to the order less one. -/
def ecScalar (n : Nat) : Nat := n % (p256N - 1) + 1

/-- A point as 64 bytes, X then Y, big-endian, and back. -/
def ecBytes (q : Option (Nat × Nat)) : List Byte := beBytes 32 (q.getD (0, 0)).1 ++ beBytes 32 (q.getD (0, 0)).2
def ecPoint (bs : List Byte) : Nat × Nat := (beNat (bs.take 32), beNat ((bs.drop 32).take 32))

/-- Does a point lie on the curve? -/
def onCurve (q : Nat × Nat) : Bool :=
  q.1 < p256P && q.2 < p256P && q.2 * q.2 % p256P == (q.1 * q.1 * q.1 + (p256P - 3) * q.1 + p256B) % p256P

/-- The ECDSA signature r, s with private key `d` and number `k` over a digest. -/
def ecdsaSign (d k : Nat) (digest : List Byte) : Nat × Nat :=
  let r := ((ecMul k p256G).getD (0, 0)).1 % p256N
  (r, invMod p256N k * (beNat digest + r * d) % p256N)

/-- Is a signature r, s good for a public key and a digest? -/
def ecdsaVerify (q : Nat × Nat) (digest : List Byte) (sig : Nat × Nat) : Bool :=
  let w := invMod p256N sig.2
  let x := ecAdd (ecMul (beNat digest * w % p256N) p256G) (ecMul (sig.1 * w % p256N) (some q))
  0 < sig.1 && sig.1 < p256N && 0 < sig.2 && sig.2 < p256N && onCurve q && match x with
    | some c => c.1 % p256N == sig.1
    | none => false

/-! ## Key derivation and unwrapping (R347) -/

/-- Bytes combined one by one by exclusive or. -/
def xorBytes (a b : List Byte) : List Byte := a.zipWith (· ^^^ ·) b

/-- HMAC with SHA-256, under a key of at most 64 bytes. -/
def hmac (key m : List Byte) : List Byte :=
  let k := key ++ List.replicate (64 - key.length) 0
  sha256 (xorBytes k (List.replicate 64 0x5C) ++ sha256 (xorBytes k (List.replicate 64 0x36) ++ m))

/-- HKDF with SHA-256: 32 bytes derived from a secret with a salt and an info. -/
def hkdf (salt secret info : List Byte) : List Byte := hmac (hmac salt secret) (info ++ [1])

/-- The product of two bytes in the field of AES. -/
def gfMul (a b : Byte) : Byte :=
  (List.range 8).foldr (fun k r =>
    let d := if r.getLsbD 7 then (r <<< 1) ^^^ 0x1B else r <<< 1
    if b.getLsbD k then d ^^^ a else d) 0

/-- The inverse of a byte in the field of AES, zero for zero: its power 254. -/
def gfInv (a : Byte) : Byte :=
  ((List.range 7).foldl (fun (x : Byte × Byte) _ => let q := gfMul x.1 x.1; (q, gfMul x.2 q)) (a, 1)).2

/-- The substitution of AES and its inverse. -/
def aesSub (a : Byte) : Byte :=
  let i := gfInv a
  i ^^^ i.rotateLeft 1 ^^^ i.rotateLeft 2 ^^^ i.rotateLeft 3 ^^^ i.rotateLeft 4 ^^^ 0x63
def aesUnsub (a : Byte) : Byte := gfInv (a.rotateLeft 1 ^^^ a.rotateLeft 3 ^^^ a.rotateLeft 6 ^^^ 0x05)

/-- The round-key words of AES-256, newest first, after `n` more of them. -/
def aesWords : Nat → List (List Byte) → List (List Byte)
  | 0, ws => ws
  | n + 1, ws =>
    let i := ws.length
    let t := ws.getD 0 []
    let u := if i % 8 = 0 then xorBytes ((t.drop 1 ++ t.take 1).map aesSub) [BitVec.ofNat 8 (2 ^ (i / 8 - 1)), 0, 0, 0]
      else if i % 8 = 4 then t.map aesSub else t
    aesWords n (xorBytes (ws.getD 7 []) u :: ws)

/-- The 15 round keys of 16 bytes of an AES-256 key. -/
def aesKeys (key : List Byte) : List (List Byte) :=
  let ws := (aesWords 52 ((List.range 8).map fun k => (key.drop (4 * k)).take 4).reverse).reverse
  (List.range 15).map fun r => ((ws.drop (4 * r)).take 4).flatten

/-- The rows of a block turned back, and its bytes substituted back. -/
def aesUnshift (b : List Byte) : List Byte :=
  (List.range 16).map fun k => aesUnsub (b.getD (k % 4 + 4 * ((k / 4 + 4 - k % 4) % 4)) 0)

/-- The columns of a block mixed back. -/
def aesUnmix (b : List Byte) : List Byte :=
  (List.range 16).map fun k =>
    let at_ := fun (j : Nat) => b.getD (4 * (k / 4) + (k + j) % 4) 0
    gfMul (at_ 0) 0x0E ^^^ gfMul (at_ 1) 0x0B ^^^ gfMul (at_ 2) 0x0D ^^^ gfMul (at_ 3) 0x09

/-- A block of 16 bytes decrypted under round keys. -/
def aesDecrypt (keys : List (List Byte)) (b : List Byte) : List Byte :=
  let first := xorBytes b (keys.getD 14 [])
  let mid := (List.range 13).foldl (fun x r => aesUnmix (xorBytes (aesUnshift x) (keys.getD (13 - r) []))) first
  xorBytes (aesUnshift mid) (keys.getD 0 [])

/-- The key that a wrapped key unwraps to under a wrapping key, or nothing where the integrity check fails. -/
def unwrapKey (key wrapped : List Byte) : Option (List Byte) :=
  let keys := aesKeys key
  let n := wrapped.length / 8 - 1
  let step := fun (x : List Byte × List Byte) (k : Nat) =>
    let i := (n - 1) - k % n
    let t := n * (5 - k / n) + i + 1
    let b := aesDecrypt keys (xorBytes x.1 (beBytes 8 t) ++ (x.2.drop (8 * i)).take 8)
    (b.take 8, x.2.take (8 * i) ++ b.drop 8 ++ x.2.drop (8 * i + 8))
  let (a, r) := (List.range (6 * n)).foldl step (wrapped.take 8, wrapped.drop 8)
  if a == List.replicate 8 0xA6 then some r else none

end Sys2Proof.Machine
end

