-- ==== Sys2Proof/Machine/Management.lean ====
section
/-! DEFINITION. Resets, the boot sequence and the commands of the management controller (18_recovery_bringup.md R401-R409,
15_isolation.md R339-R349, 16_isolation_host_and_peers.md R367-R370, 17_recovery.md R384-R399). -/

namespace Sys2Proof.Machine

/-! ## Cold reset and boot (R401, R402, R404, R405) -/

/-- Fields of BOOTST (R405). -/
def State.bootPH (s : State) : Nat := bits s.mgmt.bootst 3 0
def State.bootFWS (s : State) : Nat := bits s.mgmt.bootst 7 4

/-- The image in a firmware slot (R396): what the host has written up to the end of its last chunk, whose length plus one the
state holds, else what the slot came with. -/
def State.firmwareBytes (s : State) (f : Nat) : List Byte :=
  match sget 0 s.mgmt.images f with
  | 0 => Config.firstImage f
  | n + 1 => (List.range n).map fun o => sget 0 s.mgmt.firmware (2 ^ 32 * f + o)

/-- Is the vendor's signature of the image in a firmware slot good over the image's measurement (R349, R404)? -/
def State.slotVerifies (s : State) (f : Nat) : Bool :=
  let image := s.firmwareBytes f
  ecdsaVerify Config.vendorKey (sha256 image) (Config.imageSignature image)

/-- The slot that boots: the preferred one, else the other, or none (R404). -/
def State.bootSlot (s : State) : Option Nat :=
  let f := s.bootFWS % 2
  if s.slotVerifies f then some f else if s.slotVerifies (1 - f) then some (1 - f) else none

/-- The dies whose links train at a boot (R404): that is a physical matter. -/
def State.trainedDies (s : State) : List Nat := (List.range 40).filter fun d => Config.physical s.tick (16 + d)

/-- The step of the boot sequence that failed last, 0 for none (R404, R405): 1 where the preferred image does not verify, 2
where a die does not train, 5 where a host module does not; whether HBM trains and the security engine passes its test (3, 4)
is a physical matter. -/
def State.bootFail (s : State) (f : Nat) (dies hosts : Bool) : Nat :=
  if hosts then 5 else if !Config.physical s.tick 9 then 4 else if !Config.physical s.tick 8 then 3
  else if dies then 2 else if f != s.bootFWS % 2 then 1 else 0

/-- The module once CXL.io has opened in the boot sequence (R402, R404): every record at its cold value, trained links up,
untrained dies offline, and BOOTING until the sequence ends; RECOVERY where no firmware verifies. Firmware slots are not
records and keep their images, and memory outside the module is none of its own. -/
def State.coldReset (s : State) : State :=
  let up := s.trainedDies
  let outside : Memory := { bytes := s.mem.bytes.filter fun c => 2 ^ 50 ≤ c.1 }
  let off := (List.range 40).filter fun d => !up.contains d
  let mask := fun (l : List Nat) => (l.map (2 ^ ·)).foldl (· + ·) 0
  let koff := mask (off.filter (· < 32))
  let moff := mask ((off.filter (32 ≤ ·)).map (· - 32))
  let hosts := ((List.range 4).filter fun m => Config.physical s.tick (60 + m)).map (56 + ·)
  match s.bootSlot with
  | some f =>
    let fail := s.bootFail f (!off.isEmpty) (hosts.length < 4)
    { State.reset with
      tick := s.tick
      mem := outside
      links := { State.reset.links with state := (up ++ hosts).map fun l => (l, 2) }
      mgmt := { State.reset.mgmt with
        bootst := BitVec.ofNat 64 (1 + f * 16 + fail * 256 + moff * 2 ^ 24 + koff * 2 ^ 32)
        firmware := s.mgmt.firmware
        images := s.mgmt.images
        idleVerified := s.mgmt.idleVerified && f == s.bootFWS % 2
        offline := off } }
  | none =>
    { State.reset with
      tick := s.tick
      mem := outside
      links := { State.reset.links with state := hosts.map fun l => (l, 2) }
      mgmt := { State.reset.mgmt with
        bootst := BitVec.ofNat 64 (3 + s.bootFWS * 16 + 256)
        firmware := s.mgmt.firmware
        images := s.mgmt.images
        offline := List.range 40 } }

/-- The end of the boot sequence (R404): READY. -/
def State.endBoot (s : State) : State :=
  if s.bootPH = 1 then { s with mgmt := { s.mgmt with bootst := setBits s.mgmt.bootst 3 0 2 } } else s

/-- COLD_RESET (R401, R404). -/
def execColdReset (s : State) : Host.Outcome State Fault Refusal := move s.coldReset

/-! ## The command block (R408, R409) -/

/-- A command ended with a status and a result (R409). -/
def State.endCmd (s : State) (fn code : Nat) (res : DWord) : State :=
  { s with
    mgmt := { s.mgmt with
      status := sset 0 s.mgmt.status fn (BitVec.ofNat 64 code)
      command := sset 0 s.mgmt.command (8 * fn + 7) res
      running := s.mgmt.running.filter (·.fn != fn) } }

/-- What a command comes to: its end with state, status and result, or a state in which it is still under way. -/
inductive CmdRes where
  | done (s : State) (code : Nat) (res : DWord)
  | busy (s : State)

/-- The function that a command acts on (R409). -/
def State.targetVf (s : State) (fn : Nat) : Nat := if fn = physicalFn then bits (s.cmdWord fn 0) 25 16 else fn

/-- Does a command name a function that does not exist: the physical function's, but for a census of the module (R395, R409)? -/
def State.noTarget (s : State) (fn : Nat) : Bool :=
  fn == physicalFn && !(bits (s.cmdWord fn 0) 7 0 == 0x1B && s.cmdWord fn 3 == 0) && !(s.vfWord (s.targetVf fn) 1).getLsbD 0

/-- Are the bits of ARG1 to ARG6 outside the listed masks zero (R409)? -/
def State.argsClean (s : State) (fn : Nat) (masks : List Nat) : Bool :=
  (List.range 6).all fun k => (s.cmdWord fn (k + 1)).toNat &&& (2 ^ 64 - 1 - masks.getD k 0) == 0

/-- The codes that R409 lists. -/
def knownCmd (c : Nat) : Bool := (1 ≤ c && c ≤ 0x0C) || (0x10 ≤ c && c ≤ 0x16) || (0x18 ≤ c && c ≤ 0x1B)

/-- A command under way (R404, R408, R409): BUSY before READY, DENIED from a function that may not issue it, BADARG for
a reserved bit, NOTFOUND for a target function that is not enabled, else what it does. Where no command of that code is
under way nothing happens. -/
def runCmd (code : Nat) (forVf : Bool) (masks : List Nat) (fn : Nat) (s : State) (run : State → CmdRes) :
    Host.Outcome State Fault Refusal :=
  let w0 := s.cmdWord fn 0
  let ready := s.bootPH == 2 || (s.bootPH == 3 && (code == 1 || code == 3 || code == 4))
  if !s.cmdRuns fn || bits w0 7 0 != code then move s
  else if !ready then move (s.endCmd fn 0xFF 0)
  else if fn != physicalFn && !forVf then move (s.endCmd fn 0xFD 0)
  else if bits w0 63 26 != 0 || bits w0 15 8 != 0 || !s.argsClean fn masks then move (s.endCmd fn 0x11 0)
  else if forVf && s.noTarget fn then move (s.endCmd fn 0x12 0)
  else
    match run s with
    | .done t c res => move (t.endCmd fn c res)
    | .busy t => move t

/-- A command that ends with a status and no result. -/
def ended (s : State) (code : Nat) : CmdRes := .done s code 0

/-- BADCMD (R408). -/
def execBadcmd (fn : Nat) (s : State) : Host.Outcome State Fault Refusal :=
  if s.cmdRuns fn && !knownCmd (bits (s.cmdWord fn 0) 7 0) then
    move (s.endCmd fn (if s.bootPH = 2 then 0xFE else 0xFF) 0)
  else move s

/-- ARG k as a number. -/
def State.arg (s : State) (fn k : Nat) : Nat := (s.cmdWord fn k).toNat

/-- Bytes of host memory at a host physical address (R365). -/
def State.hostBytes (s : State) (a n : Nat) : List Byte := (List.range n).map fun j => s.homeByte (2 ^ 50 + a + j)

/-- The 64-bit words of bytes. -/
def wordsAt (bs : List Byte) (n : Nat) : List DWord :=
  (List.range n).map fun k => BitVec.ofNat 64 (natOfBytes ((bs.drop (8 * k)).take 8))

/-- All bits of an argument. -/
def anyArg : Nat := 2 ^ 64 - 1

/-! ## Resets, firmware, power -/

/-- RESET (R401, R409). -/
def execReset (fn : Nat) (s : State) : Host.Outcome State Fault Refusal :=
  runCmd 0x01 false [] fn s fun s => ended s.coldReset 0

/-- DIERESET (R401, R409). -/
def execDiereset (fn : Nat) (s : State) : Host.Outcome State Fault Refusal :=
  runCmd 0x02 false [63] fn s fun s => if 40 ≤ s.arg fn 1 then ended s 0x11 else ended (s.dieReset (s.arg fn 1) []) 0

/-- FWWRITE (R396, R409): a chunk into the idle slot; the last one is verified. -/
def execFwwrite (fn : Nat) (s : State) : Host.Outcome State Fault Refusal :=
  runCmd 0x03 false [anyArg, anyArg, anyArg, 1] fn s fun s =>
    let n := s.arg fn 3
    if s.arg fn 2 % 4096 != 0 || n % 4096 != 0 || 2 ^ 20 < n || 2 ^ 32 < s.arg fn 2 + n || 2 ^ 50 < s.arg fn 1 + n then ended s 0x11
    else
      let idle := 1 - s.bootFWS % 2
      let put := fun m (x : Nat × Byte) => sset 0 m (idle * 2 ^ 32 + s.arg fn 2 + x.1) x.2
      let t := { s with
        mgmt := { s.mgmt with
          firmware := (numbered (s.hostBytes (s.arg fn 1) n)).foldl put s.mgmt.firmware
          images := if s.arg fn 4 = 0 then s.mgmt.images else sset 0 s.mgmt.images idle (s.arg fn 2 + n + 1)
          idleVerified := false } }
      if s.arg fn 4 = 0 then ended t 0
      else if t.slotVerifies idle then ended { t with mgmt := { t.mgmt with idleVerified := true } } 0
      else ended t 0x10

/-- FWSWITCH (R396). -/
def execFwswitch (fn : Nat) (s : State) : Host.Outcome State Fault Refusal :=
  runCmd 0x04 false [] fn s fun s =>
    if s.mgmt.idleVerified then ended { s with mgmt := { s.mgmt with bootst := setBits s.mgmt.bootst 7 4 (1 - s.bootFWS % 2) } } 0
    else ended s 0x10

/-- POWERCAP (R406). -/
def execPowercap (fn : Nat) (s : State) : Host.Outcome State Fault Refusal :=
  runCmd 0x09 false [anyArg] fn s fun s =>
    if s.arg fn 1 < 1200 || 2600 < s.arg fn 1 then ended s 0x11
    else ended { s with mgmt := { s.mgmt with powerCap := s.arg fn 1 } } 0

/-- RECAL (R398): it takes effect at an accounting tick, in the costs themselves. -/
def execRecal (fn : Nat) (s : State) : Host.Outcome State Fault Refusal :=
  runCmd 0x0C false [63] fn s fun s =>
    if s.arg fn 1 < 40 || s.arg fn 1 = 63 then ended { s with iso := { s.iso with recal := true } } 0 else ended s 0x11

/-! ## Partitions, granules, functions (R339, R340, R342, R343) -/

/-- Fields of a partition record in words. -/
def pEN (r : List DWord) : Bool := (lw r 5).getLsbD 0
def pKDM (r : List DWord) : Nat := bits (lw r 0) 63 32
def pPORTS (r : List DWord) : Nat := bits (lw r 4) 47 32
def pKSB (r : List DWord) : Nat := bits (lw r 4) 11 0
def pKSN (r : List DWord) : Nat := bits (lw r 4) 27 16

/-- Do two ranges of numbers share one? -/
def rangesShare (a n b m : Nat) : Bool := n != 0 && m != 0 && bytesMeet a n b m

/-- Do two partition records share a resource (R339)? -/
def shareResource (a b : List DWord) : Bool :=
  pKDM a &&& pKDM b != 0 || lw a 1 &&& lw b 1 != 0 || lw a 2 &&& lw b 2 != 0 || lw a 3 &&& lw b 3 != 0 ||
    pPORTS a &&& pPORTS b != 0 || rangesShare (pKSB a) (pKSN a) (pKSB b) (pKSN b)

/-- Do the reserved bits of a partition record read zero, and do its key slots exist (R339)? -/
def partitionClean (r : List DWord) : Bool :=
  bits (lw r 0) 31 0 == 0 && bits (lw r 4) 63 48 == 0 && bits (lw r 4) 31 28 == 0 && bits (lw r 4) 15 12 == 0 &&
    bits (lw r 5) 63 1 == 0 && pKSB r + pKSN r ≤ 4096

/-- The partition record as words. -/
def State.partRecord (s : State) (p : Nat) : List DWord := (List.range 6).map (s.partWord p)

/-- The contexts of a partition that are under way: by a block, a command, a grid, a task, a saved image or a request (R342). -/
def State.usersOf (s : State) (p : Nat) : List Nat :=
  (distinct ((s.allBlocks.map (·.asid)) ++ s.hub.commands.map (·.asid) ++ s.hub.grids.map (·.asid) ++
    (s.hub.tasks ++ s.hub.arriving).map (·.asid) ++ s.mgmt.saved.map (·.asid) ++
    (s.mem.requests ++ s.mem.reductions).map (·.asid))).filter fun a => a < 65536 && s.partOf (s.vfOf a) == p

/-- Does a partition record own a core (R339)? -/
def ownsCore (r : List DWord) (core : Nat) : Bool :=
  pEN r && if isNear core then (lw r (2 + (core - 512) / 64)).getLsbD ((core - 512) % 64) else (lw r 0).getLsbD (32 + dieOf core)

/-- What a partition record owns that another one does not: a core, a copy engine or the hub's, a die, a key slot (R339). -/
def losesCore (old new : List DWord) (core : Nat) : Bool := ownsCore old core && !ownsCore new core
def ownsEngine (r : List DWord) (die e : Nat) : Bool :=
  pEN r && if die < 32 then (pKDM r).testBit die else (lw r 1).getLsbD (8 * (die - 32) + e % 8)
def ownsKey (r : List DWord) (k : Nat) : Bool := pEN r && pKSB r ≤ k && k < pKSB r + pKSN r
def ownsPort (r : List DWord) (p : Nat) : Bool := pEN r && (pPORTS r).testBit p
def losesDie (old new : List DWord) (die : Nat) : Bool :=
  (coresOf die).any (losesCore old new)

/-- Does a context use something that a partition loses with a new record: by its key slot, or by a block, a saved block, a
command, a grid, a task or a request on what is lost (R342)? -/
def State.usesMoved (s : State) (old new : List DWord) (a : Nat) : Bool :=
  (ownsKey old (s.keyOf a) && !ownsKey new (s.keyOf a)) ||
    ((s.allBlocks ++ s.mgmt.saved.flatMap (·.blocks)).any fun b => b.asid == a && losesCore old new b.core) ||
    (s.hub.commands.any fun c => c.asid == a && (losesCore old new c.core ||
      let e := bits (s.cqWord c.die c.qn 1) 10 8
      c.die < 40 && ownsEngine old c.die e && !ownsEngine new c.die e)) ||
    (s.hub.grids.any fun g => g.asid == a && (lDies g.record).any (losesDie old new)) ||
    ((s.hub.tasks ++ s.hub.arriving).any fun t => t.asid == a && (lDies t.record).any (losesDie old new)) ||
    (s.mem.requests ++ s.mem.reductions).any fun r => r.asid == a && (losesCore old new r.core ||
      (List.range 16).any fun p => ownsPort old p && !ownsPort new p && s.usesPort p r)

/-- A key slot erased (R348): its L2 lines written back, its key zero, EMPTY. -/
def State.eraseKey (s : State) (slot : Nat) : State :=
  let mark := s.slotMark slot
  let t := s.clean fun l => sget 0 s.mem.lineKey l == mark
  { t with
    iso := { s.iso with key := sset 0 s.iso.key slot 0, keyBits := sset (0, 0) s.iso.keyBits slot (0, 0) } }

/-- Fabric ports after a change of owners: one without an owner is held DOWN, a new one begins to train (R371). -/
def State.setPorts (s : State) (old new : Nat) : State :=
  (List.range 16).foldl (fun (t : State) p =>
    if old.testBit p && !new.testBit p then (t.leavePort p).setLink (40 + p) 0
    else if new.testBit p && t.linkST (40 + p) = 0 then t.setLink (40 + p) 1
    else t) s

/-- The copies, in cores and in L2, of lines of granules that change hands, and of cores that do, dropped (R342): what a new
owner reads comes from the memory beneath, under its own key. -/
def State.dropMoved (s : State) (core line : Nat → Bool) : State :=
  { s with mem := { s.mem with
    l1 := s.mem.l1.filter fun c => !(core c.core || line c.line)
    l1i := s.mem.l1i.filter fun c => !(core c.core || line c.line)
    stale := s.mem.stale.filter fun c => !line c.1 } }

/-- A partition record written: the key slots that an enabled record owned and the new one does not are erased first, ports
settled (R342, R348). -/
def State.putPartition (s : State) (p : Nat) (r : List DWord) : State :=
  let old := s.partRecord p
  let lost := if pEN old then ((List.range (pKSN old)).map (pKSB old + ·)).filter fun k => !ownsKey r k else []
  let t := lost.foldl State.eraseKey s
  let u := { t with iso := { t.iso with
    partition := (List.range 6).foldl (fun m k => sset 0 m (6 * p + k) (lw r k)) t.iso.partition } }
  (u.dropMoved (losesCore old r) fun _ => false).setPorts
    (if pEN old then pPORTS old else 0) (if pEN r then pPORTS r else 0)

/-- A change that waits for the removal of contexts (R342), then is made. -/
def afterRemoval (s : State) (users : List Nat) (change : State → State) : CmdRes :=
  if users.isEmpty then ended (change s) 0 else .busy (users.foldl (fun (t : State) a => t.remove a 0x11) s)

/-- PARTSET (R339, R342): the contexts that use what moves are removed first. -/
def execPartset (fn : Nat) (s : State) : Host.Outcome State Fault Refusal :=
  runCmd 0x05 false [63, anyArg] fn s fun s =>
    let p := s.arg fn 1
    let r := wordsAt (s.hostBytes (s.arg fn 2) 48) 6
    let others := (List.range 64).filter fun q => q != p && pEN (s.partRecord q)
    if 2 ^ 50 < s.arg fn 2 + 48 || !partitionClean r || (pEN r && others.any fun q => shareResource r (s.partRecord q)) then ended s 0x11
    else afterRemoval s ((s.usersOf p).filter (s.usesMoved (s.partRecord p) r)) fun t => t.putPartition p r

/-- GRANSET (R340, R342): a granule of an M-die held offline is not assigned (R405). Every context of the old owner that is
under way is removed first: which of them use the granule their translation tables alone tell (log entry 101). -/
def execGranset (fn : Nat) (s : State) : Host.Outcome State Fault Refusal :=
  runCmd 0x06 false [1023, 255] fn s fun s =>
    let g := s.arg fn 1
    let e : BitVec 8 := BitVec.ofNat 8 (s.arg fn 2)
    let old := sget 0 s.iso.granule g
    if e.getLsbD 6 || (e.getLsbD 7 && s.mgmt.offline.contains (32 + g / 128)) then ended s 0x11
    else afterRemoval s (if old.getLsbD 7 && e != old then s.usersOf (bits old 5 0) else []) fun t =>
      let u := if e != old then t.dropMoved (fun _ => false) fun l => 64 * l / 2 ^ 30 == g else t
      { u with iso := { u.iso with granule := sset 0 u.iso.granule g e } }

/-- Does a VF record lie within its partition, apart from every other enabled function (R343)? -/
def State.vfOk (s : State) (v : Nat) (r : List DWord) : Bool :=
  let w0 := lw r 0
  let w1 := lw r 1
  let part := s.partRecord (bits w0 5 0)
  let near := fun (m : Nat) => bits (if m < 4 then lw part 2 else lw part 3) (16 * (m % 4) + 15) (16 * (m % 4)) == 0xFFFF
  bits w0 31 26 == 0 && bits w1 7 1 == 0 && bits w0 63 32 &&& pKDM part == bits w0 63 32 &&
    ((List.range 8).all fun m => !(w0.getLsbD (18 + m)) || near m) &&
    bits w1 31 20 + bits w1 19 8 < 4096 && bits w1 63 48 + bits w1 47 32 ≤ 65536 &&
    (!w1.getLsbD 0 || (pEN part && (List.range 1024).all fun o =>
      let x0 := s.vfWord o 0
      let x1 := s.vfWord o 1
      o == v || !x1.getLsbD 0 || (bits x0 63 32 &&& bits w0 63 32 == 0 &&
        !rangesShare (bits w1 63 48) (bits w1 47 32) (bits x1 63 48) (bits x1 47 32) &&
        !rangesShare (bits w1 31 20) (bits w1 19 8 + 1) (bits x1 31 20) (bits x1 19 8 + 1))))

/-- Does a host range keep R365: base on 4 KiB with rights in bits 1:0, length a multiple of 4,096? -/
def hostRangeOk (base len : DWord) : Bool := bits base 11 2 == 0 && bits len 11 0 == 0

/-- VFSET (R343, R352, R365): the record but for USED, and the host-range table. -/
def execVfset (fn : Nat) (s : State) : Host.Outcome State Fault Refusal :=
  runCmd 0x07 false [1023, anyArg, anyArg] fn s fun s =>
    let v := s.arg fn 1
    let r := wordsAt (s.hostBytes (s.arg fn 2) 32) 4
    let h := wordsAt (s.hostBytes (s.arg fn 3) 128) 16
    if 2 ^ 50 < s.arg fn 2 + 32 || 2 ^ 50 < s.arg fn 3 + 128 || !s.vfOk v r ||
        !((List.range 8).all fun k => hostRangeOk (lw h (2 * k)) (lw h (2 * k + 1))) then ended s 0x11
    else
      let t : State := { s with
        iso := { s.iso with
          vf := (List.range 3).foldl (fun m k => sset 0 m (4 * v + k) (lw r k)) s.iso.vf
          hostRange := (List.range 16).foldl (fun m k => sset 0 m (16 * v + k) (lw h k)) s.iso.hostRange } }
      ended (t.quotaRaised v) 0

/-- FALLBACK (R387, R409): the area lies wholly in the partition's granules. -/
def execFallback (fn : Nat) (s : State) : Host.Outcome State Fault Refusal :=
  runCmd 0x08 false [63, anyArg, anyArg] fn s fun s =>
    let p := s.arg fn 1
    let base := s.arg fn 2
    let len := s.arg fn 3
    let inside := (List.range ((base + len + 2 ^ 30 - 1) / 2 ^ 30 - base / 2 ^ 30)).all fun k =>
      let g := sget 0 s.iso.granule (base / 2 ^ 30 + k)
      g.getLsbD 7 && bits g 5 0 == p
    if base % 4096 != 0 || 2 ^ 40 < base + len || !inside then ended s 0x11
    else ended { s with iso := { s.iso with fallback := sset (0, 0) s.iso.fallback p (base, len) } } 0

/-! ## Dies and cores off and on (R399) -/

/-- The die and, in the core form, the core that DIEOFF and DIEON name. -/
def State.offArg (s : State) (fn : Nat) : Option (Nat × Option Nat) :=
  let a := s.cmdWord fn 1
  let d := bits a 5 0
  if 40 ≤ d || (!a.getLsbD 8 && bits a 19 16 != 0) then none
  else some (d, if a.getLsbD 8 then some ((coresOf d).getD (bits a 19 16) 0) else none)

/-- DIEOFF (R399): contexts with a block on the unit are pre-empted, it leaves admission, running commands finish. -/
def execDieoff (fn : Nat) (s : State) : Host.Outcome State Fault Refusal :=
  runCmd 0x0A false [0xF013F] fn s fun s =>
    match s.offArg fn with
    | none => ended s 0x11
    | some (d, core) =>
      let here := fun (b : Block) => match core with
        | some c => b.core == c
        | none => dieOf b.core == d
      let users := distinct ((s.allBlocks.filter here).map (·.asid))
      if !users.isEmpty then .busy (users.foldl (fun (t : State) a => t.requestPreempt a 0x0E) s)
      else
        let t := match core with
          | some c => { s with mgmt := { s.mgmt with offlineCores := if s.mgmt.offlineCores.contains c then s.mgmt.offlineCores
              else s.mgmt.offlineCores ++ [c] } }
          | none => { s with mgmt := { s.mgmt with offline := if s.mgmt.offline.contains d then s.mgmt.offline
              else s.mgmt.offline ++ [d] } }
        if core.isNone && t.hub.commands.any (·.die == d) then .busy t else ended t 0

/-- DIEON (R399). -/
def execDieon (fn : Nat) (s : State) : Host.Outcome State Fault Refusal :=
  runCmd 0x0B false [0xF013F] fn s fun s =>
    match s.offArg fn with
    | none => ended s 0x11
    | some (d, none) => ended { s with mgmt := { s.mgmt with offline := s.mgmt.offline.filter (· != d) } } 0
    | some (_, some c) => ended { s with mgmt := { s.mgmt with offlineCores := s.mgmt.offlineCores.filter (· != c) } } 0

/-! ## Exports and imports (R367-R370) -/

/-- Does a function hold an address space (R343)? -/
def State.vfHolds (s : State) (vf asid : Nat) : Bool :=
  let w := s.vfWord vf 1
  bits w 63 48 ≤ asid && asid < bits w 63 48 + bits w 47 32

/-- Export entry `idx` with its words written. -/
def State.setExport (s : State) (idx : Nat) (ws : List DWord) : State :=
  { s with links := { s.links with
    exports := (List.range 4).foldl (fun m k => sset 0 m (4 * idx + k) (lw ws k)) s.links.exports } }

/-- EXPORT (R367, R368). -/
def execExportRange (fn : Nat) (s : State) : Host.Outcome State Fault Refusal :=
  runCmd 0x10 true [0x7FFFF, anyArg, anyArg, anyArg] fn s fun s =>
    let a := s.cmdWord fn 1
    let asid := bits a 15 0
    let va := s.arg fn 2
    let len := s.arg fn 3
    let allow := s.cmdWord fn 4
    if !s.vfHolds (s.targetVf fn) asid then ended s 2
    else if va % 4096 != 0 || 2 ^ 57 ≤ va || len = 0 || len % 4096 != 0 || 2 ^ 40 < len || bits allow 62 19 != 0 then ended s 3
    else
      match (List.range 16384).find? fun k => exST (s.exportWord k 0) == 0 with
      | none => ended s 1
      | some k =>
        let chk := (Config.checkCode s.tick).toNat
        let w0 := bits a 18 16 * 2 ^ 57 + 2 ^ 54 + chk * 2 ^ 32 + asid * 2 ^ 16 + s.keyOf asid
        let h := chk * 2 ^ 48 + s.ownModule % 8192 * 2 ^ 35 + k * 2 ^ 21 + sget 0 s.links.serial k
        .done (s.setExport k [BitVec.ofNat 64 w0, BitVec.ofNat 64 va, BitVec.ofNat 64 len, allow]) 0 (BitVec.ofNat 64 h)

/-- The importing slots of an export entry: slot keys of K-dies whose handle names it. -/
def State.importers (s : State) (idx : Nat) : List Nat :=
  (s.links.peerHandle.filter fun e => hMod e.2 == s.ownModule && hIdx e.2 == idx && bits (sget 0 s.links.peerSlot e.1) 63 62 == 1).map (·.1)

/-- The function that owns a K-die as a die-device (R343). -/
def State.dieOwner (s : State) (die : Nat) : Option Nat :=
  (List.range 1024).find? fun v => (s.vfWord v 1).getLsbD 0 && (s.vfWord v 0).getLsbD (32 + die)

/-- Is a place one that requests reach under a handle (R370)? -/
def State.underHandle (s : State) (h : DWord) (at_ : Nat × Nat) : Bool :=
  if hMod h = s.ownModule then at_.2 / 4 % 2 ^ 17 == hIdx h + 1 else at_.1 / 2 ^ 40 == 2 ^ 18 + hMod h * 2 ^ 14 + hIdx h

/-- The memory bytes that the splits of a group hold back: behind fences, and in its try region (R209, R318). -/
def Group.heldBytes (g : Group) : List HeldByte :=
  ((List.range 4).flatMap fun k => ((g.splitAt k).spec.map (·.buffer)).getD []) ++ ((g.region.map (·.buffer)).getD [])

/-- Is a request under a handle on its way: of a split, in a buffer of its group too, or of an engine, on one of the dies
named (R369, R370)? -/
def State.underWay (s : State) (h : DWord) (named : Nat → Bool) : Bool :=
  (s.allGroups.any fun bg => named (dieOf bg.1.core) && bg.2.heldBytes.any fun x => !x.spad && s.underHandle h (x.addr, x.cp)) ||
  ((s.mem.requests ++ s.mem.reductions).any fun r => named (dieOf r.core) && s.underHandle h (r.pa, r.cp)) ||
    s.hub.commands.any fun c => named c.die &&
      ((c.run.map (·.todo)).getD []).any fun w => w.any fun b => s.underHandle h b.1

/-- Is a request of another module under a handle held at its home, or due after a hold (R325, R370)? -/
def State.peerHeld (s : State) (h : DWord) : Bool :=
  (s.mem.held.map (·.2) ++ s.agenda).any fun i => match i with
    | .peerRequest g _ _ _ _ => g == h
    | _ => false

/-- Steps 2 to 4 of REVOKE (R370): importers' copies dropped, those of other modules snooped, their slots REVOKED, both hosts and
the modules that import under the handle told, the entry freed. -/
def State.revokeEntry (s : State) (idx : Nat) : State :=
  let w0 := s.exportWord idx 0
  let h := BitVec.ofNat 64 (bits w0 47 32 * 2 ^ 48 + s.ownModule % 8192 * 2 ^ 35 + idx * 2 ^ 21 + sget 0 s.links.serial idx)
  let imps := s.importers idx
  let t := imps.foldl (fun (u : State) k =>
    let die := k / 256
    let v := { u with
      mem := { u.mem with l1 := u.mem.l1.filter fun c => dieOf c.core != die }
      links := { u.links with peerSlot := sset 0 u.links.peerSlot k (setBits (sget 0 u.links.peerSlot k) 63 62 2) } }
    match v.dieOwner die with
    | some f => v.event f 6 0 h (BitVec.ofNat 64 (die + k % 256 * 256))
    | none => v) s
  let lines := distinct ((t.links.copies.filter (·.2.2 == idx)).map (·.2.1))
  let t := lines.foldl State.snoopAway { t with links := { t.links with revoked := t.links.revoked ++ [h] } }
  let u := (t.event (t.vfOf (exASID w0)) 6 (t.tagOf (exASID w0)) h 0xFFFF).setExport idx [0, 0, 0, 0]
  { u with links := { u.links with serial := sset 0 u.links.serial idx ((sget 0 u.links.serial idx + 1) % 2 ^ 21) } }

/-- REVOKE (R370). -/
def execRevoke (fn : Nat) (s : State) : Host.Outcome State Fault Refusal :=
  runCmd 0x13 true [anyArg] fn s fun s =>
    let h := s.cmdWord fn 1
    let idx := hIdx h
    let w0 := s.exportWord idx 0
    if hMod h != s.ownModule || exST w0 = 0 || sget 0 s.links.serial idx != hSer h || bits w0 47 32 != hChk h ||
        !s.vfHolds (s.targetVf fn) (exASID w0) then ended s 4
    else
      let t := s.setExport idx [setBits w0 56 54 2, s.exportWord idx 1, s.exportWord idx 2, s.exportWord idx 3]
      if (t.underWay h fun _ => true) || t.peerHeld h then .busy t else ended (t.revokeEntry idx) 0

/-- An entry that wrong check codes have made REVOKING, freed once its requests are over; one that a REVOKE under way names
is left to it (R368, R370). -/
def State.endRevoking (s : State) (idx : Nat) : State :=
  let w0 := s.exportWord idx 0
  let h := BitVec.ofNat 64 (bits w0 47 32 * 2 ^ 48 + s.ownModule % 8192 * 2 ^ 35 + idx * 2 ^ 21 + sget 0 s.links.serial idx)
  let named := s.mgmt.running.any fun c => bits (c.words.getD 0 0) 7 0 == 0x13 && hIdx (c.words.getD 1 0) == idx
  if exST w0 = 2 && !named && !s.underWay h (fun _ => true) && !s.peerHeld h then s.revokeEntry idx else s

/-- The export entries that are REVOKING. -/
def State.revoking (s : State) : List Nat :=
  (distinct (s.links.exports.map (·.1 / 4))).filter fun k => exST (s.exportWord k 0) == 2

/-- Does an export's ALLOW take a partition of this module (R368)? -/
def State.allowed (s : State) (allow : DWord) (part : Nat) : Bool :=
  allow.getLsbD 63 || (bits allow 12 0 == s.ownModule && bits allow 18 13 == part)

/-- A slot record ACTIVE with rights and length (R369). -/
def slotRecord (rights len : Nat) : DWord := BitVec.ofNat 64 (2 ^ 62 + rights * 2 ^ 59 + len)

/-- The peer-window slot that IMPORT and UNIMPORT name, as its key, if its die-device is the function's (R366, R369). -/
def State.slotArg (s : State) (fn : Nat) : Option Nat :=
  let a := s.cmdWord fn 2
  let die := bits a 4 0
  if (s.vfWord (s.targetVf fn) 0).getLsbD (32 + die) then some (256 * die + bits a 15 8) else none

/-- IMPORT (R368, R369): a wrong CHK is counted and at the fifteenth revokes the entry. What another module's hub answers
is a free value. -/
def execImportHandle (fn : Nat) (s : State) : Host.Outcome State Fault Refusal :=
  runCmd 0x11 true [anyArg, 0x7FF1F] fn s fun s =>
    let h := s.cmdWord fn 1
    let want := bits (s.cmdWord fn 2) 18 16
    match s.slotArg fn with
    | none => ended s 0x12
    | some k =>
      let put := fun (rec : DWord) => CmdRes.done { s with
        links := { s.links with
          peerSlot := sset 0 s.links.peerSlot k rec
          peerHandle := sset 0 s.links.peerHandle k h } } 0 rec
      if bits (sget 0 s.links.peerSlot k) 63 62 != 0 then ended s 6
      else if hMod h != s.ownModule then
        if (s.portsTo (hMod h)).isEmpty then ended s 7
        else if Config.choice s.tick 1 then ended s 4
        else if Config.choice s.tick 2 then ended s 5
        else put (slotRecord (want &&& (Config.freeDWord s.tick).toNat % 8) (4096 * (bits (Config.freeDWord s.tick) 30 3 + 1)))
      else
        let idx := hIdx h
        let w0 := s.exportWord idx 0
        if exST w0 != 1 || sget 0 s.links.serial idx != hSer h then ended s 4
        else if bits w0 47 32 != hChk h then
          ended (s.failedImport idx) 4
        else if !s.allowed (s.exportWord idx 3) (s.partOf (s.targetVf fn)) then ended s 5
        else put (slotRecord (want &&& bits w0 59 57) (bits (s.exportWord idx 2) 40 0))

/-- UNIMPORT (R369): the slot is EMPTY once no request that its die has issued under its handle is under way. -/
def execUnimport (fn : Nat) (s : State) : Host.Outcome State Fault Refusal :=
  runCmd 0x12 true [0, 0xFF1F] fn s fun s =>
    match s.slotArg fn with
    | none => ended s 0x12
    | some k =>
      if s.underWay (sget 0 s.links.peerHandle k) (· == k / 256) then .busy s
      else ended { s with links := { s.links with
        peerSlot := sset 0 s.links.peerSlot k 0, peerHandle := sset 0 s.links.peerHandle k 0 } } 0

/-! ## Keys and attestation (R345-R349) -/

/-- Bytes of a function's security mailbox (R362). -/
def State.mailboxBytes (s : State) (vf o n : Nat) : List Byte := (List.range n).map fun j => sget 0 s.mgmt.mailbox (4096 * vf + o + j)

/-- Does a function's partition, enabled, own a key slot (R339)? -/
def State.ownsSlot (s : State) (vf slot : Nat) : Bool :=
  let p := s.partRecord (s.partOf vf)
  pEN p && pKSB p ≤ slot && slot < pKSB p + pKSN p

/-- Is the session's ephemeral key fresh: made by a report, not used, at most 60 s old (R347)? -/
def State.freshSession (s : State) (vf : Nat) : Bool :=
  let x := sget {} s.iso.session vf
  x.made != 0 && s.mgmt.ns + 1 ≤ x.made + 60000000000

/-- The public key that belongs to a private key, and the ephemeral private key of a session (R347, R349). -/
def publicKey (secret : Nat) : Option (Nat × Nat) := ecMul (ecScalar secret) p256G

/-- The info from which the wrapping key is derived: `LNX-K4 wrap` (R347). -/
def wrapInfo : List Byte := [0x4C, 0x4E, 0x58, 0x2D, 0x4B, 0x34, 0x20, 0x77, 0x72, 0x61, 0x70]

/-- The key pair of a load request in a mailbox, first half first, unwrapped under the secret that the session shares with
the owner; nothing where the integrity check fails, or where the owner's public key is no point of the curve (R347, R409; log
entry 8). -/
def Session.unwrap (x : Session) (box : List Byte) : Option (BitVec 256 × BitVec 256) :=
  let q := ecPoint box
  let z := ((ecMul (ecScalar (Config.ephemeralSecret x.key)) (some q)).getD (0, 0)).1
  if onCurve q then
    (unwrapKey (hkdf x.nonce (beBytes 32 z) wrapInfo) ((box.drop 64).take 72)).map fun k =>
      (BitVec.ofNat 256 (natOfBytes (k.take 32)), BitVec.ofNat 256 (natOfBytes (k.drop 32)))
  else none

/-- KEYLOAD (R347): the session's key is used up whatever the outcome. -/
def execKeyload (fn : Nat) (s : State) : Host.Outcome State Fault Refusal :=
  runCmd 0x14 true [0xFFFFFFFF00000FFF] fn s fun s =>
    let vf := s.targetVf fn
    let slot := bits (s.cmdWord fn 1) 11 0
    let t := { s with iso := { s.iso with session := serase s.iso.session vf } }
    if !s.ownsSlot vf slot then ended t 2
    else if bits (sget 0 s.iso.key slot) 63 62 != 0 then ended t 3
    else if !s.freshSession vf then ended t 4
    else
      let x := sget {} s.iso.session vf
      match x.unwrap (s.mailboxBytes vf 0 0x88) with
      | none => ended t 1
      | some k =>
        if k.1 == k.2 then ended t 5
        else
          let w := 2 ^ 62 + bits (s.cmdWord fn 1) 63 32 * 2 ^ 16 + vf * 2 ^ 6 + s.partOf vf
          ended { t with iso := { t.iso with key := sset 0 t.iso.key slot (BitVec.ofNat 64 w), keyBits := sset (0, 0) t.iso.keyBits slot k } } 0

/-- KEYERASE (R348). -/
def execKeyerase (fn : Nat) (s : State) : Host.Outcome State Fault Refusal :=
  runCmd 0x15 true [0xFFF] fn s fun s =>
    if s.ownsSlot (s.targetVf fn) (s.arg fn 1) then ended (s.eraseKey (s.arg fn 1)) 0 else ended s 2

/-- The 64-bit words of a record as bytes (R4). -/
def wordBytes (ws : List DWord) : List Byte := ws.flatMap fun w => bytesOfNat 8 w.toNat

/-- What CFGM measures (R349): the partition record, its granule entries and the records of its enabled VFs, ascending. -/
def State.measured (s : State) (part : Nat) : List Byte :=
  let gs := ((List.range 1024).map (sget 0 s.iso.granule)).filter fun e => e.getLsbD 7 && bits e 5 0 == part
  let vs := (List.range 1024).filter fun v => (s.vfWord v 1).getLsbD 0 && s.partOf v == part
  wordBytes (s.partRecord part) ++ gs ++ vs.flatMap fun v => wordBytes ((List.range 4).map (s.vfWord v))

/-- A report up to its signature (R349). -/
def State.reportBody (s : State) (vf : Nat) : List Byte :=
  let part := s.partOf vf
  bytesOfNat 4 1 ++ bytesOfNat 4 (part + vf * 2 ^ 16) ++ s.mailboxBytes vf 0 32 ++
    sha256 (ecBytes (publicKey Config.identitySecret)) ++ sha256 (s.firmwareBytes (s.bootFWS % 2)) ++
    bytesOfNat 4 (s.bootFWS % 2) ++ List.replicate 28 0 ++ sha256 (s.measured part) ++
    ecBytes (publicKey (Config.ephemeralSecret s.tick))

/-- A report (R349), signed over the digest of what stands before the signature. -/
def State.attestReport (s : State) (vf : Nat) : List Byte :=
  let body := s.reportBody vf
  let sig := ecdsaSign (ecScalar Config.identitySecret) (ecScalar (Config.signatureNonce s.tick)) (sha256 body)
  body ++ beBytes 32 sig.1 ++ beBytes 32 sig.2

/-- ATTEST (R349): the report in the mailbox, a new session. -/
def execAttest (fn : Nat) (s : State) : Host.Outcome State Fault Refusal :=
  runCmd 0x16 true [] fn s fun s =>
    let vf := s.targetVf fn
    let put := fun m (x : Nat × Byte) => sset 0 m (4096 * vf + 0x100 + x.1) x.2
    ended { s with
      iso := { s.iso with session := sset {} s.iso.session vf ⟨s.mgmt.ns + 1, s.tick, s.mailboxBytes vf 0 32⟩ }
      mgmt := { s.mgmt with mailbox := (numbered (s.attestReport vf)).foldl put s.mgmt.mailbox } } 0

/-! ## Contexts (R384, R388, R390) -/

/-- Is the context that a command names one of its function's and valid (R409)? -/
def State.contextArg (s : State) (fn : Nat) : Option Nat :=
  let a := s.arg fn 1
  if s.vfHolds (s.targetVf fn) a && s.spaceValid a then some a else none

/-- Is a context saved whole? -/
def State.isSaved (s : State) (asid : Nat) : Bool := s.mgmt.saved.any fun v => v.asid == asid

/-- PREEMPT (R384, R385): done once the save is complete. -/
def execPreempt (fn : Nat) (s : State) : Host.Outcome State Fault Refusal :=
  runCmd 0x18 true [0xFFFF] fn s fun s =>
    match s.contextArg fn with
    | none => ended s 0x12
    | some a =>
      let t := s.requestPreempt a 0x0E
      if t.isSaved a then ended t 0
      else if t.mgmt.removing.any (·.1 == a) then ended t 0x12
      else .busy t

/-- REMOVE (R390, R391): done after stage 8. -/
def execRemove (fn : Nat) (s : State) : Host.Outcome State Fault Refusal :=
  runCmd 0x1A true [0xFFFF] fn s fun s =>
    match s.contextArg fn with
    | none => ended s 0x12
    | some a =>
      let begun := (s.mgmt.running.head?).any (·.begun)
      if s.mgmt.removing.any (·.1 == a) then .busy s
      else if begun then ended s 0
      else
        let t := s.remove a 0x11
        .busy { t with mgmt := { t.mgmt with running := t.mgmt.running.map fun c => if c.fn = fn then { c with begun := true } else c } }

/-- Are the accumulator lines of a block's reservations free on a core? -/
def State.linesFree (s : State) (b : Block) (core : Nat) : Bool :=
  b.resvs.all fun r => (s.accRanges core).all fun o => !rangesMeet r.accb (r.accl + 1) o.1 o.2

/-- What a restore gives back of values that the save did not name: each of them or zero (R46, R385). -/
def keepSaved {α : Type} (tick site : Nat) (named : Nat → Bool) (m : Sparse α) : Sparse α :=
  m.filter fun e => named e.1 || Config.choice tick (site + e.1)

/-- A group as it resumes in a slot (R388); the lane of a handle comes back with its future (R257). One that has ended takes
none (R40): it goes by a number that no slot has. -/
def Group.resume (tick order slot : Nat) (g : Group) : Group :=
  let named := fun (k : Nat) => g.futures.any (fun f => 32 * f.1 + f.2.lane == k) || match g.saved with
    | some m => m.full || m.live.getLsbD (k / 32)
    | none => true
  { g with slot := if g.ended then g.slot % 32 + 32 + 64 * (order + 1) else slot, saved := none, regs := keepSaved tick (4096 * slot) named g.regs }

/-- A saved block placed on a core (R294, R388): slots, banks and block slot afresh, accumulator lines under the numbers they
had. A restore is a fence of system scope, so no L1 copy of the core survives (R204, R206). -/
def State.placeBlock (s : State) (asid k : Nat) (b : Block) (saved : Sparse DWord) (core : Nat) : State :=
  let t := (s.retireSlots core).dropL1 core
  let slots := t.freeSlots core
  let bslot := (t.freeBlockSlot core).getD 0
  let rs := b.savedRanges
  let named := fun (o : Nat) => rs.any (fun r => r.1 ≤ o && o < r.1 + r.2) ||
    b.resvs.any fun r => 32768 * r.first ≤ o && o < 32768 * (r.first + r.count)
  let own := fun (r : Resv) => { r with w1 := setBits r.w1 47 32 bslot }
  let c : Block := { b with core := core, bslot := bslot, banks := (t.freeBanks core).take b.banks.length,
                            bytes := keepSaved t.tick 131072 named b.bytes, resvs := b.resvs.map own,
                            groups := (List.range b.groups.length).filterMap fun i =>
                              (b.groups[i]?).map (Group.resume t.tick t.hub.nextOrder (slots.getD i 0)), order := t.hub.nextOrder }
  let acc := saved.foldl (fun m e => sset 0 m (16384 * core + e.1) e.2) t.cores.acc
  let mine := fun (x : Command) => if x.asid = asid && x.core = b.core && x.bslot = 64 + k then { x with core := core, bslot := bslot } else x
  { t.cleared c with
    blocks := t.blocks ++ [c]
    cores := { t.cores with acc := acc }
    hub := { t.hub with nextOrder := t.hub.nextOrder + 1, commands := t.hub.commands.map mine } }

/-- The span that a block belongs to: its grid and the span's first index (R20, R293). -/
def Block.span (b : Block) : Nat × Nat := (b.grid, b.idx - b.spanIdx)

/-- The saved blocks, each with its accumulator entries, placed one after another on their own die: `none` where one finds
no core (R293, R388). The blocks of a span take distinct cores; `used` lists the cores that the spans have taken. -/
def State.placeAll (asid : Nat) : Nat → List ((Nat × Nat) × Nat) → List (Block × Sparse DWord) → State → Option State
  | _, _, [], s => some s
  | k, used, (b, acc) :: rest, s =>
    let fits := fun (c : Nat) => s.coreFits b.record c && s.linesFree b c && !(lSPB b.record != 0 && used.contains (b.span, c))
    match (coresOf (dieOf b.core)).find? fits with
    | none => none
    | some c => State.placeAll asid (k + 1) ((b.span, c) :: used) rest (s.placeBlock asid k b acc c)

/-! ## Reading an image back (R386-R388) -/

/-- `n` 32-bit words from the front of a list of bytes. -/
def imageWords (n : Nat) (bs : List Byte) : List Word := (List.range n).map fun k => BitVec.ofNat 32 (natOfBytes ((bs.drop (4 * k)).take 4))

/-- A length rounded up to 64. -/
def up64 (n : Nat) : Nat := (n + 63) / 64 * 64

/-- A group as its image gives it back, and the bytes after it (R386). What the image does not name comes back as it was
(log entry 11). An ended group has no image. -/
def Group.reload (s : State) (die : Nat) (g : Group) (bs : List Byte) : Group × List Byte :=
  if g.saved.isNone then (g, bs)
  else
  let head := unpackNats (g.headValues.map (·.1)) (headFields 1024 (bs.take 1024))
  let rs := (g.saved.map (·.regs)).getD []
  let ws := imageWords (32 * rs.length) (bs.drop 1024)
  let put := fun (m : Sparse Word) (k : Nat) => sset 0 m (32 * rs.getD (k / 32) 0 + k % 32) (ws.getD k 0)
  ({ g.ofHead s die head with regs := (List.range (32 * rs.length)).foldl put g.regs }, bs.drop (1024 + 128 * rs.length))

/-- A block with a reservation's record and bank bytes of its image, the accumulator entries, and the bytes after it. -/
def Block.reloadResv (x : Block × Sparse DWord × List Byte) (r : Resv) : Block × Sparse DWord × List Byte :=
  let (b, acc, bs) := x
  let n := 32768 * r.count
  let ws := wordsAt bs 2
  let entries := wordsAt (bs.drop (16 + n)) (32 * (r.accl + 1))
  let b1 := b.setBytes ((numbered ((bs.drop 16).take n)).map fun (j, v) => (32768 * r.first + j, v))
  ({ b1 with resvs := b1.resvs.map fun o => if o.first = r.first then { o with w0 := lw ws 0, w1 := lw ws 1 } else o },
   (List.range entries.length).foldl (fun m j => sset 0 m (32 * r.accb + j) (lw entries j)) acc,
   bs.drop (up64 (16 + n + 8 * entries.length)))

/-- A block with the bytes of a range of its image, and the bytes after it. -/
def Block.reloadRange (x : Block × List Byte) (r : Nat × Nat) : Block × List Byte :=
  (x.1.setBytes ((numbered (x.2.take r.2)).map fun (j, v) => (r.1 + j, v)), x.2.drop r.2)

/-- Groups as their images give them back one after another, and the bytes after them. -/
def reloadGroups (s : State) (die : Nat) : List Group → List Byte → List Group × List Byte
  | [], bs => ([], bs)
  | g :: rest, bs =>
    let (g1, bs1) := g.reload s die bs
    let (gs, bs2) := reloadGroups s die rest bs1
    (g1 :: gs, bs2)

/-- A block as its image gives it back, its accumulator entries by line and entry, and the bytes after it (R386). -/
def Block.reload (s : State) (b : Block) (bs : List Byte) : (Block × Sparse DWord) × List Byte :=
  let b0 := b.ofHead (unpackNats ((b.headValues 0).map (·.1)) (headFields 512 (bs.take 512)))
  let (b1, acc, bs1) := b.resvs.foldl Block.reloadResv (b0, [], bs.drop 512)
  let rs := b.savedRanges
  let bytes := bs1.drop (up64 (8 * rs.length))
  let b2 := (rs.foldl Block.reloadRange (b1, bytes)).1
  let (gs, bs3) := reloadGroups s (dieOf b.core) b.groups (bytes.drop (up64 ((rs.map (·.2)).foldl (· + ·) 0)))
  (({ b2 with groups := gs }, acc), bs3)

/-- The blocks of an image. -/
def reloadBlocks (s : State) : List Block → List Byte → List (Block × Sparse DWord)
  | [], _ => []
  | b :: rest, bs =>
    let (x, bs1) := b.reload s bs
    x :: reloadBlocks s rest bs1

/-- Bytes that the save engine reads page by page through a context's translation, if it may read all of them. -/
def State.readSpan (s : State) (asid va n : Nat) : Option (List Byte) :=
  let parts := (pageCuts va n).map fun x => s.readVa .hub asid x.1 x.2
  if parts.all (·.isSome) then some (parts.flatMap (·.getD [])) else none

/-- Bytes that it reads in the fallback area of a context's partition. -/
def State.readFallback (s : State) (asid pa n : Nat) : Option (List Byte) :=
  let area := sget (0, 0) s.iso.fallback (s.partOf (s.vfOf asid))
  let places := (List.range n).map fun j => (pa + j, 0)
  if pa < area.1 || area.1 + area.2 < pa + n || (s.physBarred asid pa n).isSome || places.any (fun at_ => (s.unreadable asid at_).isSome) then none
  else some (places.map (s.readAt asid))

/-- The image of a saved context as it now stands in memory, wherever its recovery record says that its parts lie; nothing
where it is not VALID or a part cannot be read (R386-R388). -/
def State.readImage (s : State) (v : Saved) : Option (List Byte) :=
  let mapped := v.record < 2 ^ 63
  match (if mapped then s.readSpan v.asid v.record 64 else s.readFallback v.asid (v.record % 2 ^ 63) 64) with
  | none => none
  | some head =>
    let w := fun k => natOfBytes ((head.drop (8 * k)).take 8)
    let away := (w 0).testBit 8
    match (if mapped then s.readSpan v.asid v.record (if away then w 4 else w 2) else some []),
        (if away then s.readFallback v.asid (w 5) (w 6) else some []) with
    | some a, some b => if (w 0).testBit 10 then some (a ++ b) else none
    | _, _ => none

/-- The saved context of an address space with its image, where a valid one exists (R386, R388). -/
def State.validImage (s : State) (asid : Nat) : Option (Saved × List Byte) :=
  match s.mgmt.saved.find? fun v => v.asid == asid with
  | none => none
  | some v =>
    (s.readImage v).map fun bs => (v, bs)

/-- The reads of a saved image made: what a firewall denies noted (R341), lines taken back from the host (R193, R360). -/
def State.noteImage (s : State) (v : Saved) : State :=
  let area := sget (0, 0) s.iso.fallback (s.partOf (s.vfOf v.asid))
  let t := if 2 ^ 63 ≤ v.record then s
    else (pageCuts v.record v.len).foldl (fun (t : State) x =>
      ((t.noteDeniedAt .hub v.asid x.1 x.2 .load 5).reach .hub v.asid x.1 x.2).1) s
  match v.fallback with
  | none => t
  | some (_, off, n) =>
    match t.physBarred v.asid (area.1 + off) n with
    | some x => t.denied v.asid x 5
    | none => t.recall ((List.range (n / 64 + 1)).map ((area.1 + off) / 64 + ·))

/-- RESTORE (R388): the image is read, the blocks are placed and every split resumes at its saved pc. -/
def execRestore (fn : Nat) (s : State) : Host.Outcome State Fault Refusal :=
  runCmd 0x19 true [0xFFFF] fn s fun s =>
    match s.contextArg fn with
    | none => ended s 0x12
    | some a =>
      match s.validImage a with
      | none => ended (((s.mgmt.saved.find? fun v => v.asid == a).map s.noteImage).getD s) 0x12
      | some (v, bs) =>
        match State.placeAll a 0 [] (reloadBlocks s v.blocks (bs.drop 64)) (s.noteImage v) with
        | none => .busy s
        | some t =>
          let u := t.charge a 40 21 ((v.len + 63) / 64)
          ended { u with
            iso := { u.iso with restores := sset 0 u.iso.restores a ((sget 0 u.iso.restores a + 1) % 2 ^ 32) }
            mgmt := { u.mgmt with saved := u.mgmt.saved.filter fun (x : Saved) => x.asid != a } } 0

end Sys2Proof.Machine
end

