-- ==== Sys2Proof/Machine/Census.lean ====
section
/-! DEFINITION. The state census (17_recovery.md R395): the sections of the units of a scope, and the command CENSUS. -/

namespace Sys2Proof.Machine

/-- The units that have a section of their own (R11, R395). -/
inductive UnitKind where
  | hub | kDie | mDie | core | nearCore
deriving DecidableEq, Repr

/-- A kind's number for the free header. -/
def UnitKind.number : UnitKind → Nat
  | .hub => 0
  | .kDie => 1
  | .mDie => 2
  | .core => 3
  | .nearCore => 4

/-- A unit's section: its kind and index (R11), and its fields as bytes. -/
structure Section where
  kind : UnitKind
  index : Nat
  fields : List Byte

/-- A section as it stands in the capture: a header of kind, index and length, then the fields (R395). -/
def Section.bytes (x : Section) : List Byte := Config.censusHeader x.kind.number x.index x.fields.length ++ x.fields

/-- A section put in its place: the order of the sections is open (R395). -/
def insertSection (x : Section) : List Section → List Section
  | [] => [x]
  | y :: rest =>
    if Config.censusRank x.kind.number x.index ≤ Config.censusRank y.kind.number y.index then x :: y :: rest
    else y :: insertSection x rest

/-- The fields of a group: split table (R37), sp, fl, ts and gs (R34-R36), trap record, done masks and scratch words (R389),
and what a try slot (R318), futures and reservations of the group hold. -/
def Group.fields (g : Group) : List Byte :=
  let words := (List.range 4).flatMap (fun k => (g.splitAt k).words) ++
    [g.sp.setWidth 64, g.fl.setWidth 64, g.ts.setWidth 64] ++ (List.range 32).map (sget 0 g.gs) ++
    (List.range 22).map (sget 0 g.trap) ++ (List.range 16).map (fun k => (sget 0 g.ldone k).setWidth 64) ++
    (List.range 8).map (sget 0 g.hscr)
  let slot := match g.region with
    | none => []
    | some r => [r.slot, r.perLane.toNat, r.handler.toNat, r.lane, r.reg.toNat, r.failed.toNat, r.holding.toNat] ++
        r.reads.flatMap (fun x => [x.1.toNat, x.2]) ++
        r.buffer.flatMap fun h => [h.spad.toNat, h.addr, h.val.toNat, h.lane]
  wordBytes words ++ Config.censusFields 0 slot ++
    Config.censusFields 1 (g.futures.flatMap fun f => [f.1, f.2.lane, f.2.die, f.2.qn, f.2.seq]) ++
    Config.censusFields 2 (g.lr.flatMap fun r => [r.1, r.2.asid, r.2.granule, r.2.isProtected.toNat]) ++
    Config.censusFields 3 ([g.slot, g.handler.getD 4, g.waitCount] ++
      (List.range 4).flatMap fun k => [(g.splitAt k).run, (g.splitAt k).waitCount]) ++
    Config.censusFields 22 ((List.range 4).flatMap fun k => (g.splitAt k).pending.flatMap fun q =>
      [k, q.info.code, q.info.lane, q.info.done.toNat, q.info.fva.toNat, q.pc.toNat, q.stamp])

/-- What a reservation holds beyond its record: the mark of R393 and its outstanding work (R135, R151). -/
def Resv.progress (r : Resv) : List Nat :=
  r.poisoned.toNat :: r.work.flatMap fun w => [w.kind, w.started.toNat, w.slot, w.spl, w.pc.toNat, w.row, w.flags.toNat, w.ahead.length]

/-- The fields of a block: barrier objects (R315), reservation records (R139) with their work, fills under way (R235), what its
header tells (R386), its groups. -/
def Block.fields (b : Block) : List Byte :=
  wordBytes ((List.range 16).map (sget 0 b.objects) ++ b.resvs.flatMap fun r => [r.w0, r.w1]) ++
    Config.censusFields 4 ([b.bslot, b.grid, b.idx, b.spanIdx, b.asid, b.recordAddr.toNat] ++ b.banks ++
      (List.range 17).map (sget 0 b.phases)) ++
    Config.censusFields 23 (b.resvs.flatMap Resv.progress) ++
    Config.censusFields 24 (b.fills.flatMap fun f => [f.obj, f.left.length]) ++
    b.groups.flatMap Group.fields

/-- Does a scope take an address space: the module's takes every one, a function's its own (R395)? -/
def State.inScope (s : State) (vf : Option Nat) (asid : Nat) : Bool :=
  match vf with
  | none => true
  | some v => s.vfOf asid == v

/-- The fields of a core: its blocks of the scope, and of the module's scope the trim words (R354) and the counters of
fetches, rollbacks and errors (R301, R209, R394). -/
def State.coreFields (s : State) (vf : Option Nat) (c : Nat) : List Byte :=
  ((s.allBlocks.filter fun b => b.core == c && s.inScope vf b.asid).flatMap Block.fields) ++
    if vf.isSome then []
    else
      (if isNear c then [] else wordBytes ((List.range 64).map fun k => sget 0 s.cores.trim (64 * c + k))) ++
        Config.censusFields 5 [sget 0 s.cores.fetches c, sget 0 s.cores.rollbacks c, (s.cores.softErrors.filter (·.1 == c)).length]

/-- The copy-queue records of a die that a scope takes (R251). -/
def State.queueFields (s : State) (vf : Option Nat) (die : Nat) : List Byte :=
  ((List.range 256).filter fun q => s.inScope vf (s.cqAsid die q)).flatMap fun q =>
    wordBytes ((List.range 8).map (s.cqWord die q))

/-- How far the commands of a die that a scope takes have come (R252, R259, R264). -/
def State.engineFields (s : State) (vf : Option Nat) (die : Nat) : List Byte :=
  Config.censusFields 25 ((s.hub.commands.filter fun c => c.die == die && s.inScope vf c.asid).flatMap fun c =>
    [c.qn, c.seq, c.kind, c.asid, c.cancelled.toNat, c.inst] ++ match c.run with
      | none => []
      | some r => [r.unit, r.src, r.dst, r.xlen, r.flags.toNat, r.got, r.todo.length] ++ r.bads)

/-- The fields of a die: its copy queues with the progress of their commands, and of the module's scope its link state
(R374), its loop states (R354), the peer slots of a K-die with their handles (R369), and the format tags of an M-die's
lines (R196). -/
def State.dieFields (s : State) (vf : Option Nat) (die : Nat) : List Byte :=
  s.queueFields vf die ++ s.engineFields vf die ++
    if vf.isSome then []
    else
      wordBytes [s.linkWord die, s.dvfsWord die, BitVec.ofNat 64 (s.dieTemp die * 256 + s.dieRank die)] ++
        if die < 32 then wordBytes ((List.range 256).flatMap fun k => [s.peerRec die k, sget 0 s.links.peerHandle (256 * die + k)])
        else Config.censusFields 6 (s.mem.compressed.filter (onMdie (die - 32)))

/-- A command block, its status word, and words of the command under way (R409). -/
def State.commandFields (s : State) (fn : Nat) : List Byte :=
  wordBytes ((List.range 8).map (s.blockWord fn) ++ [s.cmdStatus fn] ++
    (s.mgmt.running.filter (·.fn == fn)).flatMap fun c => BitVec.ofNat 64 c.begun.toNat :: c.words)

/-- The records of functions and address spaces with their event counters and restore counts, decoders and command blocks, their
queues, exports and serials, that a scope takes (R282, R343, R344, R361, R362, R365, R368, R388, R389, R409). -/
def State.contextFields (s : State) (vf : Option Nat) : List Byte :=
  let vs := match vf with
    | none => List.range 1024
    | some v => [v]
  let spaces := (List.range 65536).filter (s.inScope vf)
  let queues := (List.range 4096).filter fun q => s.inScope vf (bits (s.wqWord q 1) 63 48)
  let exports := (List.range 16384).filter fun k => s.inScope vf (exASID (s.exportWord k 0))
  wordBytes (vs.flatMap fun v => (List.range 4).map (s.vfWord v) ++ (List.range 16).map fun k => sget 0 s.iso.hostRange (16 * v + k)) ++
    wordBytes (spaces.flatMap fun a => [s.spaceWord a 0, s.spaceWord a 1, s.tvec a, sget 0 s.iso.saveva a, sget 0 s.iso.meter a,
      BitVec.ofNat 64 (sget 0 s.iso.restores a)]) ++
    wordBytes (vs.flatMap fun v => [sget 0 s.mgmt.ewi v, sget 0 s.mgmt.eri v, sget 0 s.mgmt.overflow v].map (BitVec.ofNat 64)) ++
    wordBytes (vs.flatMap fun v => (List.range 16).map fun k => sget 0 s.mgmt.hdm (16 * v + k)) ++ vs.flatMap s.commandFields ++
    wordBytes (queues.flatMap fun q => (List.range 4).map (s.wqWord q)) ++
    wordBytes (exports.flatMap fun k => (List.range 4).map (s.exportWord k)) ++
    Config.censusFields 26 (exports.map (sget 0 s.links.serial)) ++
    Config.censusFields 27 ((s.mem.bindings.filter fun b => s.inScope vf b.1).flatMap fun b => [b.1, b.2.1, b.2.2]) ++
    Config.censusFields 28 (vs.filter s.iso.spent.contains)

/-- What a fabric port holds beyond its link state: its replay buffer among it (R372, R373, R427). -/
def State.portFields (s : State) (p : Nat) : List Nat :=
  [sget 0 s.links.rxSeq p, sget 0 s.links.txAck p, sget 0 s.links.fails p, sget 0 s.links.retrains p, sget 0 s.links.naked p,
    (s.links.staged.filter (·.1 == p)).length, sget 0 s.links.txSeq p] ++ (s.links.replay.filter (·.1 == p)).map (·.2) ++ (List.range 4).map fun v => sget 0 s.links.credits (4 * p + v)

/-- What the recovery of the module's scope holds: fallback areas (R387), what is offline (R392, R394, R405), removals with
their counts (R391, R392), pre-emptions and saves (R384), notices (R400), and what of the capping loops is no record (R406,
R407). -/
def State.recoveryFields (s : State) : List Byte :=
  Config.censusFields 17 (s.mgmt.removing.flatMap fun x => [x.1, x.2.1, x.2.2]) ++
    Config.censusFields 18 (s.mgmt.preempt.flatMap fun x => [x.1, x.2]) ++
    Config.censusFields 19 (s.mgmt.saved.flatMap fun v => [v.asid, v.cause, v.len, v.record]) ++
    Config.censusFields 20 s.mgmt.spared ++ Config.censusFields 21 s.mgmt.throttled ++
    Config.censusFields 29 (s.iso.fallback.flatMap fun e => [e.1, e.2.1, e.2.2]) ++
    Config.censusFields 30 s.mgmt.offline ++ Config.censusFields 31 s.mgmt.offlineCores ++
    Config.censusFields 32 (s.mgmt.stageCounts.flatMap fun x => [x.1, x.2.1, x.2.2]) ++
    Config.censusFields 33 (s.mgmt.notices.flatMap fun x => [x.1, x.2.1, x.2.2]) ++
    Config.censusFields 34 (s.mgmt.hot.flatMap fun e => [e.1, e.2]) ++ Config.censusFields 35 s.cores.paused ++
    Config.censusFields 36 (s.mgmt.images.flatMap fun e => [e.1, e.2])

/-- The fields of the hub: those of its contexts and its own queues, and of the module's scope partitions, granules and key
slots (R339, R340, R345), ports and host modules with their loops (R354, R374), routing table and directory (R371, R375), BOOTST,
and its counters and logs. -/
def State.hubFields (s : State) (vf : Option Nat) : List Byte :=
  s.contextFields vf ++ s.queueFields vf 40 ++ s.engineFields vf 40 ++
    if vf.isSome then []
    else
      wordBytes ((List.range 64).flatMap s.partRecord) ++ (List.range 1024).map (sget 0 s.iso.granule) ++
        wordBytes ((List.range 4096).map (sget 0 s.iso.key)) ++ wordBytes ((List.range 20).map fun k => s.linkWord (40 + k)) ++
        wordBytes ((List.range 128).map (sget 0 s.links.taps)) ++ wordBytes [s.mgmt.bootst] ++
        Config.censusFields 7 ((List.range 24).map (sget 0 s.mgmt.errors)) ++
        Config.censusFields 8 ((List.range 9).map (sget 0 s.iso.violations)) ++
        Config.censusFields 9 s.links.snoopLog ++
        Config.censusFields 10 [s.mgmt.powerCap, s.iso.systemAccount, s.mgmt.ns] ++
        Config.censusFields 11 (s.hub.grids.flatMap fun g => [g.id, g.queue, g.ticket, g.reported, g.nfail, g.badChunks] ++ g.ended ++
          g.ranges.flatMap fun x => [x.1, x.2.1, x.2.2]) ++
        Config.censusFields 12 (s.hub.tasks.flatMap fun t => [t.id, t.queue, t.pri, t.dispatched.toNat]) ++
        Config.censusFields 13 ((List.range 16).flatMap s.portFields) ++
        Config.censusFields 14 (s.links.routes.flatMap fun e => [e.1, e.2]) ++
        Config.censusFields 15 (s.links.copies.flatMap fun e => [e.1, e.2.1, e.2.2]) ++ Config.censusFields 16 s.mem.hostLines ++
        Config.censusFields 37 (s.links.snoops.flatMap fun x => [x.1, x.2.1, x.2.2]) ++ Config.censusFields 38 s.links.deadTimer ++
        s.recoveryFields ++ s.commandFields physicalFn ++
        wordBytes ([sget 0 s.mgmt.ewi physicalFn, sget 0 s.mgmt.eri physicalFn, sget 0 s.mgmt.overflow physicalFn].map (BitVec.ofNat 64))

/-- The sections of a scope, one for each unit (R395). -/
def State.sections (s : State) (vf : Option Nat) : List Section :=
  [⟨.hub, 0, s.hubFields vf⟩] ++
    (List.range 32).map (fun k => ⟨.kDie, k, s.dieFields vf k⟩) ++
    (List.range 8).map (fun m => ⟨.mDie, m, s.dieFields vf (32 + m)⟩) ++
    (List.range 512).map (fun c => ⟨.core, c, s.coreFields vf c⟩) ++
    (List.range 128).map fun n => ⟨.nearCore, n, s.coreFields vf (512 + n)⟩

/-- The capture of a scope (R395). -/
def State.census (s : State) (vf : Option Nat) : List Byte :=
  ((s.sections vf).foldl (fun l x => insertSection x l) []).flatMap Section.bytes

/-- The counters cleared by a read (R354): the pre-error counts of the lanes. -/
def State.clearRead (s : State) : State :=
  { s with links := { s.links with taps := (s.links.taps.map fun e => (e.1, setBits e.2 63 32 0)).filter (·.2 != 0) } }

/-- May a function write a stretch of host memory, by its host ranges (R365, R409; log entry 90)? -/
def State.hostWritable (s : State) (vf a n : Nat) : Bool :=
  (pageCuts a n).all fun x => (s.hostRanges vf).any fun (b, r, len) => b ≤ x.1 && x.1 + x.2 ≤ b + len && r.testBit 1

/-- CENSUS (R395): the capture of the scope at one time, written to host memory once none of its lines is held there (R325,
R333); the module's restarts the counters that a read clears. -/
def execCensus (fn : Nat) (s : State) : Host.Outcome State Fault Refusal :=
  runCmd 0x1B true [anyArg, anyArg, 1] fn s fun s =>
    if s.arg fn 3 = 0 && fn != physicalFn then ended s 0xFD
    else
      let whole := s.arg fn 3 == 0
      let bs := s.census (if whole then none else some (s.targetVf fn))
      let res := BitVec.ofNat 64 bs.length
      let ws := (numbered bs).map fun (j, v) => ((2 ^ 50 + s.arg fn 1 + j, 0), v)
      if s.arg fn 2 < bs.length then .done s 0x13 res
      else if 2 ^ 50 < s.arg fn 1 + bs.length || (fn != physicalFn && !s.hostWritable fn (s.arg fn 1) bs.length) then ended s 0x11
      else if (distinct (ws.map (·.1.1 / 64))).any (s.lineHeld none false) then .busy s
      else .done (if whole then (s.perform none 0 9999 ws).clearRead else s.perform none 0 9999 ws) 0 res

end Sys2Proof.Machine
end

