-- ==== Sys2Proof/Machine/Dispatch.lean ====
section
/-! DEFINITION. The dispatch: one arm per instruction or move, a direct call of its meaning. -/

namespace Sys2Proof.Machine

def exec (i : Instr) (s : State) : Host.Outcome State Fault Refusal :=
  match i with
  | .ill x => Sys2Proof.Machine.execIll x s
  | .nop => Sys2Proof.Machine.execNop s
  | .br o => Sys2Proof.Machine.execBr o s
  | .bz c o => Sys2Proof.Machine.execBz c o s
  | .bnz c o => Sys2Proof.Machine.execBnz c o s
  | .bmz c o => Sys2Proof.Machine.execBmz c o s
  | .bmnz c o => Sys2Proof.Machine.execBmnz c o s
  | .call c o => Sys2Proof.Machine.execCall c o s
  | .ret c => Sys2Proof.Machine.execRet c s
  | .jmpr c o => Sys2Proof.Machine.execJmpr c o s
  | .exit => Sys2Proof.Machine.execExit s
  | .split c o => Sys2Proof.Machine.execSplit c o s
  | .join o => Sys2Proof.Machine.execJoin o s
  | .yield n => Sys2Proof.Machine.execYield n s
  | .yieldExpiry core slot spl => Sys2Proof.Machine.execYieldExpiry core slot spl s
  | .yieldc c o => Sys2Proof.Machine.execYieldc c o s
  | .limm d j => Sys2Proof.Machine.execLimm d j s
  | .lhi d j => Sys2Proof.Machine.execLhi d j s
  | .mode d a p b q => Sys2Proof.Machine.execMode d a p b q s
  | .modei sl j => Sys2Proof.Machine.execModei sl j s
  | .emSet d a p => Sys2Proof.Machine.execEmSet d a p s
  | .emGet d => Sys2Proof.Machine.execEmGet d s
  | .emAnd d a p => Sys2Proof.Machine.execEmAnd d a p s
  | .emAndn d a p => Sys2Proof.Machine.execEmAndn d a p s
  | .idx d j => Sys2Proof.Machine.execIdx d j s
  | .add d a p b q => Sys2Proof.Machine.execAdd d a p b q s
  | .sub d a p b q => Sys2Proof.Machine.execSub d a p b q s
  | .addc d a p b q => Sys2Proof.Machine.execAddc d a p b q s
  | .subb d a p b q => Sys2Proof.Machine.execSubb d a p b q s
  | .mul d a p b q => Sys2Proof.Machine.execMul d a p b q s
  | .mulh d a p b q => Sys2Proof.Machine.execMulh d a p b q s
  | .mulhn d a p b q => Sys2Proof.Machine.execMulhn d a p b q s
  | .mad d a p b q => Sys2Proof.Machine.execMad d a p b q s
  | .min d a p b q => Sys2Proof.Machine.execMin d a p b q s
  | .max d a p b q => Sys2Proof.Machine.execMax d a p b q s
  | .abs d a p => Sys2Proof.Machine.execAbs d a p s
  | .neg d a p => Sys2Proof.Machine.execNeg d a p s
  | .and d a p b q => Sys2Proof.Machine.execAnd d a p b q s
  | .or d a p b q => Sys2Proof.Machine.execOr d a p b q s
  | .xor d a p b q => Sys2Proof.Machine.execXor d a p b q s
  | .andn d a p b q => Sys2Proof.Machine.execAndn d a p b q s
  | .not d a p => Sys2Proof.Machine.execNot d a p s
  | .shl d a p b q => Sys2Proof.Machine.execShl d a p b q s
  | .shr d a p b q => Sys2Proof.Machine.execShr d a p b q s
  | .sar d a p b q => Sys2Proof.Machine.execSar d a p b q s
  | .rot d a p b q => Sys2Proof.Machine.execRot d a p b q s
  | .dsh d a p b q => Sys2Proof.Machine.execDsh d a p b q s
  | .lzc d a p => Sys2Proof.Machine.execLzc d a p s
  | .tzc d a p => Sys2Proof.Machine.execTzc d a p s
  | .ones d a p => Sys2Proof.Machine.execOnes d a p s
  | .rvb d a p => Sys2Proof.Machine.execRvb d a p s
  | .bxt d a p b q => Sys2Proof.Machine.execBxt d a p b q s
  | .bdp d a p b q => Sys2Proof.Machine.execBdp d a p b q s
  | .sel d a p b q => Sys2Proof.Machine.execSel d a p b q s
  | .cmpeq d a p b q => Sys2Proof.Machine.execCmpeq d a p b q s
  | .cmpne d a p b q => Sys2Proof.Machine.execCmpne d a p b q s
  | .cmplt d a p b q => Sys2Proof.Machine.execCmplt d a p b q s
  | .cmple d a p b q => Sys2Proof.Machine.execCmple d a p b q s
  | .mov d a p => Sys2Proof.Machine.execMov d a p s
  | .add64 d a p b q => Sys2Proof.Machine.execAdd64 d a p b q s
  | .lea d a p b q => Sys2Proof.Machine.execLea d a p b q s
  | .sxt d a p b q => Sys2Proof.Machine.execSxt d a p b q s
  | .zxt d a p b q => Sys2Proof.Machine.execZxt d a p b q s
  | .fadd d a p b q => Sys2Proof.Machine.execFadd d a p b q s
  | .fsub d a p b q => Sys2Proof.Machine.execFsub d a p b q s
  | .fmul d a p b q => Sys2Proof.Machine.execFmul d a p b q s
  | .ffma d a p b q => Sys2Proof.Machine.execFfma d a p b q s
  | .ffms d a p b q => Sys2Proof.Machine.execFfms d a p b q s
  | .fmin d a p b q => Sys2Proof.Machine.execFmin d a p b q s
  | .fmax d a p b q => Sys2Proof.Machine.execFmax d a p b q s
  | .fabs d a p => Sys2Proof.Machine.execFabs d a p s
  | .fneg d a p => Sys2Proof.Machine.execFneg d a p s
  | .fcmpeq d a p b q => Sys2Proof.Machine.execFcmpeq d a p b q s
  | .fcmplt d a p b q => Sys2Proof.Machine.execFcmplt d a p b q s
  | .fcmple d a p b q => Sys2Proof.Machine.execFcmple d a p b q s
  | .fcmpun d a p b q => Sys2Proof.Machine.execFcmpun d a p b q s
  | .fcls d a p => Sys2Proof.Machine.execFcls d a p s
  | .fcvt d a p => Sys2Proof.Machine.execFcvt d a p s
  | .fcvti d a p => Sys2Proof.Machine.execFcvti d a p s
  | .fcvtf d a p => Sys2Proof.Machine.execFcvtf d a p s
  | .frnd d a p => Sys2Proof.Machine.execFrnd d a p s
  | .fscl d a p b q => Sys2Proof.Machine.execFscl d a p b q s
  | .frcp d a p => Sys2Proof.Machine.execFrcp d a p s
  | .frsq d a p => Sys2Proof.Machine.execFrsq d a p s
  | .fsqrt d a p => Sys2Proof.Machine.execFsqrt d a p s
  | .fex2 d a p => Sys2Proof.Machine.execFex2 d a p s
  | .flg2 d a p => Sys2Proof.Machine.execFlg2 d a p s
  | .fsin d a p => Sys2Proof.Machine.execFsin d a p s
  | .fcos d a p => Sys2Proof.Machine.execFcos d a p s
  | .zmul d a p b q => Sys2Proof.Machine.execZmul d a p b q s
  | .zfma d a p b q => Sys2Proof.Machine.execZfma d a p b q s
  | .zcnj d a p => Sys2Proof.Machine.execZcnj d a p s
  | .srnd d a p b q => Sys2Proof.Machine.execSrnd d a p b q s
  | .mxscl d a p b q => Sys2Proof.Machine.execMxscl d a p b q s
  | .mxpak d a p b q => Sys2Proof.Machine.execMxpak d a p b q s
  | .mxunp d a p b q => Sys2Proof.Machine.execMxunp d a p b q s
  | .lperm d a p b q => Sys2Proof.Machine.execLperm d a p b q s
  | .lqAny d a p => Sys2Proof.Machine.execLqAny d a p s
  | .lqAll d a p => Sys2Proof.Machine.execLqAll d a p s
  | .lqSet d a p => Sys2Proof.Machine.execLqSet d a p s
  | .gredAdd d a p => Sys2Proof.Machine.execGredAdd d a p s
  | .gredMin d a p => Sys2Proof.Machine.execGredMin d a p s
  | .gredMax d a p => Sys2Proof.Machine.execGredMax d a p s
  | .gredAnd d a p => Sys2Proof.Machine.execGredAnd d a p s
  | .gredOr d a p => Sys2Proof.Machine.execGredOr d a p s
  | .gredXor d a p => Sys2Proof.Machine.execGredXor d a p s
  | .gscanAdd d a p => Sys2Proof.Machine.execGscanAdd d a p s
  | .gscanMax d a p => Sys2Proof.Machine.execGscanMax d a p s
  | .isect d a p l => Sys2Proof.Machine.execIsect d a p l s
  | .topk d a p l x => Sys2Proof.Machine.execTopk d a p l x s
  | .dgrp d a p l x => Sys2Proof.Machine.execDgrp d a p l x s
  | .prune d a p l => Sys2Proof.Machine.execPrune d a p l s
  | .ld d a p l h w => Sys2Proof.Machine.execLd d a p l h w s
  | .st d a p l h w => Sys2Proof.Machine.execSt d a p l h w s
  | .ldc d a p l h w => Sys2Proof.Machine.execLdc d a p l h w s
  | .stm d a p l e => Sys2Proof.Machine.execStm d a p l e s
  | .lds d a p l w => Sys2Proof.Machine.execLds d a p l w s
  | .sts d a p l w => Sys2Proof.Machine.execSts d a p l w s
  | .ldsp d a p l o w => Sys2Proof.Machine.execLdsp d a p l o w s
  | .ldspFillLanding core bslot k => Sys2Proof.Machine.execLdspFillLanding core bslot k s
  | .pref a p l x => Sys2Proof.Machine.execPref a p l x s
  | .ldacq d a p l sl w => Sys2Proof.Machine.execLdacq d a p l sl w s
  | .strel d a p l sl w => Sys2Proof.Machine.execStrel d a p l sl w s
  | .lr d a p l sl w => Sys2Proof.Machine.execLr d a p l sl w s
  | .sc d a p l sl w => Sys2Proof.Machine.execSc d a p l sl w s
  | .atomAdd d a p l sl w => Sys2Proof.Machine.execAtomAdd d a p l sl w s
  | .atomSub d a p l sl w => Sys2Proof.Machine.execAtomSub d a p l sl w s
  | .atomMin d a p l sl w => Sys2Proof.Machine.execAtomMin d a p l sl w s
  | .atomMax d a p l sl w => Sys2Proof.Machine.execAtomMax d a p l sl w s
  | .atomAnd d a p l sl w => Sys2Proof.Machine.execAtomAnd d a p l sl w s
  | .atomOr d a p l sl w => Sys2Proof.Machine.execAtomOr d a p l sl w s
  | .atomXor d a p l sl w => Sys2Proof.Machine.execAtomXor d a p l sl w s
  | .atomXchg d a p l sl w => Sys2Proof.Machine.execAtomXchg d a p l sl w s
  | .atomCas d a p l sl w => Sys2Proof.Machine.execAtomCas d a p l sl w s
  | .atomWinc d a p l sl w => Sys2Proof.Machine.execAtomWinc d a p l sl w s
  | .atomFadd d a p l sl w => Sys2Proof.Machine.execAtomFadd d a p l sl w s
  | .redAdd d a p l w => Sys2Proof.Machine.execRedAdd d a p l w s
  | .redMin d a p l w => Sys2Proof.Machine.execRedMin d a p l w s
  | .redMax d a p l w => Sys2Proof.Machine.execRedMax d a p l w s
  | .redAnd d a p l w => Sys2Proof.Machine.execRedAnd d a p l w s
  | .redOr d a p l w => Sys2Proof.Machine.execRedOr d a p l w s
  | .redXor d a p l w => Sys2Proof.Machine.execRedXor d a p l w s
  | .redFadd d a p l w => Sys2Proof.Machine.execRedFadd d a p l w s
  | .redApply k => Sys2Proof.Machine.execRedApply k s
  | .pushm d a l => Sys2Proof.Machine.execPushm d a l s
  | .popm d a l => Sys2Proof.Machine.execPopm d a l s
  | .fence l sl => Sys2Proof.Machine.execFence l sl s
  | .fenceComplete core slot spl => Sys2Proof.Machine.execFenceComplete core slot spl s
  | .bind d a p l => Sys2Proof.Machine.execBind d a p l s
  | .unbind d a p l => Sys2Proof.Machine.execUnbind d a p l s
  | .acq d a p l sl => Sys2Proof.Machine.execAcq d a p l sl s
  | .rel a p l sl => Sys2Proof.Machine.execRel a p l sl s
  | .cln d a p l => Sys2Proof.Machine.execCln d a p l s
  | .inv d a p l x => Sys2Proof.Machine.execInv d a p l x s
  | .bankCm a p l => Sys2Proof.Machine.execBankCm a p l s
  | .bankSm a p l => Sys2Proof.Machine.execBankSm a p l s
  | .resv d a p l => Sys2Proof.Machine.execResv d a p l s
  | .resvRd d a p l => Sys2Proof.Machine.execResvRd d a p l s
  | .resvFree d a p l => Sys2Proof.Machine.execResvFree d a p l s
  | .mma n m k l => Sys2Proof.Machine.execMma n m k l s
  | .mmas n m k x sl l => Sys2Proof.Machine.execMmas n m k x sl l s
  | .matrixSlotTaken core bslot k => Sys2Proof.Machine.execMatrixSlotTaken core bslot k s
  | .matrixCompletion core bslot k => Sys2Proof.Machine.execMatrixCompletion core bslot k s
  | .accRd d a p l x => Sys2Proof.Machine.execAccRd d a p l x s
  | .accWr d a p l x => Sys2Proof.Machine.execAccWr d a p l x s
  | .accClr a p l x => Sys2Proof.Machine.execAccClr a p l x s
  | .desc n m k x l => Sys2Proof.Machine.execDesc n m k x l s
  | .copy d a p l => Sys2Proof.Machine.execCopy d a p l s
  | .copyx d a p l => Sys2Proof.Machine.execCopyx d a p l s
  | .gath d a p l => Sys2Proof.Machine.execGath d a p l s
  | .coll d a p l => Sys2Proof.Machine.execColl d a p l s
  | .qfence d a p l => Sys2Proof.Machine.execQfence d a p l s
  | .linearCopy die qn => Sys2Proof.Machine.execLinearCopy die qn s
  | .stridedCopy die qn => Sys2Proof.Machine.execStridedCopy die qn s
  | .indexedGather die qn => Sys2Proof.Machine.execIndexedGather die qn s
  | .collectiveInstance qn ident => Sys2Proof.Machine.execCollectiveInstance qn ident s
  | .joinOfQueues die qn => Sys2Proof.Machine.execJoinOfQueues die qn s
  | .cqSeq d a p l x => Sys2Proof.Machine.execCqSeq d a p l x s
  | .futWait d a p l => Sys2Proof.Machine.execFutWait d a p l s
  | .futTest d a p l => Sys2Proof.Machine.execFutTest d a p l s
  | .futCncl d a p l => Sys2Proof.Machine.execFutCncl d a p l s
  | .futMov d a p l => Sys2Proof.Machine.execFutMov d a p l s
  | .task d a p l => Sys2Proof.Machine.execTask d a p l s
  | .bar b => Sys2Proof.Machine.execBar b s
  | .barArr b => Sys2Proof.Machine.execBarArr b s
  | .barWt b => Sys2Proof.Machine.execBarWt b s
  | .spanbar => Sys2Proof.Machine.execSpanbar s
  | .boInit d a p l o => Sys2Proof.Machine.execBoInit d a p l o s
  | .boArr d l o => Sys2Proof.Machine.execBoArr d l o s
  | .boWt d a p l o => Sys2Proof.Machine.execBoWt d a p l o s
  | .tryOpen c o => Sys2Proof.Machine.execTryOpen c o s
  | .trylOpen c o => Sys2Proof.Machine.execTrylOpen c o s
  | .commit d => Sys2Proof.Machine.execCommit d s
  | .abort e => Sys2Proof.Machine.execAbort e s
  | .tabl a p => Sys2Proof.Machine.execTabl a p s
  | .tstat d => Sys2Proof.Machine.execTstat d s
  | .tryAbort core slot => Sys2Proof.Machine.execTryAbort core slot s
  | .priorityHoldExpiry core slot => Sys2Proof.Machine.execPriorityHoldExpiry core slot s
  | .tfence => Sys2Proof.Machine.execTfence s
  | .trap n => Sys2Proof.Machine.execTrap n s
  | .brk n => Sys2Proof.Machine.execBrk n s
  | .phint o => Sys2Proof.Machine.execPhint o s
  | .sysRd d sl => Sys2Proof.Machine.execSysRd d sl s
  | .sysWr d sl => Sys2Proof.Machine.execSysWr d sl s
  | .clk d f => Sys2Proof.Machine.execClk d f s
  | .grn d f => Sys2Proof.Machine.execGrn d f s
  | .rte => Sys2Proof.Machine.execRte s
  | .tlbinv d a p l x => Sys2Proof.Machine.execTlbinv d a p l x s
  | .tlbinvAck die holder asid lo pages => Sys2Proof.Machine.execTlbinvAck die holder asid lo pages s
  | .genBump d a p l => Sys2Proof.Machine.execGenBump d a p l s
  | .genBumpComplete asid => Sys2Proof.Machine.execGenBumpComplete asid s
  | .homeAccess k => Sys2Proof.Machine.execHomeAccess k s
  | .requestReplay k => Sys2Proof.Machine.execRequestReplay k s
  | .reservationProtectionExpiry granule => Sys2Proof.Machine.execReservationProtectionExpiry granule s
  | .trapDelivery core slot => Sys2Proof.Machine.execTrapDelivery core slot s
  | .preemptDeadline asid => Sys2Proof.Machine.execPreemptDeadline asid s
  | .launchRecordTake => Sys2Proof.Machine.execLaunchRecordTake s
  | .blockClaim ck die grid => Sys2Proof.Machine.execBlockClaim ck die grid s
  | .stealRequest die grid => Sys2Proof.Machine.execStealRequest die grid s
  | .firkinFill core bslot => Sys2Proof.Machine.execFirkinFill core bslot s
  | .blockEnd core bslot => Sys2Proof.Machine.execBlockEnd core bslot s
  | .tunAccept => Sys2Proof.Machine.execTunAccept s
  | .taskDispatch => Sys2Proof.Machine.execTaskDispatch s
  | .groupWaitLimit core slot => Sys2Proof.Machine.execGroupWaitLimit core slot s
  | .removalStage asid => Sys2Proof.Machine.execRemovalStage asid s
  | .hostMemAccess vf hpa write data => Sys2Proof.Machine.execHostMemAccess vf hpa write data s
  | .peerRequest handle off kind n data => Sys2Proof.Machine.execPeerRequest handle off kind n data s
  | .watchdogExpiry grid => Sys2Proof.Machine.execWatchdogExpiry grid s
  | .contextRemoval asid cause => Sys2Proof.Machine.execContextRemoval asid cause s
  | .removalEscalation asid => Sys2Proof.Machine.execRemovalEscalation asid s
  | .accountingTick eH eL links vfs bytes => Sys2Proof.Machine.execAccountingTick eH eL links vfs bytes s
  | .bankScrub core bank => Sys2Proof.Machine.execBankScrub core bank s
  | .l2Scrub line => Sys2Proof.Machine.execL2Scrub line s
  | .hbmPatrolScrub line => Sys2Proof.Machine.execHbmPatrolScrub line s
  | .rowSparing row => Sys2Proof.Machine.execRowSparing row s
  | .powerSample meanWatts hottest coolest under10ms => Sys2Proof.Machine.execPowerSample meanWatts hottest coolest under10ms s
  | .temperatureCapping die temp => Sys2Proof.Machine.execTemperatureCapping die temp s
  | .thermtrip die => Sys2Proof.Machine.execThermtrip die s
  | .thermal reason value => Sys2Proof.Machine.execThermal reason value s
  | .coldReset => Sys2Proof.Machine.execColdReset s
  | .ucieModuleFailure m => Sys2Proof.Machine.execUcieModuleFailure m s
  | .flitReceive port hdr rest => Sys2Proof.Machine.execFlitReceive port hdr rest s
  | .nak port ack => Sys2Proof.Machine.execNak port ack s
  | .portRetrain port ok => Sys2Proof.Machine.execPortRetrain port ok s
  | .linkSleep link => Sys2Proof.Machine.execLinkSleep link s
  | .linkWake link => Sys2Proof.Machine.execLinkWake link s
  | .wakeComplete link ok => Sys2Proof.Machine.execWakeComplete link ok s
  | .snoop link line => Sys2Proof.Machine.execSnoop link line s
  | .deadDieTimer link => Sys2Proof.Machine.execDeadDieTimer link s
  | .queueDoorbell vf q tail => Sys2Proof.Machine.execQueueDoorbell vf q tail s
  | .registerWrite fn off data => Sys2Proof.Machine.execRegisterWrite fn off data s
  | .managementNotice kind index job => Sys2Proof.Machine.execManagementNotice kind index job s
  | .reset fn => Sys2Proof.Machine.execReset fn s
  | .diereset fn => Sys2Proof.Machine.execDiereset fn s
  | .fwwrite fn => Sys2Proof.Machine.execFwwrite fn s
  | .fwswitch fn => Sys2Proof.Machine.execFwswitch fn s
  | .partset fn => Sys2Proof.Machine.execPartset fn s
  | .granset fn => Sys2Proof.Machine.execGranset fn s
  | .vfset fn => Sys2Proof.Machine.execVfset fn s
  | .fallback fn => Sys2Proof.Machine.execFallback fn s
  | .powercap fn => Sys2Proof.Machine.execPowercap fn s
  | .dieoff fn => Sys2Proof.Machine.execDieoff fn s
  | .dieon fn => Sys2Proof.Machine.execDieon fn s
  | .recal fn => Sys2Proof.Machine.execRecal fn s
  | .exportRange fn => Sys2Proof.Machine.execExportRange fn s
  | .importHandle fn => Sys2Proof.Machine.execImportHandle fn s
  | .unimport fn => Sys2Proof.Machine.execUnimport fn s
  | .revoke fn => Sys2Proof.Machine.execRevoke fn s
  | .keyload fn => Sys2Proof.Machine.execKeyload fn s
  | .keyerase fn => Sys2Proof.Machine.execKeyerase fn s
  | .attest fn => Sys2Proof.Machine.execAttest fn s
  | .preempt fn => Sys2Proof.Machine.execPreempt fn s
  | .restore fn => Sys2Proof.Machine.execRestore fn s
  | .remove fn => Sys2Proof.Machine.execRemove fn s
  | .census fn => Sys2Proof.Machine.execCensus fn s
  | .badcmd fn => Sys2Proof.Machine.execBadcmd fn s
  | .linkTrainingDone link ok => Sys2Proof.Machine.execLinkTrainingDone link ok s
  | .bankSenseTrimStep core bank code => Sys2Proof.Machine.execBankSenseTrimStep core bank code s
  | .linkEqualisation port lane main pre post margin => Sys2Proof.Machine.execLinkEqualisation port lane main pre post margin s

end Sys2Proof.Machine
end

