-- ==== Sys2Proof/Machine/Fetch.lean ====
section
/-! DEFINITION. Fetching the word at a split's pc and issuing it (03_encoding.md R47-R49, R53; 02_execution_model.md
R31; 17_recovery.md R377). -/

namespace Sys2Proof.Machine

/-- The L1 instruction-cache copy of a line on a core (R48). -/
def State.l1iLine (s : State) (core line : Nat) : Option (List Byte) :=
  (s.mem.l1i.find? fun c => c.core == core && c.line == line).map (·.bytes)

/-- The state whose core holds a line in its L1 instruction cache, and the line's bytes there (R48). -/
def State.fillL1i (s : State) (asid core line cp : Nat) : State × List Byte :=
  match s.l1iLine core line with
  | some bs => (s, bs)
  | none =>
    let bs := (List.range 64).map fun j => s.readAt asid (64 * line + j, cp)
    let t := s.recall [line]
    ({ t with mem := { t.mem with l1i := ⟨core, line, bs, false⟩ :: t.mem.l1i } }, bs)

/-- The four bytes from position `o` of a line. -/
def lineWord (bs : List Byte) (o : Nat) : Word :=
  wordOfBytes (bs.getD o 0) (bs.getD (o + 1) 0) (bs.getD (o + 2) 0) (bs.getD (o + 3) 0)

/-- The quadrant of the issuing group (R299). -/
def State.quadrant (s : State) : Nat := s.grp.slot % 4

/-- Is the fetch of the issuing split one with that of another quadrant, at the same pc in the same clk (R301)? In which clk
either issues is open. -/
def State.fused (s : State) : Bool :=
  (s.cores.shared.any fun e => e.core == s.blk.core && e.slot == s.grp.slot && e.spl == s.cur && e.pc == s.spl.pc) &&
    Config.choice s.tick (2 ^ 22)

/-- The splits of the block, in other quadrants, that can be of one set with a fetch of the issuing split: ready, at its pc
(R301). -/
def State.fusible (s : State) : List Shared :=
  (s.wholeBlk.groups.filter fun g => !g.ended && g.slot % 4 != s.quadrant).flatMap fun g =>
    ((List.range 4).filter fun k => (g.splitAt k).st == .live && (g.splitAt k).wait.isNone && (g.splitAt k).pc == s.spl.pc).map
      fun k => ⟨s.blk.core, s.quadrant, g.slot, k, s.spl.pc⟩

/-- A fetch counted for the core (R301, R395), once for an instruction that waits and once for a fused set. As a quadrant
issues, its other members leave their sets, and the clk of the set that it led is over. -/
def State.countFetch (s : State) : State :=
  if s.spl.wait.isSome then s
  else
    let c := s.blk.core
    let n := sget 0 s.cores.fetches c + if s.fused then 0 else 1
    let kept := s.cores.shared.filter fun e => !(e.core == c && (e.leader == s.quadrant || e.slot % 4 == s.quadrant))
    { s with cores := { s.cores with
      fetches := sset 0 s.cores.fetches c n
      shared := kept ++ if s.fused then [] else s.fusible } }

/-- The place outside its core that the issuing split's fetch goes to, where it does (R48). -/
def State.fetchWay (s : State) : List Nat :=
  match s.check s.me s.blk.asid s.spl.pc.toNat 4 .fetch s.inHandler with
  | .mem ps =>
    let pa := (ps.headD (0, 0)).1
    if s.spl.pc.toNat % 4 != 0 || (s.l1iLine s.blk.core (pa / 64)).isSome then [] else [pa]
  | _ => []

/-- The fetch at the issuing split's pc (R31, R48, R49): the word, or the trap it raises. -/
def State.fetch (s : State) : State × Except TrapInfo Word :=
  let pc := s.spl.pc.toNat
  let trap := fun (code : Nat) => ({ code := code, fva := BitVec.ofNat 64 pc } : TrapInfo)
  if pc % 4 != 0 then (s, .error (trap tALIGN))
  else
    match s.check s.me s.blk.asid pc 4 .fetch s.inHandler with
    | .spad _ => (s, .error (trap tPAGE))
    | .fault code _ _ denied str =>
      (if denied then s.noteDenial pc else s, .error { trap code with str := str % 256, port := str / 256 })
    | .mem ps =>
      let pa := ps.headD (0, 0)
      let line := pa.1 / 64
      let t := s.fillTlb s.me s.blk.asid pc
      match (if (t.l1iLine s.blk.core line).isSome then none else s.unreadable s.blk.asid pa) with
      | some str => (t, .error { trap tECC with str := str })
      | none =>
        let (u, bs) := (t.countFetch.sendFlits s.blk.asid s.fetchWay).fillL1i s.blk.asid s.blk.core line pa.2
        (u, .ok (lineWord bs (pa.1 % 64)))

/-- May the fetch of the issuing split be made now (R371, R374)? -/
def State.mayFetch (s : State) : Bool := s.fetchWay.all (s.wayOpen s.blk.asid s.blk.core)

/-- The issuing split waiting for the links that its fetch wakes (R374). -/
def State.wakeFetch (s : State) : State :=
  ((s.fetchWay.foldl (fun (t : State) pa => t.wakeWay s.blk.asid s.blk.core pa) s.countFetch).pass (dieOf s.blk.core)).waitFor .held

/-- A fetch that fails: its trap waits as every other one does (R59, R209), and then is taken with nothing listed. The fetch is
charged (R350). -/
def State.failFetch (s0 s : State) (t : TrapInfo) : State :=
  s0.trapWhenQuiet ((s.landFlags.trapFetch t).chargeTraffic s0.blk.asid (dieOf s0.blk.core))

/-- The issuing split's next instruction: fetched, decoded and performed; a word that is no instruction raises ILLEGAL
(R47, R49, R53). -/
def State.issue (s : State) : Host.Outcome State Fault Refusal :=
  if !s.mayFetch then .next s.wakeFetch
  else
  match s.fetch with
  | (t, .error e) => .next (s.failFetch t e)
  | (t, .ok w) =>
    match decode w with
    | .ok i => exec i t
    | .error _ => .next (t.settle .nop (trapCode t tILLEGAL))

/-! ## A word placed where the next step fetches -/

/-- The state with an issuing split: that of the state, or split 0 of a group of its own in an empty block. -/
def State.withIssuer (s : State) : State :=
  let s1 := if s.issuing then s
    else
      let b : Block := { s.blk with record := List.replicate 32 0, started := true }
      let g : Group := { s.grp with splits := sset {} [] 0 { st := .live, dm := 0xFFFFFFFF, em := 0xFFFFFFFF, pc := s.spl.pc },
                                    ended := false }
      { s with blk := b, grp := g, cur := 0 }
  let p := s1.spl
  s1.setSpl { p with pc := if p.pc.toNat % 4 = 0 && p.pc.toNat < aliasBase then p.pc else 0 }

/-- The state in which the firewalls and the key of the issuing address space let its core read granule 0 (R339-R346). -/
def State.withRights (s : State) : State :=
  let asid := s.blk.asid
  let vf := s.vfOf asid
  let p := s.partOf vf
  let slot := s.keyOf asid
  let core := s.blk.core
  let set := fun (m : Sparse DWord) (w : Nat) (f : DWord → DWord) => sset 0 m (6 * p + w) (f (sget 0 m (6 * p + w)))
  let m1 := set s.iso.partition 5 (setBits · 0 0 1)
  let m2 := if isNear core then set m1 (2 + (core - 512) / 64) (setBits · ((core - 512) % 64) ((core - 512) % 64) 1)
    else set m1 0 (setBits · (32 + core / 16) (32 + core / 16) 1)
  let m3 := set m2 4 fun x => setBits (setBits x 11 0 slot) 27 16 1
  { s with
    iso := { s.iso with
      partition := m3
      granule := sset 0 s.iso.granule 0 (BitVec.ofNat 8 (128 + p))
      space := sset 0 s.iso.space (2 * asid + 1) (setBits (s.spaceWord asid 1) 0 0 1)
      key := sset 0 s.iso.key slot (setBits (setBits (sget 0 s.iso.key slot) 63 62 1) 5 0 p) } }

/-- The word at the issuing split's pc, in frame 0 of the memory, with its page's translation held by the core. -/
def State.withWordAt (s : State) (w : Word) : State :=
  let asid := s.blk.asid
  let pc := s.spl.pc.toNat
  let pa := pc % 4096
  let bs := (List.range 4).map fun j => (pa + j, (bytesOfWord w).getD j 0)
  { s with
    mem := { s.mem with
      bytes := bs.foldl (fun m x => sset 0 m x.1 x.2) s.mem.bytes
      lineKey := sset 0 s.mem.lineKey (pa / 64) (s.keyMark asid)
      past := bs.foldl (fun m x => serase m x.1) s.mem.past
      l1i := s.mem.l1i.filter fun c => c.line != pa / 64
      upsets := s.mem.upsets.filter fun u => !((u.1 == 6 || u.1 == 7) && u.2.1 == pa / 64)
      tlb := ⟨s.blk.core, asid, pc / 4096, 0, 0xF, s.gen asid⟩ :: s.mem.tlb } }

/-- The state with a host module up, without which nothing runs (R359). -/
def State.withHost (s : State) : State := if s.hostUp then s else s.setLink 56 2

/-- What `State.withFetchWord` places (log entry 31). -/
def State.placeWord (s : State) (w : Word) : State :=
  { (s.withIssuer.withRights.withWordAt w).withHost with agenda := [], turn := true }

end Sys2Proof.Machine
end

