-- ==== Sys2Proof/Machine/Schedule.lean ====
section
/-! DEFINITION. What comes next: the choice of a split in a quadrant, and the moves that the device's own agents can make
(12_progress_scheduling.md R299, R300; 14_progress_rules.md R326, R327). Where the spec orders nothing, a free value
chooses (log entry 5). -/

namespace Sys2Proof.Machine

/-- A possible continuation of the machine. -/
abbrev Choice := State → Host.Outcome State Fault Refusal

/-- A split by core, group slot and split index. -/
structure SplitAt where
  core : Nat
  slot : Nat
  spl : Nat
deriving DecidableEq, Repr

/-- The quadrant of a split on its core (R299). -/
def SplitAt.quadrant (x : SplitAt) : Nat := 4 * x.core + x.slot % 4

/-! ## Ready splits (R299) -/

/-- Has a trap of a split of a group been found (R377, R378)? -/
def Group.faulted (g : Group) : Bool := (List.range 4).any fun k => (g.splitAt k).pending.any (!·.late)

/-- May a group issue at all: its block started, neither saved nor being removed, no trap of it pending (R299, R377)? -/
def State.groupLive (s : State) (b : Block) (g : Group) : Bool :=
  b.started && !g.ended && g.saved.isNone && !(s.mgmt.removing.any (·.1 == b.asid)) &&
    (g.handler.isSome || g.trapping.isSome || !g.faulted)

/-- The splits of a group that may issue: none with a trap of its own pending, in handler mode only the one that is served,
and while the trap of one waits for the others to finish only that one (R60, R377). -/
def State.liveOf (s : State) (b : Block) (g : Group) : List Nat :=
  if s.groupLive b g then
    (List.range 4).filter fun k => (g.splitAt k).st == .live && (g.splitAt k).pending.isEmpty && (match g.handler.or g.trapping with
      | some h => h == k
      | none => true)
  else []

/-- Every split that is not held for a reason of its group, with its block, group and split. -/
def State.liveSplits (s : State) : List (SplitAt × Block × Group × Split) :=
  s.allGroups.flatMap fun bg => (s.liveOf bg.1 bg.2).map fun k => (⟨bg.1.core, bg.2.slot, k⟩, bg.1, bg.2, bg.2.splitAt k)

/-- Is a `yield` of a split still running (R312)? -/
def State.yielding (s : State) (core : Nat) (p : Split) : Bool :=
  match p.wait with
  | some (.clk, _) => s.clkOf (dieOf core) < p.yieldUntil
  | _ => false

/-- What becomes of the machine if a split issues now. -/
def State.issueAt (s : State) (x : SplitAt) : Option State :=
  match s.focus x.core x.slot x.spl with
  | none => none
  | some t =>
    match t.issue with
    | .next u => some u
    | _ => none

/-- Can a split's next instruction issue: does time pass when it is tried (R299)? One that waits leaves the clock alone. -/
def State.canIssue (s : State) (x : SplitAt) : Bool :=
  match s.issueAt x with
  | some u => u.tick != s.tick
  | none => false

/-- Has a split come to wait without the state saying so yet: for something else than it says, or again, so that its run
or its wait count is over (R300, R326)? -/
def State.newlyBlocked (s : State) (x : SplitAt) (p : Split) : Bool :=
  match s.issueAt x with
  | some u => u.tick == s.tick && ((u.spl.wait.map (·.1)) != (p.wait.map (·.1)) || p.run != 0 || p.waitCount != 0)
  | none => false

/-! ## The choice of a quadrant (R300, R326, R327) -/

/-- A ready split with what the choice looks at. -/
structure Ready where
  at_ : SplitAt
  order : Nat
  run : Nat
  waitCount : Nat
  /-- Has one of its active lanes a live LR reservation (R327)? -/
  reserved : Bool
deriving DecidableEq, Repr

/-- The lanes of a split's effective mask (R25). -/
def Group.effective (g : Group) (k : Nat) : Word :=
  let p := g.splitAt k
  if gmGE p.gm then p.em &&& g.reg (gmGR p.gm) (lowLane p.dm) else p.em

/-- Has an active lane of a split a live reservation (R327)? -/
def Group.reserves (g : Group) (k : Nat) : Bool := g.lr.any fun r => (g.effective k).getLsbD r.1

/-- The wait count with which a split competes: at least 128 where its group has waited too long (R326). -/
def Split.waited (p : Split) : Nat := if p.urged then max 128 p.waitCount else p.waitCount

/-- The ready splits of the machine (R299). -/
def State.readySplits (s : State) : List Ready :=
  (s.liveSplits.filter fun x => !s.yielding x.1.core x.2.2.2 && s.canIssue x.1).map fun x =>
    ⟨x.1, x.2.1.order, x.2.2.2.run, x.2.2.2.waited, x.2.2.1.reserves x.1.spl⟩

/-- Is `a` before `b`: its group admitted earlier, or its split index lower (R300)? Groups of one block are admitted in
ascending index, on ascending slots. -/
def Ready.before (a b : Ready) : Bool :=
  a.order < b.order || (a.order = b.order && (a.at_.slot < b.at_.slot || (a.at_.slot = b.at_.slot && a.at_.spl < b.at_.spl)))

/-- The first of a list by an order. -/
def bestBy (better : Ready → Ready → Bool) : List Ready → Option Ready
  | [] => none
  | a :: rest =>
    match bestBy better rest with
    | none => some a
    | some b => if better b a then some b else some a

/-- The split that a quadrant issues from among its ready ones (R300, R327). -/
def chooseReady (rs : List Ready) : Option Ready :=
  match rs.find? fun r => 64 ≤ r.run && r.run < 128 && r.reserved with
  | some r => some r
  | none =>
    match bestBy (fun a b => b.waitCount < a.waitCount || (a.waitCount = b.waitCount && a.before b))
        (rs.filter fun r => 128 ≤ r.waitCount) with
    | some r => some r
    | none =>
      let fresh := rs.filter (·.run < 64)
      bestBy Ready.before (if fresh.isEmpty then rs else fresh)

/-- The counts of a split of the quadrant after its clk (R300, R326): the run of a split that was passed over and is
chosen as the only ready one restarts, that of a deferred switch goes on (R327). Where issue is held to one clk in two, each
run is of one (R406). -/
def Split.count (p : Split) (chosen ready reserved held : Bool) : Split :=
  if chosen then
    { p with run := if held then 1 else if p.run < 64 || (p.run < 128 && reserved) then p.run + 1 else 1, waitCount := 0, urged := false }
  else { p with run := 0, waitCount := if ready then p.waitCount + 1 else 0 }

/-- The counts of a group of the quadrant after its clk, and what its wait count brings at 1,024 (R326). -/
def Group.count (held : List Nat) (core q : Nat) (chosen : Option SplitAt) (ready : List SplitAt) (g : Group) : Group :=
  if 4 * core + g.slot % 4 != q then g
  else
    let here := fun (k : Nat) => (⟨core, g.slot, k⟩ : SplitAt)
    let splits := g.liveSplits.foldl (fun m k => sset {} m k
      ((g.splitAt k).count (chosen == some (here k)) (ready.contains (here k)) (g.reserves k) (held.contains core))) g.splits
    let mine := ready.any fun x => x.core == core && x.slot == g.slot
    let issued := chosen.any fun x => x.core == core && x.slot == g.slot
    { g with splits := splits, waitCount := if mine && !issued then g.waitCount + 1 else 0 }.urge

/-- The counts of every group of quadrant `q` after a clk in which it has chosen a split, or none where issue is held. -/
def State.countClk (s : State) (q : Nat) (chosen : Option SplitAt) (ready : List SplitAt) : State :=
  { s with
    grp := Group.count s.mgmt.throttled s.blk.core q chosen ready s.grp
    blk := s.blk.mapGroups (Group.count s.mgmt.throttled s.blk.core q chosen ready)
    blocks := s.blocks.map fun b => b.mapGroups (Group.count s.mgmt.throttled b.core q chosen ready) }

/-- Whether the capping loop has held the clk of a quadrant noted (R406). -/
def State.notePause (s : State) (q : Nat) (held : Bool) : State :=
  let rest := s.cores.paused.filter (· != q)
  { s with cores := { s.cores with paused := if held then q :: rest else rest } }

/-- One clk of a quadrant: the counts, then the chosen split's instruction. -/
def issueSplit (x : SplitAt) (ready : List SplitAt) : Choice := fun s =>
  match ((s.countClk x.quadrant (some x) ready).notePause x.quadrant false).focus x.core x.slot x.spl with
  | none => move s
  | some t => t.issue

/-- One clk of a quadrant on which the capping loop holds issue: its ready splits wait (R326, R406). -/
def heldClk (q : Nat) (ready : List SplitAt) : Choice := fun s =>
  .next (((s.countClk q none ready).notePause q true).pass (dieOf (q / 4)))

/-- The quadrants that can issue, each with its choice; where the capping loop holds issue, in one of its clk in two
(R406). -/
def State.quadrantChoices (s : State) : List Choice :=
  let rs := s.readySplits
  (distinct (rs.map (·.at_.quadrant))).filterMap fun q =>
    let mine := rs.filter (·.at_.quadrant == q)
    if s.mgmt.throttled.contains (q / 4) && !s.cores.paused.contains q then some (heldClk q (mine.map (·.at_)))
    else (chooseReady mine).map fun r => issueSplit r.at_ (mine.map (·.at_))

/-! ## The end of a protection (R333) -/

/-- The granules that a live reservation protects, with it. -/
def State.protections (s : State) : List (Nat × Holder) :=
  (distinct (s.allGroups.flatMap fun bg => bg.2.lr.map (·.2.granule))).filterMap fun g =>
    (oldestOf (s.holders g)).bind fun h => if h.2.isProtected then some (g, h) else none

/-- Has a write come to a line and been held there: a request, a contribution, a word of an engine, or a move of another
agent (R333)? -/
def State.writeWaits (s : State) (line : Nat) : Bool :=
  ((s.mem.requests ++ s.mem.reductions).any fun r => !r.spad && !r.rejected && r.pa / 64 == line) ||
    (s.mem.held.any fun h => h.1.contains line) ||
    s.hub.commands.any fun c => c.run.any fun r => (r.todo.headD []).any fun w => w.1.1 / 64 == line

/-- The requests and contributions that were held on a line performed, oldest first (R202, R333). -/
def State.releaseLine : Nat → State → Nat → State
  | 0, s, _ => s
  | fuel + 1, s, line =>
    let on := fun (l : List Request) => (List.range l.length).find? fun k => (l[k]?).any fun r =>
      !r.spad && !r.rejected && r.pa / 64 == line
    match on s.mem.requests, on s.mem.reductions with
    | some k, _ => State.releaseLine fuel (s.arriveHome k) line
    | none, some k => State.releaseLine fuel (s.applyRed k) line
    | none, none => s

/-- The words of engines that were held on a line performed (R333). -/
def State.releaseWords (s : State) (line : Nat) : State :=
  s.hub.commands.foldl (fun (t : State) c =>
    match c.run with
    | some r =>
      match r.todo with
      | ws :: rest => if ws.any (fun w => w.1.1 / 64 == line) && !ws.any fun w => t.wordRefused c w.1 then
          (t.perform none c.asid 9999 ws).setRun c { r with todo := rest } else t
      | [] => t
    | none => t) s

/-- A protection of a granule has ended: the writes held by it are performed before another reservation protects it, and end
those (R238, R333). Every write under way to the granule counts as one that has come to it. -/
def State.release (s : State) (granule : Nat) : State :=
  if !s.writeWaits granule then s
  else
    let drop := fun (g : Group) => { g with lr := g.lr.filter fun r => r.2.granule != granule }
    let t := { s with grp := drop s.grp }.mapOthers fun _ => drop
    let u := (t.releaseLine (2 * (t.mem.requests.length + t.mem.reductions.length)) granule).releaseWords granule
    let (mine, others) := u.mem.held.partition fun h => h.1.contains granule
    { u with agenda := u.agenda ++ mine.map (·.2), mem := { u.mem with held := others } }

/-- The end of a step from `s0`: for each reservation that protected its granule and does so no longer, be it by its `sc`, by
another `lr` of its lane, at the end of its time, or with a save, an abort, a removal or a `gen.bump`, what it has held is
performed (R238, R333). -/
def State.endHolds (s0 s : State) : State :=
  (s0.protections.filter fun p => !s.protections.contains p).foldl (fun (t : State) p => t.release p.1) s

/-! ## Moves of the device's own agents -/

/-- The move of the command that a function has under way (R362). -/
def commandMove (code fn : Nat) : Choice :=
  match code with
  | 0x01 => execReset fn
  | 0x02 => execDiereset fn
  | 0x03 => execFwwrite fn
  | 0x04 => execFwswitch fn
  | 0x05 => execPartset fn
  | 0x06 => execGranset fn
  | 0x07 => execVfset fn
  | 0x08 => execFallback fn
  | 0x09 => execPowercap fn
  | 0x0A => execDieoff fn
  | 0x0B => execDieon fn
  | 0x0C => execRecal fn
  | 0x10 => execExportRange fn
  | 0x11 => execImportHandle fn
  | 0x12 => execUnimport fn
  | 0x13 => execRevoke fn
  | 0x14 => execKeyload fn
  | 0x15 => execKeyerase fn
  | 0x16 => execAttest fn
  | 0x18 => execPreempt fn
  | 0x19 => execRestore fn
  | 0x1A => execRemove fn
  | 0x1B => execCensus fn
  | _ => execBadcmd fn

/-- The oldest command of the management controller: commands execute one at a time (R408, R409). -/
def State.controllerMoves (s : State) : List Choice :=
  match s.mgmt.running with
  | [] => []
  | c :: _ => if s.cmdBusy c.fn then [commandMove (bits (s.cmdWord c.fn 0) 7 0) c.fn] else []

/-- Requests, contributions, fills, fences and held moves of memory (R189, R192, R199, R209, R235, R325). -/
def State.memoryMoves (s : State) : List Choice :=
  (List.range s.mem.requests.length).map (fun k =>
      if (s.mem.requests[k]?).any (·.rejected) then execRequestReplay k else execHomeAccess k) ++
    (List.range s.mem.reductions.length).map execRedApply ++
    s.allBlocks.flatMap (fun b => (List.range b.fills.length).map (execLdspFillLanding b.core b.bslot)) ++
    s.allGroups.flatMap (fun bg => (bg.2.liveSplits.filter fun k => (bg.2.splitAt k).spec.isSome).map
      (execFenceComplete bg.1.core bg.2.slot)) ++
    (if s.mem.held.isEmpty then [] else [fun s => move s.releaseHeld]) ++
    (distinct (s.mem.requests.flatMap fun r => r.asid :: ((exportOf r.cp).map fun i => exASID (s.exportWord i 0)).toList)).map
      execGenBumpComplete

/-- Copies that caches and translation holders may give up, and lines that L2 may write back, at any time (R48, R182,
R193, R197). -/
def State.cacheMoves (s : State) : List Choice :=
  s.mem.l1.map (fun c s => move (s.dropLines c.core [c.line])) ++
    s.mem.l1i.map (fun c s => move { s with mem := { s.mem with l1i := s.mem.l1i.filter (· != c) } }) ++
    s.mem.tlb.map (fun e s => move { s with mem := { s.mem with tlb := s.mem.tlb.filter (· != e) } }) ++
    s.mem.l2.map (fun e s => move (s.clean (· == e.line))) ++
    s.mem.stale.map fun c s => move (s.dropStale c.1)

/-- Matrix work and the commands of the engines (R155, R259). -/
def State.engineMoves (s : State) : List Choice :=
  s.allBlocks.flatMap (fun b =>
    let ws := b.resvs.flatMap (·.work)
    (List.range ws.length).map fun k =>
      if (ws[k]?).any (·.started) then execMatrixCompletion b.core b.bslot k else execMatrixSlotTaken b.core b.bslot k) ++
    s.hub.commands.map fun c =>
      match c.kind with
      | 0 => execLinearCopy c.die c.qn
      | 1 => execStridedCopy c.die c.qn
      | 2 => execIndexedGather c.die c.qn
      | 3 => execCollectiveInstance (256 * c.die + c.qn) (cIdent c)
      | _ => execJoinOfQueues c.die c.qn

/-- Traps to deliver, regions to abort, and timers of groups (R312, R321, R325, R333, R378). -/
def State.groupMoves (s : State) : List Choice :=
  s.allGroups.flatMap fun bg =>
    let core := bg.1.core
    let slot := bg.2.slot
    (if bg.2.pendCount = 0 || bg.2.trapping.isSome then [] else [execTrapDelivery core slot]) ++
      (if bg.2.region.any (·.doomed.isSome) then [execTryAbort core slot] else []) ++
      (if bg.2.region.any (·.holding) then [execPriorityHoldExpiry core slot] else []) ++
      (bg.2.lr.filter (·.2.isProtected)).map (fun r => execReservationProtectionExpiry r.2.granule) ++
      (bg.2.liveSplits.filter fun k => match (bg.2.splitAt k).wait with
        | some (.clk, _) => true
        | _ => false).map (execYieldExpiry core slot)

/-- Launch, claims, fills, ends, the Tun (R281, R284, R290, R292, R295, R298). -/
def State.launchMoves (s : State) : List Choice :=
  (if s.nextQueue.isSome then [execLaunchRecordTake] else []) ++
    (if s.hub.arriving.isEmpty then [] else [execTunAccept]) ++
    (if s.hub.tasks.any s.taskReady then [execTaskDispatch] else []) ++
    s.hub.grids.flatMap (fun g => (lDies g.record).flatMap fun d =>
      (if lCK g.record then execBlockClaim true (d - 32) g.id else execBlockClaim false d g.id) ::
        (if lSTEAL g.record then [execStealRequest d g.id] else [])) ++
    s.allBlocks.flatMap fun b =>
      (if b.started then [] else [execFirkinFill b.core b.bslot]) ++
        (if s.blockDone b then [execBlockEnd b.core b.bslot] else [])

/-- Saves and removals under way (R384, R391, R392). -/
def State.recoveryMoves (s : State) : List Choice :=
  s.mgmt.preempt.map (fun x => execPreemptDeadline x.1) ++
    s.mgmt.removing.map (fun x => execRemovalStage x.1) ++
    (s.mgmt.removing.filter fun x => !s.stageDrained x.1 x.2.2).map fun x => execRemovalEscalation x.1

/-- What may befall the module: a soft error, or a store of the host or of another module to memory outside the device, at
one instant (R365, R369, R393, R428). -/
def State.outsideMoves (s : State) : List Choice :=
  (match Config.upset s.tick with
    | some u => [fun s => move (s.suffer u)]
    | none => []) ++
  (match Config.outsideStore s.tick with
    | some (a, bs) =>
      if 2 ^ 50 ≤ a && a % 64 + bs.length ≤ 64 && !s.lineHeld none false (a / 64) then
        [fun s => move (s.perform none 0 9999 ((numbered bs).map fun (j, v) => ((a + j, 1), v)))]
      else []
    | none => [])

/-- What the hub and its links come to of themselves: the end of the boot sequence, a sleeping link woken by what waits for it,
a revoked entry freed, lines that the host or another module gives up (R360, R368, R374, R375, R404). -/
def State.hubMoves (s : State) : List Choice :=
  (if s.bootPH = 1 && s.mgmt.running.isEmpty then [fun s => move s.endBoot] else []) ++
    ((List.range 60).filter fun l => s.linkST l == 3 && s.linkBusy l).map execLinkWake ++
    s.revoking.map (fun k s => move (s.endRevoking k)) ++
    s.mem.hostLines.map (fun l s => move { s with mem := { s.mem with hostLines := s.mem.hostLines.filter (· != l) } }) ++
    s.links.copies.map fun c s => move { s with links := { s.links with copies := s.links.copies.filter (· != c) } }

/-- Every continuation that the state itself offers. -/
def State.choices (s : State) : List Choice :=
  s.quadrantChoices ++ s.controllerMoves ++ s.memoryMoves ++ s.cacheMoves ++ s.engineMoves ++ s.groupMoves ++
    s.launchMoves ++ s.recoveryMoves ++ s.hubMoves ++ s.outsideMoves

/-- A split that has come to wait, so that its group counts as stopped where it stands (R384). -/
def State.toSettle (s : State) : Option SplitAt :=
  (s.liveSplits.find? fun x => s.newlyBlocked x.1 x.2.2.2).map (·.1)

/-- The state with a split's wait noted: where no other split of its group is ready, the group's wait count is over
(R326). -/
def State.noteWait (s : State) (x : SplitAt) : State :=
  let u := (s.issueAt x).getD s
  if u.readySplits.any fun r => r.at_.core == x.core && r.at_.slot == x.slot then u
  else { u with grp := { u.grp with waitCount := 0 } }

/-- A move of an agent other than a split: an instruction without a word. -/
def isMove (i : Instr) : Bool := (encode i).isNone

/-- A continuation of the machine's own: a wait noted, or the groups that a request saves at once, or one of the choices, or
only time. -/
def State.proceed (s : State) : Host.Outcome State Fault Refusal :=
  match s.toSettle with
  | some x => .next (s.noteWait x)
  | none =>
    if !s.mgmt.asked.isEmpty then move s.saveAsked
    else
      match s.choices with
      | [] => move s
      | c :: rest => ((c :: rest).getD (Config.schedule s.tick % (rest.length + 1)) c) s

/-- What the machine does of its own, which runs while a host module is up; else time passes (R359; log entry 89). -/
def State.goOn (s : State) : Host.Outcome State Fault Refusal := if s.hostUp then s.proceed else move s

end Sys2Proof.Machine
end

