-- ==== Sys2Proof/Machine/Step.lean ====
section
/-! DEFINITION. One step of the machine, and the placing of a word where the next step fetches. -/

namespace Sys2Proof.Machine

/-- What happens next: the oldest move of the agenda; else the current split's next instruction where it is its turn; else what
arrives from outside; else a continuation of the machine's own. Where no host module is up the device does not run (R359): time
passes, and what arrives from outside is taken. -/
def State.next (s : State) : Host.Outcome State Fault Refusal :=
  match s.agenda with
  | i :: rest =>
    let t := { s with agenda := rest }
    if isMove i then exec i t else move t
  | [] =>
    if s.hostUp && s.turn && s.issuing then s.issue
    else
      match Config.arrival s.tick with
      | some i => if isMove i then exec i s else s.goOn
      | none => s.goOn

/-- One step: what happens next, and what it leaves to be performed of writes that a reservation held (R333). -/
def step (s : State) : Host.Outcome State Fault Refusal :=
  match s.next with
  | .next t => .next (s.endHolds t)
  | r => r

/-- The state with an instruction word where the next step fetches (log entry 31). -/
def State.withFetchWord (s : State) (nbits w : Nat) : State := s.placeWord (BitVec.ofNat 32 (w % 2 ^ nbits))

end Sys2Proof.Machine
end

