-- ==== Sys2Proof/Safety.lean ====
section
/-! DEFINITION. The terms in which claims are stated: when an instruction runs, what a completed instruction leaves as it
was, what it writes, and the invariants of the machine. -/

namespace Sys2Proof.Machine

/-! ## When an instruction runs -/

/-- A split issues and none of the checks of R67 and none of the waits before issue stops the instruction. -/
def Runs (i : Instr) (s : State) : Prop := s.issuing = true ∧ s.stopped i = none

/-- A split issues from which nothing is under way: no window open, no try region, no fence run past, no future, no
matrix instruction at its row slot, no unreadable register (R56, R155, R209, R216, R256, R393). -/
structure Calm (s : State) : Prop where
  issuing : s.issuing = true
  windows : s.spl.windows = []
  region : s.grp.region = none
  fence : s.spl.spec = none
  futures : s.grp.futures = []
  slot : s.slotWait = false
  readable : s.mem.upsets = []
  onWay : s.ownRequests = []
  accepted : s.ownReductions = []
  fresh : s.spl.redo = []

/-- The fields of an instruction suit the core, the gm, the level and the lanes of the issuing split (R67 steps 1 to 3
and 5). -/
structure Suits (i : Instr) (s : State) : Prop where
  legal : i.isIll = false
  form : i.wf = true
  gm : i.gmOk s.spl.gm = true
  core : (i.isBank && isNear s.blk.core) = false
  level : s.holds i.level = true
  lanes : i.isMatrix = true → s.effMask = 0xFFFFFFFF ∧ s.grp.isSplit = false

/-! ## What is left as it was -/

/-- The spill pointer, the state of try regions, the trap registers, the reservations and the barriers of a group. -/
structure KeptGroup (g h : Group) : Prop where
  place : h.idx = g.idx ∧ h.slot = g.slot
  stack : h.sp = g.sp
  tries : h.ts = g.ts
  trap : h.trap = g.trap ∧ h.ldone = g.ldone ∧ h.hscr = g.hscr ∧ h.handler = g.handler
  reserved : h.lr = g.lr
  arrived : h.arrived = g.arrived
  alive : h.ended = g.ended ∧ h.saved = g.saved

/-- The split table: which split issues, its status and domain, and every other split of its group. -/
structure KeptTable (u t : State) : Prop where
  cur : t.cur = u.cur
  status : t.spl.st = u.spl.st
  domain : t.spl.dm = u.spl.dm
  others : ∀ k, k ≠ u.cur → t.grp.splitAt k = u.grp.splitAt k

/-- The split table, with em and gm of the issuing split. -/
structure KeptSplits (u t : State) : Prop where
  table : KeptTable u t
  mask : t.spl.em = u.spl.em
  mode : t.spl.gm = u.spl.gm

/-- Queues and commands, links, accumulators, and the records of address spaces and keys. -/
structure KeptDevice (u t : State) : Prop where
  hub : t.hub = u.hub
  links : t.links = u.links
  acc : t.cores.acc = u.cores.acc
  spaces : t.iso.space = u.iso.space ∧ t.iso.tvec = u.iso.tvec ∧ t.iso.saveva = u.iso.saveva
  rights : t.iso.partition = u.iso.partition ∧ t.iso.granule = u.iso.granule ∧ t.iso.key = u.iso.key

/-- Every byte of memory, at its home and in HBM beneath it, the issuing block with its scratchpad, every other block. -/
structure KeptMemory (u t : State) : Prop where
  home : ∀ pa cp, t.byteAt (pa, cp) = u.byteAt (pa, cp)
  block : t.blk = u.blk
  blocks : t.blocks = u.blocks

/-- fl with the flags of the split's open windows, which have landed once the instruction is done (R57). -/
def State.landed (u : State) : BitVec 6 := u.spl.windows.foldl (fun f w => f ||| w.flags) u.grp.fl

/-- Flags, special registers of the lanes, and the open region. -/
structure KeptFlags (u t : State) : Prop where
  flags : t.grp.fl = u.landed
  seeds : t.grp.gs = u.grp.gs
  region : t.grp.region = u.grp.region

/-- Everything that no instruction on registers changes: the issuing group apart from its registers and flags, its
splits, the device and memory. -/
structure Kept (u t : State) : Prop where
  group : KeptGroup u.grp t.grp
  splits : KeptSplits u t
  device : KeptDevice u t
  memory : KeptMemory u t

/-- The split goes on at the next word (R47), but within a list under re-execution (R383). -/
def Onward (s t : State) : Prop := s.spl.redo = [] → t.spl.pc = s.spl.pc + 4

/-! ## What is written -/

/-- Is a lane (key 32 r + k) a result of an open window of the issuing split, so that an instruction of the window that
writes it as well may land before or after the window's own instruction (R57)? -/
def State.watched (u : State) (key : Nat) : Prop :=
  ∃ w ∈ u.spl.windows, 0 < w.left ∧ ∃ e ∈ w.before, e.1 = key

/-- Registers after: each lane of each register as `new` says, as it was where `new` says nothing. A lane that an
instruction of an open window writes too may end with that instruction's value, which it held (R57). -/
def RegsBecome (u t : State) (new : Nat → Nat → Option Word) : Prop :=
  ∀ r < 64, ∀ k < 32, t.reg r k = (new r k).getD (u.reg r k) ∨ (u.watched (32 * r + k) ∧ t.reg r k = u.reg r k)

/-- The active lanes of one register. -/
def inLanes (u : State) (d : Reg) (f : Nat → Word) (r k : Nat) : Option Word :=
  if r = d.toNat ∧ k ∈ u.active then some (f k) else none

/-- The active lanes of a register pair, low half first (R30). -/
def inPairs (u : State) (d : Reg) (f : Nat → DWord) (r k : Nat) : Option Word :=
  if k ∈ u.active then
    (if r = d.toNat then some (low32 (f k)) else if r = d.toNat + 1 then some (high32 (f k)) else none)
  else none

/-- The control lane of one register (R23). -/
def inCtl (u : State) (d : Reg) (v : Word) (r k : Nat) : Option Word :=
  if r = d.toNat ∧ k = u.ctl then some v else none

/-- The control lane of a pair (R23, R30). -/
def inCtlPair (u : State) (d : Reg) (v : DWord) (r k : Nat) : Option Word :=
  if k = u.ctl then (if r = d.toNat then some (low32 v) else if r = d.toNat + 1 then some (high32 v) else none) else none

/-- The active lanes and the control lane of a register (R125, R305). -/
def inUniform (u : State) (d : Reg) (f : Nat → Word) (r k : Nat) : Option Word :=
  if r = d.toNat ∧ (k ∈ u.active ∨ k = u.ctl) then some (f k) else none

/-- Positions of a register over the issuing split's domain: position j in the j-th lane of it (R127); none where no lane is
active (R26). -/
def inDomain (u : State) (d : Nat) (f : Nat → Option Word) (r k : Nat) : Option Word :=
  if r = d ∧ k ∈ u.domLanes ∧ u.active ≠ [] then f (u.domLanes.idxOf k) else none

/-- No register. -/
def nowhere (_ _ : Nat) : Option Word := none

/-- The instruction completes: it writes the registers that `new` names and no other, raises no flag, goes on at the next
word and leaves everything else as it was. The operands are those of `s.ready i`: the futures that it reads have ended
(R256), and lanes of results that it meets within their window have landed or not (R57). -/
def Sets (i : Instr) (s : State) (new : Nat → Nat → Option Word) : Prop :=
  ∃ t, exec i s = .next t ∧ RegsBecome (s.ready i) t new ∧ Kept (s.ready i) t ∧ KeptFlags (s.ready i) t ∧ Onward s t

/-- Flags after: those of `f` raised in each lane of a list, in fl where no region is open and else held with the lane
(R97). -/
def Raised (u t : State) (ls : List Nat) (f : Nat → BitVec 6) : Prop :=
  match u.grp.region with
  | none => t.grp.fl = (ls.map f).foldl (· ||| ·) u.landed
  | some r => t.grp.fl = u.landed ∧ ∃ r', t.grp.region = some r' ∧
      ∀ k, sget 0 r'.flags k = sget 0 r.flags k ||| (if k ∈ ls then f k else 0)

/-- As `Sets`, with the flags of `f` raised in the active lanes. -/
def SetsRaising (i : Instr) (s : State) (new : Nat → Nat → Option Word) (f : Nat → BitVec 6) : Prop :=
  ∃ t, exec i s = .next t ∧ RegsBecome (s.ready i) t new ∧ Kept (s.ready i) t ∧
    Raised (s.ready i) t (s.ready i).active f ∧ t.grp.gs = (s.ready i).grp.gs ∧ Onward s t

/-- The instruction sets pc to `target` and writes the registers that `new` names; nothing else changes. -/
def Jumps (i : Instr) (s : State) (target : Addr) (new : Nat → Nat → Option Word) : Prop :=
  ∃ t, exec i s = .next t ∧ RegsBecome (s.ready i) t new ∧ Kept (s.ready i) t ∧ KeptFlags (s.ready i) t ∧
    t.spl.pc = target

/-! ## Shapes of claims about lanes -/

/-- Each active lane of `d` receives `f` of the two operand lanes; nothing else changes. -/
def LaneOp2 (i : Instr) (s : State) (d a : Reg) (p : Perm) (b : Reg) (q : Perm) (f : Word → Word → Word) : Prop :=
  Runs i s → Sets i s (inLanes (s.ready i) d fun k =>
    f ((s.ready i).operand a.toNat p k) ((s.ready i).operandB b.toNat q k))

/-- Each active lane of `d` receives `f` of the operand lane; nothing else changes. -/
def LaneOp1 (i : Instr) (s : State) (d a : Reg) (p : Perm) (f : Word → Word) : Prop :=
  Runs i s → Sets i s (inLanes (s.ready i) d fun k => f ((s.ready i).operand a.toNat p k))

/-- Each active lane of `d` receives a value that stands in a relation to the two operand lanes and to what the lane
held. -/
def LaneRel (i : Instr) (s : State) (d a : Reg) (p : Perm) (b : Reg) (q : Perm) (P : Word → Word → Word → Word → Prop) :
    Prop :=
  Runs i s → ∃ f, Sets i s (inLanes (s.ready i) d f) ∧ ∀ k ∈ (s.ready i).active,
    P ((s.ready i).operand a.toNat p k) ((s.ready i).operandB b.toNat q k) ((s.ready i).source d.toNat k) (f k)

/-- The control lane of `d` receives a mask: bit k says whether lane k is active and has the property; nothing else
changes (R109). -/
def MaskOp (i : Instr) (s : State) (d : Reg) (P : State → Nat → Prop) : Prop :=
  Runs i s → ∃ m : Word, Sets i s (inCtl (s.ready i) d m) ∧
    ∀ k < 32, m.getLsbD k = true ↔ k ∈ (s.ready i).active ∧ P (s.ready i) k

/-- The range of an integer type (R100): that of n32 or of s32. -/
def lowest (gm : DWord) : Int := if isNat gm then 0 else -2147483648
def highest (gm : DWord) : Int := if isNat gm then 4294967295 else 2147483647

/-- With SAT set, each active lane receives the exact result `z` clamped to the range of its type, and SA is raised where
it was clamped (R100). -/
def Clamps (i : Instr) (s : State) (d : Reg) (z : State → Nat → Int) : Prop :=
  Runs i s → gmSAT (s.ready i).spl.gm = true →
    let u := s.ready i
    let gm := u.spl.gm
    SetsRaising i s (inLanes u d fun k => BitVec.ofInt 32 (max (lowest gm) (min (highest gm) (z u k))))
      (fun k => if lowest gm ≤ z u k ∧ z u k ≤ highest gm then 0 else fSA)

/-- With SAT clear, each active lane receives the low 32 bits of the result, and no flag is raised (R100). -/
def Wraps (i : Instr) (s : State) (d : Reg) (f : State → Nat → Word) : Prop :=
  Runs i s → gmSAT (s.ready i).spl.gm = false → Sets i s (inLanes (s.ready i) d (f (s.ready i)))

/-- The instructions 0x20 to 0x8F, which work on lanes of registers alone. -/
def laneOnly : Instr → Bool
  | i => match encode i with
    | some w => 0x20 ≤ opcodeOf w && opcodeOf w ≤ 0x8F
    | none => false

/-! ## Claims about floating results -/

/-- The active lanes of the registers that hold an element of a format: a pair for FP64, else one register (R84). -/
def inFormat (u : State) (d : Nat) (T : Fmt) (c : Nat → Nat) (r k : Nat) : Option Word :=
  if k ∈ u.active then
    (if T = .f64 then
      (if r = d then some (low32 (BitVec.ofNat 64 (c k))) else if r = d + 1 then some (high32 (BitVec.ofNat 64 (c k))) else none)
    else if r = d then some (BitVec.ofNat 32 (c k)) else none)
  else none

/-- One code for the whole group: the active lanes and the control lane (R125). -/
def inGroup (u : State) (d : Nat) (T : Fmt) (c : Nat) (r k : Nat) : Option Word :=
  if k ∈ u.active ∨ k = u.ctl then
    (if T = .f64 then
      (if r = d then some (low32 (BitVec.ofNat 64 c)) else if r = d + 1 then some (high32 (BitVec.ofNat 64 c)) else none)
    else if r = d then some (BitVec.ofNat 32 c) else none)
  else none

/-- The code is the least (or greatest) number among the operand codes of some lanes by the order of R113, the default NaN
where every one is a NaN. -/
def Extreme (u : State) (a : Reg) (p : Perm) (past : Val → Val → Bool) (ls : List Nat) (c : Nat) : Prop :=
  let T := gmT u.spl.gm
  ((∀ j ∈ ls, (u.fp a p j).isNaN = true) → c = nanCode T false) ∧
  ((∃ j ∈ ls, (u.fp a p j).isNaN = false) → (∃ j ∈ ls, c = u.src a.toNat p j T ∧ (u.fp a p j).isNaN = false) ∧
    ∀ j ∈ ls, (u.fp a p j).isNaN = false → past (u.fp a p j) (decodeVal T c) = false)

/-- The j-th draw (from 0) of a lane under SR: the upper half of the product of R131 with its state after j + 1
steps. -/
def drawOf (u : State) (j k : Nat) : Nat :=
  if gmRM u.spl.gm ≠ 5 then 0 else ((xorshift^[j + 1] (sget 0 u.grp.gs k)) * 0x2545F4914F6CDD1D).toNat / 2 ^ 32

/-- The j-th number (from 0) that `Draw32` returns for a lane, whatever the rounding mode (R131). -/
def drawAt (u : State) (j k : Nat) : Nat :=
  ((xorshift^[j + 1] (sget 0 u.grp.gs k)) * 0x2545F4914F6CDD1D).toNat / 2 ^ 32

/-- The magnitude of a finite value; 0 for any other. -/
def magOf (v : Val) : ℚ :=
  match v with
  | .fin _ m e => m * (2 : ℚ) ^ e
  | _ => 0

/-- Is a value NaN or infinite? -/
def isSpecial (v : Val) : Prop := ∀ n m e, v ≠ .fin n m e

/-- The member of an ascending list of candidates that a draw of `prune` picks, by their values (R132): the lowest that is
NaN or infinite; where all magnitudes are zero, the lowest; else the lowest whose partial sum of magnitudes, over the sum of
all, lies above the draw over 2^32. -/
def Picked (cand : List Nat) (v : Nat → Val) (x p : Nat) : Prop :=
  let sum := fun (l : List Nat) => (l.map fun k => magOf (v k)).sum
  let cum := fun (k : Nat) => sum (cand.filter (· ≤ k))
  p ∈ cand ∧
    ((∃ k ∈ cand, isSpecial (v k)) → isSpecial (v p) ∧ ∀ k ∈ cand, isSpecial (v k) → p ≤ k) ∧
    ((∀ k ∈ cand, ¬isSpecial (v k)) →
      (sum cand = 0 → ∀ k ∈ cand, p ≤ k) ∧
      (sum cand ≠ 0 → x * sum cand < 2 ^ 32 * cum p ∧ ∀ k ∈ cand, k < p → 2 ^ 32 * cum k ≤ x * sum cand))

/-- Each lane of a list has made `n` draws and no other lane any (R89, R131). -/
def Drew (u t : State) (ls : List Nat) (n : Nat) : Prop :=
  ∀ k < 32, sget 0 t.grp.gs k = if k ∈ ls then xorshift^[n] (sget 0 u.grp.gs k) else sget 0 u.grp.gs k

/-- The instruction completes with the registers of `new`, flags raised in lanes of a list, each of which makes `n` draws
under SR (R89); nothing else changes. -/
def CodesIn (ls : State → List Nat) (i : Instr) (s : State) (n : Nat) (new : State → Nat → Nat → Option Word)
    (f : State → Nat → BitVec 6) : Prop :=
  Runs i s → let u := s.ready i
    ∃ t, exec i s = .next t ∧ RegsBecome u t (new u) ∧ Kept u t ∧ Raised u t (ls u) (f u) ∧
      Drew u t (ls u) (if gmRM u.spl.gm = 5 then n else 0) ∧ Onward s t

/-- As `CodesIn`, for the active lanes. -/
def Codes (i : Instr) (s : State) (n : Nat) (new : State → Nat → Nat → Option Word) (f : State → Nat → BitVec 6) : Prop :=
  CodesIn State.active i s n new f

/-- `RoundTo` under the modes of the split with the lane's j-th draw (R87). -/
def rounded (u : State) (T : Fmt) (j : Nat) (x : Val) (k : Nat) : Nat × BitVec 6 :=
  roundTo (gmRM u.spl.gm) (gmSAT u.spl.gm) (drawOf u j k) x T

/-- Each active lane receives an exact value, with the flags of forming it, rounded once to a format (R87, R111). -/
def Rounds (i : Instr) (s : State) (d : Reg) (T : State → Fmt) (v : State → Nat → Val × BitVec 6) : Prop :=
  Codes i s 1 (fun u => inFormat u d.toNat (T u) fun k => (rounded u (T u) 0 (v u k).1 k).1)
    (fun u k => (v u k).2 ||| (rounded u (T u) 0 (v u k).1 k).2)

/-- A value is the rational number `x`. -/
def Exactly (v : Val) (x : ℚ) : Prop :=
  match v with
  | .fin n m e => x = (if n then -1 else 1) * m * (2 : ℚ) ^ e
  | _ => False

/-! ## Traps -/

/-- The issuing split is in handler mode at its address space's trap routine, and the record names the code (R377,
R380). -/
structure Entered (s t : State) (code : Nat) : Prop where
  handler : t.grp.handler = some s.cur
  pc : t.spl.pc = (s.tvec s.blk.asid).setWidth 57
  gm : t.spl.gm = 0
  em : t.spl.em = s.spl.dm
  code : bits (sget 0 t.grp.trap 0) 7 0 = code
  split : bits (sget 0 t.grp.trap 0) 16 15 = s.cur
  oldMask : sget 0 t.grp.trap 4 = s.spl.em.setWidth 64
  oldMode : sget 0 t.grp.trap 5 = s.spl.gm

/-- A trap of an instruction is not turned into something else and does not wait: no region is open, nothing of the group
is outstanding, no earlier fault of the split waits, nor, where no routine runs, one of another split, and no fence is run past
(R59, R60, R209, R319, R377). -/
structure AtOnce (s : State) : Prop where
  region : s.grp.region = none
  settled : s.outstanding = false
  others : s.othersBusy = false
  earlier : s.spl.pending = []
  fence : s.spl.spec = none
  first : s.grp.handler = none → s.grp.pendOthers s.cur = 0

/-- A trap of an instruction is delivered at once: besides, no routine runs and the address space has one (R377, R379).
The split's number fits the record. -/
structure Delivers (s : State) : Prop where
  atOnce : AtOnce s
  handler : s.grp.handler = none
  vector : s.tvec s.blk.asid ≠ 0
  fits : s.cur < 4

/-- Registers, memory, scratchpad and the device's records as they were. -/
structure SameData (u t : State) : Prop where
  regs : ∀ r k, t.reg r k = u.reg r k
  home : ∀ pa cp, t.byteAt (pa, cp) = u.byteAt (pa, cp)
  spad : ∀ o, t.blk.byte o = u.blk.byte o
  blocks : t.blocks = u.blocks
  device : KeptDevice u t
  flags : KeptFlags u t

/-- The instruction takes a trap with a code from the state `u` in which it read its operands, with none of its own
effect; in a split group its fault may be found only once other splits have gone on, and is kept until then (R378; when it is
found is log entry 102). -/
def TrapsFrom (i : Instr) (s u : State) (code : Nat) : Prop :=
  ∃ t, exec i s = .next t ∧ SameData u t ∧ (s.foundLate i = false → Entered u t code) ∧
    (s.foundLate i = true → t.grp.handler = s.grp.handler ∧ ∃ f ∈ t.spl.pending, f.pc = s.spl.pc ∧ f.info.code = code)

/-- As `TrapsFrom`, once the futures that the instruction reads have ended (R256). -/
def Traps (i : Instr) (s : State) (code : Nat) : Prop := TrapsFrom i s (s.ready i) code

/-- The removal of the issuing context with a cause is requested, and nothing else changes (R377, R379, R390). -/
def Removes (i : Instr) (s : State) (cause : Nat) : Prop :=
  ∃ t, exec i s = .next t ∧ (s.blk.asid, cause, 0) ∈ t.mgmt.removing ∧ SameData (s.ready i) t ∧ t.spl.pc = s.spl.pc

/-! ## Instructions told by the state they lead to -/

/-- The instruction completes in a state that agrees with `v` on everything but time, energy, the caches, the windows and
the place of the issuing split, at the next word. -/
def Performs (i : Instr) (s v : State) : Prop :=
  ∃ t, exec i s = .next t ∧ Kept v t ∧ KeptFlags v t ∧ RegsBecome v t nowhere ∧ Onward s t

/-! ## Claims about memory -/

/-- No other core holds a copy of a host or peer line, and no other module one of a line of an export, which a write would
snoop (R181, R375). -/
def NoCopies (u : State) : Prop := (∀ c ∈ u.mem.l1, c.peer = true → c.core = u.blk.core) ∧ u.links.copies = []

/-- May an access of the issuing core to these places cross its links at once (R371, R373, R374)? -/
def State.opens (u : State) (pas : List Nat) : Prop := ∀ pa ∈ pas, u.wayOpen u.blk.asid u.blk.core pa = true

/-- The device with the flits of the issuing core's accesses to these places sent (R372, R373). -/
def State.crossed (u : State) (pas : List Nat) : State := u.sendFlits u.blk.asid pas

/-- The instruction waits for the links of its accesses: each that sleeps is woken, and registers, memory and scratchpad stay
(R374). -/
def AwaitsLinks (i : Instr) (s u : State) (pas : List Nat) : Prop :=
  ∃ t, exec i s = .next t ∧ t.spl.pc = s.spl.pc ∧ (∃ n, t.spl.wait = some (.held, n)) ∧
    (∀ pa ∈ pas, ∀ l ∈ u.route u.blk.asid u.blk.core pa, u.linkST l = 3 → t.linkST l = 4) ∧
    (∀ r k, t.reg r k = u.reg r k) ∧ (∀ pa cp, t.byteAt (pa, cp) = u.byteAt (pa, cp)) ∧ ∀ o, t.blk.byte o = u.blk.byte o

/-- As `Sets`, with flits for the places of its access sent. -/
def SetsAcross (i : Instr) (s : State) (pas : List Nat) (new : Nat → Nat → Option Word) : Prop :=
  ∃ t, exec i s = .next t ∧ RegsBecome (s.ready i) t new ∧ Kept ((s.ready i).crossed pas) t ∧ KeptFlags (s.ready i) t ∧
    Onward s t

/-- Nothing of the issuing group watches memory: no reservation, region or fence run past (R209, R218, R238); nor need a
write be snooped. -/
structure Unwatched (u : State) : Prop where
  reserved : u.grp.lr = []
  region : u.grp.region = none
  fence : ∀ k, (u.grp.splitAt k).spec = none
  copies : NoCopies u

/-- The group, its splits and flags and the device's records as they were; memory and other groups are told apart. -/
structure KeptOwn (u t : State) : Prop where
  group : KeptGroup u.grp t.grp
  splits : KeptSplits u t
  device : KeptDevice u t
  flags : KeptFlags u t

/-- Does a held byte of memory go to HBM beneath a line that the L2 slice holds, as UC makes it (R187, R197)? -/
def State.beneath (u : State) (h : HeldByte) : Bool :=
  !h.spad && uncached h.cp && (u.l2Entry (h.addr / 64)).isSome

/-- Memory and the block's scratchpad hold the bytes of a list of stores, the newest at each place, and are otherwise as
they were: at the homes, in HBM beneath the L2 slices, in the scratchpad. -/
structure Stored (u t : State) (hs : List HeldByte) : Prop where
  home : ∀ pa, t.homeByte pa = (heldAt (hs.filter fun h => !u.beneath h) false pa).getD (u.homeByte pa)
  hbm : ∀ h ∈ hs, u.beneath h = true → targetOf h.addr = .hbm →
    t.byteAt (h.addr, 1) = (heldAt hs false h.addr).getD 0
  otherLines : ∀ pa, (∀ h ∈ hs, h.spad = false → h.addr / 64 ≠ pa / 64) → t.byteAt (pa, 1) = u.byteAt (pa, 1)
  spad : ∀ o, t.blk.byte o = (heldAt hs true o).getD (u.blk.byte o)

/-- Memory and the issuing block's scratchpad are as they were but at some places: at the homes, and in HBM beneath the
L2 slices on the other lines. -/
structure OnlyAt (u t : State) (ps : List (Nat × Nat)) : Prop where
  home : ∀ pa, (∀ p ∈ ps, p.1 ≠ pa) → t.homeByte pa = u.homeByte pa
  otherLines : ∀ pa, (∀ p ∈ ps, p.1 / 64 ≠ pa / 64) → t.byteAt (pa, 1) = u.byteAt (pa, 1)
  spad : ∀ o, t.blk.byte o = u.blk.byte o

/-- The places hold the bytes of a number, the least significant first. -/
def Holds (t : State) (ps : List (Nat × Nat)) (n v : Nat) : Prop :=
  ∀ j < n, t.byteAt (ps.getD j (0, 0)) = BitVec.ofNat 8 (v / 2 ^ (8 * j))

/-- The L2 slices hold lines of HBM alone, among those of some places. -/
def InHbm (u : State) (ps : List (Nat × Nat)) : Prop := ∀ p ∈ ps, targetOf p.1 = .hbm ∨ u.l2Entry (p.1 / 64) = none

/-- No two bytes of a list go to one line of memory under different policies. -/
def OnePolicy (hs : List HeldByte) : Prop :=
  ∀ g ∈ hs, ∀ h ∈ hs, g.spad = false → h.spad = false → g.addr / 64 = h.addr / 64 → g.cp = h.cp

/-- Bytes that an instruction stores where nothing watches: those of no held line are in place, the others on their way,
and the rest of memory is as it was. -/
structure SentOut (u t : State) (hs : List HeldByte) : Prop where
  now : Stored u t (hs.filter fun h => !u.goesLater hs h)
  onWay : t.mem.requests = u.mem.requests ++
    requestsOf u.blk.asid u.blk.core u.grp.slot u.cur (hs.filter fun h => u.goesLater hs h)

/-- The instruction stores what a list of lane writes says, where no lane faults; only those bytes change. Where a link on
their way sleeps it is woken, and the instruction waits. -/
def StoresLanes (i : Instr) (s : State) (ws : State → List LaneWrite) : Prop :=
  Runs i s → let u := s.ready i
    let hs := (splitWrites (ws u)).1
    (splitWrites (ws u)).2 = [] → Unwatched u → OnePolicy hs →
    (u.opens (u.outNow hs) →
      ∃ t, exec i s = .next t ∧ RegsBecome u t nowhere ∧ KeptOwn (u.crossed (u.outNow hs)) t ∧ SentOut u t hs ∧ Onward s t) ∧
    (¬u.opens (u.outNow hs) → AwaitsLinks i s u (u.outNow hs))

/-- Words of a lane in consecutive registers of each active lane. -/
def inWords (u : State) (d : Reg) (n : Nat) (ws : Nat → List Word) (r k : Nat) : Option Word :=
  if k ∈ u.active ∧ d.toNat ≤ r ∧ r < d.toNat + n then (ws k)[r - d.toNat]? else none

/-- The instruction loads in every active lane the bytes that a read finds, unless it must wait for an earlier access of
the split to them (R202); nothing else changes but what caches and watched lines hold. Where a link on the way of what the L1
does not answer sleeps, it is woken, and the instruction waits. -/
def LoadsLanes (i : Instr) (s : State) (d : Reg) (n : Nat) (f : List Byte → List Word) (home : Bool)
    (read : State → Nat → LaneRead) : Prop :=
  Runs i s → let u := s.ready i
    ∀ bs : Nat → List Byte, (∀ k ∈ u.active, ∃ sp ps, read u k = .ok (bs k) sp ps) →
    let oks := (splitReads (u.active.map fun k => (k, read u k))).1
    let pas := u.readsMiss (u.atHome home) oks
    u.readsWait home oks = false →
    (u.opens pas → ∃ t, exec i s = .next t ∧ RegsBecome u t (inWords u d n fun k => f (bs k)) ∧ Kept (u.crossed pas) t ∧
      t.grp.fl = u.landed ∧ t.grp.gs = u.grp.gs ∧ (u.grp.region = none → t.grp.region = none) ∧ Onward s t) ∧
    (¬u.opens pas → AwaitsLinks i s u pas)

/-! ## Claims about blocks -/

/-- The issuing group stands in one place: its block is resident, and no other group or block bears its slot. -/
structure Settled (s : State) : Prop where
  resident : s.blk.record ≠ []
  slot : ∀ g ∈ s.blk.groups, g.slot ≠ s.grp.slot
  block : ∀ b ∈ s.blocks, ¬(b.core = s.blk.core ∧ b.bslot = s.blk.bslot)

/-- The group, its splits and flags, memory and the bytes of the scratchpad as they were: what instructions that work on
reservations and accumulators leave. -/
structure KeptData (u t : State) : Prop where
  group : KeptGroup u.grp t.grp
  splits : KeptSplits u t
  home : ∀ pa cp, t.byteAt (pa, cp) = u.byteAt (pa, cp)
  spad : ∀ o, t.blk.byte o = u.blk.byte o
  hub : t.hub = u.hub

/-- The accumulator entries that a test does not name are as they were. -/
def KeptAcc (u t : State) (named : Nat × Nat → Prop) : Prop :=
  ∀ line < 512, ∀ e < 32, ¬named (line, e) → t.acc u.blk.core (line, e) = u.acc u.blk.core (line, e)

/-- An accumulator address word that names an element of a live reservation (R171). -/
structure Addresses (u : State) (w : Word) (x : Nat) (r : Resv) : Prop where
  live : u.blk.resv (addrHandle w) = some r
  clean : bits w 31 30 = 0
  row : addrRow w < r.mcap
  column : 32 * addrChunk w < r.ncol
  part : x = 1 → isComplex r.ta = true

/-! ## Claims about the device's own moves -/

/-- Every group, block and split, and every byte of memory, as they were. -/
structure KeptWork (u t : State) : Prop where
  group : t.grp = u.grp ∧ t.cur = u.cur
  blocks : t.blk = u.blk ∧ t.blocks = u.blocks
  home : ∀ pa cp, t.byteAt (pa, cp) = u.byteAt (pa, cp)

/-- A move completes in a state with a property. -/
def Leads (i : Instr) (s : State) (P : State → Prop) : Prop := ∃ t, exec i s = .next t ∧ P t

/-- The homes of memory hold bytes from an address on and are otherwise as they were. -/
def Written (u t : State) (pa : Nat) (bs : List Byte) : Prop :=
  ∀ a, t.homeByte a = if pa ≤ a ∧ a < pa + bs.length then bs.getD (a - pa) 0 else u.homeByte a

/-- The commands of R409: the function, the code, whether a virtual function may issue it, and the bits that its arguments
may set. -/
def commandOf : Instr → Option (Nat × Nat × Bool × List Nat)
  | .reset fn => some (fn, 0x01, false, [])
  | .diereset fn => some (fn, 0x02, false, [63])
  | .fwwrite fn => some (fn, 0x03, false, [anyArg, anyArg, anyArg, 1])
  | .fwswitch fn => some (fn, 0x04, false, [])
  | .partset fn => some (fn, 0x05, false, [63, anyArg])
  | .granset fn => some (fn, 0x06, false, [1023, 255])
  | .vfset fn => some (fn, 0x07, false, [1023, anyArg, anyArg])
  | .fallback fn => some (fn, 0x08, false, [63, anyArg, anyArg])
  | .powercap fn => some (fn, 0x09, false, [anyArg])
  | .dieoff fn => some (fn, 0x0A, false, [0xF013F])
  | .dieon fn => some (fn, 0x0B, false, [0xF013F])
  | .recal fn => some (fn, 0x0C, false, [63])
  | .exportRange fn => some (fn, 0x10, true, [0x7FFFF, anyArg, anyArg, anyArg])
  | .importHandle fn => some (fn, 0x11, true, [anyArg, 0x7FF1F])
  | .unimport fn => some (fn, 0x12, true, [0, 0xFF1F])
  | .revoke fn => some (fn, 0x13, true, [anyArg])
  | .keyload fn => some (fn, 0x14, true, [0xFFFFFFFF00000FFF])
  | .keyerase fn => some (fn, 0x15, true, [0xFFF])
  | .attest fn => some (fn, 0x16, true, [])
  | .preempt fn => some (fn, 0x18, true, [0xFFFF])
  | .restore fn => some (fn, 0x19, true, [0xFFFF])
  | .remove fn => some (fn, 0x1A, true, [0xFFFF])
  | .census fn => some (fn, 0x1B, true, [anyArg, anyArg, 1])
  | _ => none

/-- A command of a code is under way for a function in phase READY, with clean arguments, and the function may issue it, for
one that exists (R404, R408, R409). -/
structure UnderWay (s : State) (fn code : Nat) (forVf : Bool) (masks : List Nat) : Prop where
  busy : s.cmdRuns fn = true
  code : bits (s.cmdWord fn 0) 7 0 = code
  ready : s.bootPH = 2
  may : fn = physicalFn ∨ forVf = true
  clean : bits (s.cmdWord fn 0) 63 26 = 0 ∧ bits (s.cmdWord fn 0) 15 8 = 0 ∧ s.argsClean fn masks = true
  target : forVf = true → s.noTarget fn = false

/-- A command ends with a status in a state with a property, and leaves BUSY (R409). -/
def EndsWith (i : Instr) (s : State) (fn status : Nat) (P : State → Prop) : Prop :=
  ∃ t, exec i s = .next t ∧ t.cmdStatus fn = BitVec.ofNat 64 status ∧ P t

/-! ## The form of memory -/

/-- Memory is listed in its one form: addresses strictly rising, and no byte listed that reads as an unlisted one
does. -/
abbrev Memory.wf (m : Memory) : Prop := Canonical 0 m.bytes

end Sys2Proof.Machine
end

