-- ==== Sys2Proof/Certificates/Slice0/Obligations.lean ====
section
/-! DEFINITION. The statements for the provers, each citing the rules of spec/ that it formalises. -/

section
open Sys2Proof Sys2Proof.Machine

/-! ## Encoding, fetching and steps -/

/-- R50 to R53: a well-formed instruction with a word decodes from it to itself with every operand, and every word that
decodes is the word of the well-formed instruction it decodes to. -/
def Obligations.EncodeDecode : Prop :=
  (∀ (i : Instr) (w : Word), i.wf = true → encode i = some w → decode w = .ok i) ∧
  ∀ (w : Word) (i : Instr), decode w = .ok i → encode i = some w ∧ i.wf = true

/-- R50, R51, R54: words of the spec's own listings, one or two of each format, decode to the instructions they stand
for. -/
def Obligations.DecodeWords : Prop :=
  decode 0x20186038 = .ok (.add 6 6 0 7 0) ∧
  decode 0x500C7660 = .ok (.fadd 3 7 3 12 0) ∧
  decode 0x120C0005 = .ok (.modei 3 5) ∧
  decode 0x040BFFF4 = .ok (.bnz 2 (-12)) ∧
  decode 0x9828406D = .ok (.ld 10 4 0 3 1 5) ∧
  decode 0xAC202008 = .ok (.atomCas 8 2 0 0 2 0) ∧
  decode 0xC6115413 = .ok (.mmas 4 1 2 40 1 3) ∧
  decode 0x8E81E003 = .ok (.dgrp 32 30 0 0 3) ∧
  decode 0xD8520020 = .ok (.copy 20 32 0 1) ∧
  decode 0xEB500006 = .ok (.tryOpen 20 6) ∧
  decode 0xFB210040 = .ok (.tlbinv 8 16 0 2 0) ∧
  decode 0xF300002A = .ok (.trap 42)

/-- R47, R48, R49: while a host module is up (R359), a split whose turn it is fetches the four bytes at its pc, the
least significant byte first, from the core's copy of the line where it holds one, and what it does in the step is the
meaning of the instruction that the word decodes to; where the protection of a reservation ends with it, what that has held is
performed as the step ends (R333), and else nothing comes after it. A fetch that must cross a sleeping link wakes it and waits
(R374), and its split goes on at the same pc. A pc that is no multiple of four fetches nothing and raises ALIGN, with nothing
listed and NPC the pc. -/
def Obligations.StepRunsDecoded : Prop :=
  ∀ (s : State), s.agenda = [] → s.hostUp = true → s.turn = true → s.issuing = true →
    (s.mayFetch = true → ∀ (t : State) (w : Word) (i : Instr), s.fetch = (t, .ok w) → decode w = .ok i → s.next = exec i t) ∧
    (∀ u, s.next = .next u → step s = .next (s.endHolds u) ∧
      ((∀ p ∈ s.protections, p ∈ u.protections) → step s = .next u)) ∧
    (s.mayFetch = false → ∃ t, s.next = .next t ∧ t.spl.pc = s.spl.pc ∧ t.spl.wait = some (.held, s.tick + 1) ∧
      (∀ pa ∈ s.fetchWay, ∀ l ∈ s.route s.blk.asid s.blk.core pa, s.linkST l = 3 → t.linkST l = 4) ∧
      (∀ r k, t.reg r k = s.reg r k) ∧ ∀ pa cp, t.byteAt (pa, cp) = s.byteAt (pa, cp)) ∧
    (∀ ps : List (Nat × Nat), s.spl.pc.toNat % 4 = 0 →
      s.check s.me s.blk.asid s.spl.pc.toNat 4 .fetch s.inHandler = .mem ps →
      let at_ := ps.headD (0, 0)
      at_.1 % 4 = 0 →
      let kept := fun (t : State) => t.grp = s.grp ∧ t.cur = s.cur ∧ t.blk = s.blk ∧ t.blocks = s.blocks ∧
        ∀ pa cp, t.byteAt (pa, cp) = s.byteAt (pa, cp)
      (∀ bs, s.l1iLine s.blk.core (at_.1 / 64) = some bs →
        let b := fun (j : Nat) => bs.getD (at_.1 % 64 + j) 0
        ∃ t, s.fetch = (t, .ok (b 3 ++ b 2 ++ b 1 ++ b 0)) ∧ kept t) ∧
      (s.l1iLine s.blk.core (at_.1 / 64) = none → s.unreadable s.blk.asid at_ = none →
        let b := fun (j : Nat) => (s.fillTlb s.me s.blk.asid s.spl.pc.toNat).readAt s.blk.asid (at_.1 + j, at_.2)
        ∃ t, s.fetch = (t, .ok (b 3 ++ b 2 ++ b 1 ++ b 0)) ∧ kept t)) ∧
    (s.spl.pc.toNat % 4 ≠ 0 → Delivers s → ∃ t, step s = .next t ∧ Entered s t tALIGN ∧ SameData s t ∧
      bits (sget 0 t.grp.trap 0) 27 23 = 0 ∧ sget 0 t.grp.trap 2 = s.spl.pc.setWidth 64 ∧
      sget 0 t.grp.trap 3 = s.spl.pc.setWidth 64)

/-- The machine never stops: a step of any state answers a next state (R439 leaves the order of moves open); while no host
module is up nothing runs, and where nothing arrives either, time alone goes on (R359; what stops is the model's reading,
log entry 89). -/
def Obligations.StepAnswers : Prop :=
  ∀ s : State, (∃ t, step s = .next t) ∧
    (s.agenda = [] → (∀ m < 4, s.linkST (56 + m) < 2) →
      let passes : Host.Outcome State Fault Refusal :=
        .next { s with tick := s.tick + 1, mgmt := { s.mgmt with ns := s.mgmt.ns + Config.nsStep s.tick } }
      (s.next = match Config.arrival s.tick with
        | some i => if isMove i then exec i s else passes
        | none => passes) ∧
      (Config.arrival s.tick = none → step s = passes))

/-! ## Reset and invariants -/

/-- R402: after a cold reset no group or context exists, every byte of memory reads 0, every queue's
ISSUED and DONE are 0, no key is held, and partition, granule, function and address-space records are zero. That TVEC is 0 is
the model's choice (log entry 3).
The memory of reset has its one form. -/
def Obligations.ResetState : Prop := (
  let s := State.reset
  s.issuing = false ∧ s.blocks = [] ∧ (∀ pa, s.homeByte pa = 0) ∧ s.mem.bytes = [] ∧
  (∀ die q, s.cqIssued die q = 0 ∧ s.cqDone die q = 0 ∧ s.cqEn die q = false) ∧
  (∀ k, sget 0 s.iso.key k = 0) ∧ (∀ p w, s.partWord p w = 0) ∧ (∀ v w, s.vfWord v w = 0) ∧
  (∀ g, sget 0 s.iso.granule g = 0) ∧ (∀ a w, s.spaceWord a w = 0) ∧ (∀ a, s.tvec a = 0 ∧ s.sup a = false)) ∧ (
 Memory.wf State.reset.mem)

/-- Memory is listed in its one form, and every step keeps it so: no two lists stand for one memory. -/
def Obligations.MemoryForm : Prop := ∀ s t : State, Memory.wf s.mem → step s = .next t → Memory.wf t.mem

/-! ## Exceptions -/

/-- R49, R53, R66, R67: a field that is ill-formed, or does not suit gm or the core, raises ILLEGAL before anything else;
so does a word that is no instruction, and the opcode 0x00.
R60, R377, R380: the record of a trap at an instruction that is re-executed lists that instruction: NFLT 1, its
address in FPC, no lane done, and NPC the next word. Stated of ILLEGAL.
R338, R355, R389: `rte` asks for handler mode or a supervisor address space, `tlbinv` and `gen.bump` for a supervisor
address space, `sys.rd` and `sys.wr` for the level of their selector's range; without it PROT is raised and nothing is
done. -/
def Obligations.RefusedInstructions : Prop := (
  ∀ (s : State) (i : Instr), s.issuing = true → Delivers s →
    (i.wf = false ∨ i.gmOk s.spl.gm = false ∨ (i.isBank = true ∧ 512 ≤ s.blk.core) →
      (encode i).isSome = true → TrapsFrom i s s tILLEGAL) ∧
    (∀ x, TrapsFrom (.ill x) s s tILLEGAL) ∧
    ∀ (t : State) (w : Word) (e : DecodeError), s.agenda = [] → s.hostUp = true → s.turn = true →
      s.mayFetch = true → s.fetch = (t, .ok w) → decode w = .error e →
      ∃ v, step s = .next v ∧ Entered t v tILLEGAL ∧ SameData t v) ∧ (
  ∀ (s : State) (x : BitVec 24), s.issuing = true → Delivers s → s.spl.redo = [] →
    ∃ t, exec (.ill x) s = .next t ∧ Entered s t tILLEGAL ∧
      bits (sget 0 t.grp.trap 0) 27 23 = 1 ∧ sget 0 t.grp.trap 6 = s.spl.pc.setWidth 64 ∧ sget 0 t.grp.ldone 0 = 0 ∧
      sget 0 t.grp.trap 3 = (s.spl.pc + 4).setWidth 64) ∧ (
  ∀ (s : State) (d a : Reg) (p : Perm) (l : BitVec 4) (x : BitVec 1) (sl : BitVec 12), s.issuing = true → Delivers s →
    let denied := fun (i : Instr) => i.wf = true → TrapsFrom i s s tPROT
    s.sup s.blk.asid = false →
      denied .rte ∧ denied (.tlbinv d a p l x) ∧ denied (.genBump d a p l) ∧
      (0x100 ≤ sl.toNat → denied (.sysRd d sl) ∧ denied (.sysWr d sl)))

/-- R377, R380, R383: `trap` and `brk` enter the trap routine with their immediate in the record, nothing listed and NPC
at the next word; `tfence` raises ARITH so, with the flags, where an enabled flag is set, and else completes.
R377, R379: a trap in handler mode removes the context with cause DOUBLE (0x12), and without a trap routine with cause
NOTVEC (0x13).
R383: `rte` outside handler mode raises ICONV; in handler mode a misaligned NPC or FPC removes the context (R379);
otherwise the split of the record goes on with the em (within its domain) and gm of the record at its first listed
instruction, else at NPC, and handler mode ends. -/
def Obligations.TrapsAndReturns : Prop := (
  ∀ (s : State) (n : BitVec 8), s.spl.redo = [] →
    let record := fun (i : Instr) (code : Nat) (imm : BitVec 8) (fl en : BitVec 6) =>
      ∃ t, exec i s = .next t ∧ Entered (s.ready i) t code ∧ SameData (s.ready i) t ∧
        let w := fun k => sget 0 t.grp.trap k
        bits (w 0) 35 28 = imm.toNat ∧ bits (w 0) 27 23 = 0 ∧ bits (w 0) 41 36 = fl.toNat ∧ bits (w 0) 47 42 = en.toNat ∧
          bits (w 0) 14 13 = s.grp.pendOthers s.cur ∧ w 1 = 0 ∧ w 2 = 0 ∧ w 3 = (s.spl.pc + 4).setWidth 64
    (Runs (.trap n) s → Delivers s → record (.trap n) tSWTRAP n 0 0) ∧
    (Runs (.brk n) s → Delivers s → record (.brk n) tBRK n 0 0) ∧
    (Runs .tfence s → let hit := s.seenFlags &&& gmTE s.spl.gm
      (hit = 0 → Sets .tfence s nowhere) ∧ (hit ≠ 0 → Delivers s → record .tfence tARITH 0 s.grp.fl hit))) ∧ (
  ∀ (s : State) (n : BitVec 8), Runs (.trap n) s → AtOnce s →
    (∀ r ∈ s.mgmt.removing, r.1 ≠ s.blk.asid) →
    (s.grp.handler ≠ none → Removes (.trap n) s 0x12) ∧
    (s.grp.handler = none → s.tvec s.blk.asid = 0 → Removes (.trap n) s 0x13)) ∧ (
  ∀ s : State, Runs .rte s →
    let w := fun k => sget 0 s.grp.trap k
    let nflt := bits (w 0) 27 23
    let k := bits (w 0) 16 15
    let aligned := bits (w 3) 1 0 = 0 ∧ ∀ j < nflt, bits (w (6 + j)) 1 0 = 0
    let u := s.ready .rte
    (s.grp.handler = none → Delivers s → Traps .rte s tICONV) ∧
    (s.grp.handler ≠ none → ¬aligned → AtOnce s →
      (∀ r ∈ s.mgmt.removing, r.1 ≠ s.blk.asid) → Removes .rte s 0x12) ∧
    (s.grp.handler ≠ none → aligned → s.grp.pendCount = 0 → ∃ t, exec .rte s = .next t ∧ SameData u t ∧
      t.grp.handler = none ∧ t.cur = k ∧ t.spl.gm = w 5 ∧ t.spl.dm = (s.grp.splitAt k).dm ∧
      t.spl.em = (w 4).setWidth 32 &&& (s.grp.splitAt k).dm ∧
      t.spl.pc = (if nflt = 0 then (w 3).setWidth 57 else (w 6).setWidth 57)))

/-! ## Special registers, clocks and translations (0xF6 to 0xFC) -/

/-- R355, R356, R389: `sys.rd` writes the selected register to the pair's control lane, the generator states to each
active lane, and traps on an index that the selector does not take; a read of a lane's tap word restarts its error
count.
R357: `clk` reads the die's clk or the module's time base and `grn` a grain meter, into the pair's control
lane. -/
def Obligations.SystemReadsAndClocks : Prop := (
  ∀ (s : State) (d : Reg) (sl : BitVec 12), Runs (.sysRd d sl) s →
    let u := s.ready (.sysRd d sl)
    let idx := if sl.toNat < 0x200 then 0 else (u.scalar d).toNat
    let gives := fun (v : DWord) => Sets (.sysRd d sl) s (inCtlPair u d v)
    (sl = 2 → Sets (.sysRd d sl) s (inPairs u d fun k => sget 0 u.grp.gs k)) ∧
    (sl = 0 → gives (u.grp.sp.setWidth 64)) ∧
    (sl = 1 → u.grp.region = none → gives (u.grp.fl.setWidth 64)) ∧
    (sl = 0x100 → gives (u.tvec u.blk.asid)) ∧
    (sl = 0x101 → gives (sget 0 u.iso.saveva u.blk.asid)) ∧
    (0x110 ≤ sl.toNat → sl.toNat ≤ 0x125 → gives (sget 0 u.grp.trap (sl.toNat - 0x110))) ∧
    (0x130 ≤ sl.toNat → sl.toNat ≤ 0x137 → gives (sget 0 u.grp.hscr (sl.toNat - 0x130))) ∧
    (0x150 ≤ sl.toNat → sl.toNat ≤ 0x15F → gives ((sget 0 u.grp.ldone (sl.toNat - 0x150)).setWidth 64)) ∧
    (sl ≠ 2 → sl ≠ 0x211 → u.indexStop sl.toNat idx = none → gives (u.selector sl.toNat idx)) ∧
    (sl = 0x211 → u.indexStop sl.toNat idx = none → ∃ t, exec (.sysRd d sl) s = .next t ∧
      RegsBecome u t (inCtlPair u d (sget 0 u.links.taps idx)) ∧ KeptGroup u.grp t.grp ∧ KeptSplits u t ∧ KeptMemory u t ∧
      KeptFlags u t ∧ Onward s t ∧ t.links = { u.links with taps := t.links.taps } ∧
      ∀ k, sget 0 t.links.taps k = if k = idx then setBits (sget 0 u.links.taps idx) 63 32 0 else sget 0 u.links.taps k) ∧
    (∀ c, sl ≠ 2 → u.indexStop sl.toNat idx = some c → Delivers s → Traps (.sysRd d sl) s c) ∧
    (sl = 0x200 → 131072 ≤ idx → Delivers s → Traps (.sysRd d sl) s tICONV) ∧
    (sl = 0x200 → idx < 131072 → u.ownAsid (idx / 2) = false → Delivers s → Traps (.sysRd d sl) s tPROT) ∧
    (sl = 0x200 → idx < 131072 → u.ownAsid (idx / 2) = true → gives (u.spaceWord (idx / 2) (idx % 2)))) ∧ (
  ∀ (s : State) (d : Reg),
    (Runs (.clk d 0) s → let u := s.ready (.clk d 0)
      Sets (.clk d 0) s (inCtlPair u d (BitVec.ofNat 64 (u.clkOf (dieOf u.blk.core))))) ∧
    (Runs (.clk d 1) s → let u := s.ready (.clk d 1)
      Sets (.clk d 1) s (inCtlPair u d (BitVec.ofNat 64 u.mgmt.ns))) ∧
    (Runs (.grn d 0) s → let u := s.ready (.grn d 0)
      Sets (.grn d 0) s (inCtlPair u d (sget 0 u.iso.meter u.blk.asid))) ∧
    (Runs (.grn d 1) s → let u := s.ready (.grn d 1)
      Sets (.grn d 1) s (inCtlPair u d (u.vfWord (u.vfOf u.blk.asid) 2))))

/-- R355, R356, R380, R389: `sys.wr` writes sp within the spill area in words, fl, the generator states (0 as the constant
of R38), TVEC and SAVEVA where aligned, the scratch words and the record's NPC; what is read-only stays; a value that does
not fit raises ICONV, and inside an open region it raises PROT, which aborts it. -/
def Obligations.SystemWrites : Prop :=
  ∀ (s : State) (d : Reg) (sl : BitVec 12), Runs (.sysWr d sl) s →
    let u := s.ready (.sysWr d sl)
    let v := u.scalar64 d
    let idx := if sl.toNat < 0x200 then 0 else (u.source (d.toNat + 2) u.ctl).toNat
    let gives := Performs (.sysWr d sl) s
    let fits := v.toNat % 4 = 0 ∧ u.spillBottom ≤ v.toNat ∧ v.toNat ≤ u.spillTop
    (∀ r, s.grp.region = some r → s.outstanding = false → s.othersBusy = false → s.spl.pending = [] → s.spl.spec = none →
      ∃ t, exec (.sysWr d sl) s = .next t ∧ t.grp.region = none ∧ bits t.grp.ts 3 0 = 4 ∧ (t.grp.splitAt 0).pc = r.handler) ∧
    (s.grp.region = none →
    (sl = 0 → fits → gives { u with grp := { u.grp with sp := v.setWidth 21 } }) ∧
    (sl = 0 → ¬fits → Delivers s → Traps (.sysWr d sl) s tICONV) ∧
    (sl = 1 → gives { u with grp := { u.grp with fl := v.setWidth 6 } }) ∧
    (sl = 2 → ∃ t, exec (.sysWr d sl) s = .next t ∧ Kept u t ∧ RegsBecome u t nowhere ∧ t.grp.fl = u.landed ∧
      t.grp.region = none ∧ Onward s t ∧ ∀ k < 32, sget 0 t.grp.gs k = if k ∈ u.active then
        (let x := join64 (u.source d.toNat k) (u.source (d.toNat + 1) k)
         if x = 0 then 0x9E3779B97F4A7C15 else x) else sget 0 u.grp.gs k) ∧
    (sl = 0x100 → v.toNat < 2 ^ 57 → v.toNat % 4 = 0 → ∃ t, exec (.sysWr d sl) s = .next t ∧ t.tvec u.blk.asid = v ∧
      (∀ a, a ≠ u.blk.asid → t.tvec a = u.tvec a) ∧ SameData { u with iso := { u.iso with tvec := t.iso.tvec } } t ∧ Onward s t) ∧
    (sl = 0x100 → ¬(v.toNat < 2 ^ 57 ∧ v.toNat % 4 = 0) → Delivers s → Traps (.sysWr d sl) s tICONV) ∧
    (sl = 0x101 → v.toNat % 4096 = 0 → ∃ t, exec (.sysWr d sl) s = .next t ∧ sget 0 t.iso.saveva u.blk.asid = v ∧
      (∀ a, a ≠ u.blk.asid → sget 0 t.iso.saveva a = sget 0 u.iso.saveva a) ∧
      SameData { u with iso := { u.iso with saveva := t.iso.saveva } } t ∧ Onward s t) ∧
    (sl = 0x101 → v.toNat % 4096 ≠ 0 → Delivers s → Traps (.sysWr d sl) s tICONV) ∧
    (0x130 ≤ sl.toNat → sl.toNat ≤ 0x137 → ∃ t, exec (.sysWr d sl) s = .next t ∧ sget 0 t.grp.hscr (sl.toNat - 0x130) = v ∧
      SameData u t ∧ Onward s t) ∧
    (sl = 0x113 → ∃ t, exec (.sysWr d sl) s = .next t ∧ sget 0 t.grp.trap 3 = (v.setWidth 57).setWidth 64 ∧ SameData u t ∧
      Onward s t) ∧
    (3 ≤ sl.toNat ∧ sl.toNat ≤ 6 ∨ sl = 0x140 → Sets (.sysWr d sl) s nowhere) ∧
    (∀ w, sl ≠ 2 → u.indexStop sl.toNat idx = none → u.writeSelector sl.toNat idx v = .inl w → gives w) ∧
    (∀ c, sl ≠ 2 → u.indexStop sl.toNat idx = some c → Delivers s → Traps (.sysWr d sl) s c) ∧
    (∀ c, sl ≠ 2 → u.indexStop sl.toNat idx = none → u.writeSelector sl.toNat idx v = .inr c → Delivers s →
      Traps (.sysWr d sl) s c))

/-- R192, R193, R194, R358: `tlbinv` drops the translations of the range and writes 0, `gen.bump` makes the next
generation current and writes it, each outside a region, for an address space of the issuer's function that is valid, with
nothing of it under way; before a holder acknowledges, a request it issued under a dropped translation is judged at its
home, and the bump's completion rejects every request under an old generation. -/
def Obligations.Translations : Prop :=
  ∀ (s : State) (d a : Reg) (p : Perm) (l : BitVec 4),
    (∀ x : BitVec 1, Runs (.tlbinv d a p l x) s → let u := s.ready (.tlbinv d a p l x)
      let asid := bits (u.operand (a.toNat + 3) p u.ctl) 15 0
      let base := (u.operand64 a.toNat p u.ctl).toNat
      let n := (u.operand (a.toNat + 2) p u.ctl).toNat
      let die := dieOf u.blk.core
      let under := fun (r : Request) => if x = 1 then u.underPages die asid 0 (2 ^ 45) r else u.underPages die asid (base / 4096) n r
      bits (u.operand (a.toNat + 3) p u.ctl) 31 16 = 0 → (x = 0 → base % 4096 = 0 ∧ base + 4096 * n ≤ 2 ^ 57) →
      u.grp.region = none → u.ownAsid asid = true → u.spaceValid asid = true → u.draining = false → u.quiet = true →
      (∀ r ∈ u.mem.requests ++ u.mem.reductions, under r = false) → u.enginesMoving asid (· == die) = false →
      ∃ t, exec (.tlbinv d a p l x) s = .next t ∧ RegsBecome u t (inCtl u d 0) ∧ Kept u t ∧ KeptFlags u t ∧ Onward s t ∧
        ∀ e ∈ u.mem.tlb, e ∈ t.mem.tlb ↔ ¬(e.asid = asid ∧ reaches die e.holder = true ∧
          if x = 1 then e.page < 2 ^ 45 else base ≤ 4096 * e.page ∧ 4096 * e.page < base + 4096 * n)) ∧
    (Runs (.genBump d a p l) s → let u := s.ready (.genBump d a p l)
      let asid := bits (u.operand a.toNat p u.ctl) 15 0
      bits (u.operand a.toNat p u.ctl) 31 16 = 0 → u.grp.region = none → u.ownAsid asid = true → u.spaceValid asid = true →
      u.draining = false → u.oldBuffers asid = false → u.enginesMoving asid (fun _ => true) = false →
      (∀ r ∈ u.mem.requests ++ u.mem.reductions, r.rejected = true ∨ r.spad = true ∨
        (r.asid ≠ asid ∧ u.exportedBy asid r.cp = false)) →
      ∃ t, exec (.genBump d a p l) s = .next t ∧ t.gen asid = (u.gen asid + 1) % 65536 ∧
        RegsBecome u t (inCtl u d (BitVec.ofNat 32 ((u.gen asid + 1) % 65536))) ∧ KeptSplits u t ∧ KeptFlags u t ∧
        (∀ pa cp, t.byteAt (pa, cp) = u.byteAt (pa, cp)) ∧ (∀ r ∈ t.grp.lr, r.2.asid ≠ asid) ∧ Onward s t) ∧
    (∀ asid, ∃ t, exec (.genBumpComplete asid) s = .next t ∧
      t.mem.requests.length + t.mem.reductions.length = s.mem.requests.length + s.mem.reductions.length ∧
      (∀ r ∈ t.mem.requests, r.spad = false → r.asid = asid → r.gen ≠ s.gen asid → r.rejected = true) ∧
      ∀ r ∈ t.mem.requests ++ t.mem.reductions, s.oldRequest asid r = false) ∧
    ∀ die holder asid lo pages r, s.mem.requests = [r] → s.mem.reductions = [] → r.red = none → r.core = holder →
      s.underPages die asid lo pages r = true → ∃ t, exec (.tlbinvAck die holder asid lo pages) s = .next t ∧
        t.mem = (s.arriveHome 0).mem ∧ t.grp = (s.arriveHome 0).grp ∧ t.blk = (s.arriveHome 0).blk ∧
        t.blocks = (s.arriveHome 0).blocks

/-! ## Integer instructions (0x20 to 0x45) -/

/-- R101 and R103 with R100: `add`, `sub`, `abs` and `neg` give the wrapped word without SAT, and with SAT the clamped one
and the flag SA; `addc` and `subb` take and give their carry and borrow; `min` and `max` choose by the signedness of TA. -/
def Obligations.IntegerArithmetic : Prop :=
  ∀ (s : State) (d a : Reg) (p : Perm) (b : Reg) (q : Perm),
    Wraps (.add d a p b q) s d (fun u k => u.operand a.toNat p k + u.operandB b.toNat q k) ∧
    Clamps (.add d a p b q) s d (fun u k => u.int a p k + u.intB b q k) ∧
    Wraps (.sub d a p b q) s d (fun u k => u.operand a.toNat p k - u.operandB b.toNat q k) ∧
    Clamps (.sub d a p b q) s d (fun u k => u.int a p k - u.intB b q k) ∧
    (Runs (.addc d a p b q) s → let u := s.ready (.addc d a p b q)
      Sets (.addc d a p b q) s (inPairs u d fun k =>
        (u.operand a.toNat p k).setWidth 64 + (u.operandB b.toNat q k).setWidth 64 +
          (u.source (d.toNat + 1) k &&& 1).setWidth 64)) ∧
    (Runs (.subb d a p b q) s → let u := s.ready (.subb d a p b q)
      Sets (.subb d a p b q) s (inPairs u d fun k =>
        let z : DWord := (u.operand a.toNat p k).setWidth 64 - (u.operandB b.toNat q k).setWidth 64 -
          (u.source (d.toNat + 1) k &&& 1).setWidth 64
        (z &&& 0xFFFFFFFF) ||| (z >>> 63 <<< 32))) ∧
    LaneOp2 (.min d a p b q) s d a p b q (fun x y =>
      if isNat s.spl.gm then (if y.toNat < x.toNat then y else x) else if y.toInt < x.toInt then y else x) ∧
    LaneOp2 (.max d a p b q) s d a p b q (fun x y =>
      if isNat s.spl.gm then (if x.toNat < y.toNat then y else x) else if x.toInt < y.toInt then y else x) ∧
    Wraps (.neg d a p) s d (fun u k => -u.operand a.toNat p k) ∧
    Clamps (.neg d a p) s d (fun u k => -u.int a p k) ∧
    Wraps (.abs d a p) s d (fun u k => if isNat u.spl.gm = false ∧ (u.operand a.toNat p k).msb then -u.operand a.toNat p k
      else u.operand a.toNat p k) ∧
    Clamps (.abs d a p) s d (fun u k => |u.int a p k|)

/-- R102 and R105 with R100: `mul` and `mad` wrap or clamp; `mulh` and `mulhn` give the high word of the product, rounded to
nearest in `mulhn`; shifts by the low eight bits of vb, the rotate by its low five, and `dsh` by K of gm: a shift by 32 or
more leaves no bit but, in `sar`, the sign, and `shl` clamps under SAT. -/
def Obligations.ProductsAndShifts : Prop :=
  ∀ (s : State) (d a : Reg) (p : Perm) (b : Reg) (q : Perm),
    Wraps (.mul d a p b q) s d (fun u k => u.operand a.toNat p k * u.operandB b.toNat q k) ∧
    Clamps (.mul d a p b q) s d (fun u k => u.int a p k * u.intB b q k) ∧
    Wraps (.mad d a p b q) s d (fun u k => u.operand a.toNat p k * u.operandB b.toNat q k + u.source d.toNat k) ∧
    Clamps (.mad d a p b q) s d (fun u k => u.int a p k * u.intB b q k + intVal u.spl.gm (u.source d.toNat k)) ∧
    (Runs (.mulh d a p b q) s → let u := s.ready (.mulh d a p b q)
      Sets (.mulh d a p b q) s (inLanes u d fun k =>
        let x := u.operand a.toNat p k
        let y := u.operandB b.toNat q k
        if isNat u.spl.gm then high32 (x.setWidth 64 * y.setWidth 64) else high32 (x.signExtend 64 * y.signExtend 64))) ∧
    (Runs (.mulhn d a p b q) s → let u := s.ready (.mulhn d a p b q)
      Sets (.mulhn d a p b q) s (inLanes u d fun k =>
        let x := u.operand a.toNat p k
        let y := u.operandB b.toNat q k
        if isNat u.spl.gm then high32 (x.setWidth 64 * y.setWidth 64 + 0x80000000)
        else high32 (x.signExtend 64 * y.signExtend 64 + 0x80000000))) ∧
    Wraps (.shl d a p b q) s d (fun u k =>
      BitVec.ofNat 32 ((u.operand a.toNat p k).toNat * 2 ^ ((u.operandB b.toNat q k).toNat % 256))) ∧
    Clamps (.shl d a p b q) s d (fun u k => u.int a p k * 2 ^ ((u.operandB b.toNat q k).toNat % 256)) ∧
    LaneOp2 (.shr d a p b q) s d a p b q (fun x y => BitVec.ofNat 32 (x.toNat / 2 ^ (y.toNat % 256))) ∧
    LaneOp2 (.sar d a p b q) s d a p b q (fun x y => BitVec.ofInt 32 (x.toInt / 2 ^ (y.toNat % 256))) ∧
    LaneOp2 (.rot d a p b q) s d a p b q (fun x y => x <<< (y.toNat % 32) ||| x >>> (32 - y.toNat % 32)) ∧
    LaneOp2 (.dsh d a p b q) s d a p b q (fun x y =>
      ((y.setWidth 64 <<< 32 ||| x.setWidth 64 : DWord) >>> gmK s.spl.gm).setWidth 32)

/-- R104, R108: the logic operations, `mov`, and `sel` by the mask in the control lane of its destination. -/
def Obligations.LogicAndSelection : Prop :=
  ∀ (s : State) (d a : Reg) (p : Perm) (b : Reg) (q : Perm),
    LaneOp2 (.and d a p b q) s d a p b q (fun x y => x &&& y) ∧
    LaneOp2 (.or d a p b q) s d a p b q (fun x y => x ||| y) ∧
    LaneOp2 (.xor d a p b q) s d a p b q (fun x y => x ^^^ y) ∧
    LaneOp2 (.andn d a p b q) s d a p b q (fun x y => x &&& ~~~y) ∧
    LaneOp1 (.not d a p) s d a p (fun x => ~~~x) ∧
    LaneOp1 (.mov d a p) s d a p (fun x => x) ∧
    (Runs (.sel d a p b q) s → let u := s.ready (.sel d a p b q)
      Sets (.sel d a p b q) s (inLanes u d fun k =>
        if (u.source d.toNat u.ctl).getLsbD k then u.operand a.toNat p k else u.operandB b.toNat q k))

/-- R106, R107, R110: counts of bits, the reversal, and bit fields taken, placed and extended, told bit by bit.
R109, R110: comparisons write a mask of the active lanes to the control lane; `add64` and `lea` write pairs. -/
def Obligations.CountsFieldsCompares : Prop := (
  ∀ (s : State) (d a : Reg) (p : Perm) (b : Reg) (q : Perm),
    LaneRel (.lzc d a p) s d a p 0 0 (fun x _ _ v => v.toNat ≤ 32 ∧
      (∀ j < 32, 32 - v.toNat ≤ j → x.getLsbD j = false) ∧ (v.toNat < 32 → x.getLsbD (31 - v.toNat) = true)) ∧
    LaneRel (.tzc d a p) s d a p 0 0 (fun x _ _ v => v.toNat ≤ 32 ∧
      (∀ j < v.toNat, x.getLsbD j = false) ∧ (v.toNat < 32 → x.getLsbD v.toNat = true)) ∧
    LaneRel (.ones d a p) s d a p 0 0 (fun x _ _ v => v.toNat = (List.range 32).countP x.getLsbD) ∧
    LaneRel (.rvb d a p) s d a p 0 0 (fun x _ _ v => ∀ j < 32, v.getLsbD j = x.getLsbD (31 - j)) ∧
    LaneRel (.bxt d a p b q) s d a p b q (fun x y _ v =>
      let pos := y.toNat % 32
      let l := min (y.toNat / 256 % 64) (32 - pos)
      ∀ j < 32, v.getLsbD j = if j < l then x.getLsbD (pos + j)
        else if isNat s.spl.gm = false ∧ 0 < l then x.getLsbD (pos + l - 1) else false) ∧
    LaneRel (.bdp d a p b q) s d a p b q (fun x y old v =>
      let pos := y.toNat % 32
      let l := min (y.toNat / 256 % 64) (32 - pos)
      ∀ j < 32, v.getLsbD j = if pos ≤ j ∧ j < pos + l then x.getLsbD (j - pos) else old.getLsbD j) ∧
    LaneRel (.sxt d a p b q) s d a p b q (fun x y _ v =>
      let w := y.toNat % 64
      ∀ j < 32, v.getLsbD j = if w = 0 ∨ j < w then x.getLsbD j else x.getLsbD (min w 32 - 1)) ∧
    LaneRel (.zxt d a p b q) s d a p b q (fun x y _ v =>
      let w := y.toNat % 64
      ∀ j < 32, v.getLsbD j = if w = 0 ∨ j < w then x.getLsbD j else false)) ∧ (
  ∀ (s : State) (d a : Reg) (p : Perm) (b : Reg) (q : Perm),
    MaskOp (.cmpeq d a p b q) s d (fun u k => u.operand a.toNat p k = u.operandB b.toNat q k) ∧
    MaskOp (.cmpne d a p b q) s d (fun u k => u.operand a.toNat p k ≠ u.operandB b.toNat q k) ∧
    MaskOp (.cmplt d a p b q) s d (fun u k => u.int a p k < u.intB b q k) ∧
    MaskOp (.cmple d a p b q) s d (fun u k => u.int a p k ≤ u.intB b q k) ∧
    (Runs (.add64 d a p b q) s → let u := s.ready (.add64 d a p b q)
      Sets (.add64 d a p b q) s (inPairs u d fun k => u.operand64 a.toNat p k +
        join64 (u.operandB b.toNat q k) (u.operandB (b.toNat + 1) q k))) ∧
    (Runs (.lea d a p b q) s → let u := s.ready (.lea d a p b q)
      Sets (.lea d a p b q) s (inPairs u d fun k =>
        let o := u.operandB b.toNat q k
        u.operand64 a.toNat p k + (if isNat u.spl.gm then o.setWidth 64 else o.signExtend 64) <<< gmK u.spl.gm)))

/-! ## Control (0x00 to 0x17) -/

/-- R306: a branch goes to pc + 4 times the signed offset when its condition holds on the control lane, else to the next
word; a target outside the virtual address space raises PAGE. -/
def Obligations.Branches : Prop :=
  ∀ (s : State) (c : Reg) (o : BitVec 18),
    let t : Int := s.spl.pc.toNat + 4 * o.toInt
    let go := fun (i : Instr) (taken : State → Prop) => Runs i s →
      (taken (s.ready i) → 0 ≤ t ∧ t < 2 ^ 57 → Jumps i s (BitVec.ofInt 57 t) nowhere) ∧
      (taken (s.ready i) → ¬(0 ≤ t ∧ t < 2 ^ 57) → Delivers s → Traps i s tPAGE) ∧
      (¬taken (s.ready i) → Sets i s nowhere)
    go (.br o) (fun _ => True) ∧
    go (.bz c o) (fun u => u.scalar c = 0) ∧
    go (.bnz c o) (fun u => u.scalar c ≠ 0) ∧
    go (.bmz c o) (fun u => u.scalar c &&& u.effMask = 0) ∧
    go (.bmnz c o) (fun u => u.scalar c &&& u.effMask ≠ 0)

/-- R305, R307: `call` saves the address of the next word in its pair and branches; `ret` and `jmpr` take pc from a pair;
`nop` goes on. A target outside the virtual address space raises PAGE.
R305: `limm`, `lhi` and `idx` write every active lane and the control lane; `idx` takes the seven indices and no other
selector. -/
def Obligations.CallsAndConstants : Prop := (
  ∀ (s : State) (c : Reg) (o : BitVec 18),
    let t : Int := s.spl.pc.toNat + 4 * o.toInt
    let pair := fun (u : State) => join64 (u.source c.toNat u.ctl) (u.source (c.toNat + 1) u.ctl)
    (Runs (.call c o) s →
      (0 ≤ t ∧ t < 2 ^ 57 →
        Jumps (.call c o) s (BitVec.ofInt 57 t) (inCtlPair (s.ready (.call c o)) c ((s.spl.pc + 4).setWidth 64))) ∧
      (¬(0 ≤ t ∧ t < 2 ^ 57) → Delivers s → Traps (.call c o) s tPAGE)) ∧
    (Runs (.ret c) s → let w := pair (s.ready (.ret c))
      (w.toNat < 2 ^ 57 → Jumps (.ret c) s (w.setWidth 57) nowhere) ∧
      (2 ^ 57 ≤ w.toNat → Delivers s → Traps (.ret c) s tPAGE)) ∧
    (Runs (.jmpr c o) s → let w := pair (s.ready (.jmpr c o)) + 4 * o.signExtend 64
      (w.toNat < 2 ^ 57 → Jumps (.jmpr c o) s (w.setWidth 57) nowhere) ∧
      (2 ^ 57 ≤ w.toNat → Delivers s → Traps (.jmpr c o) s tPAGE)) ∧
    (Runs .nop s → Sets .nop s nowhere)) ∧ (
  ∀ (s : State) (d : Reg) (i : BitVec 18),
    (Runs (.limm d i) s → Sets (.limm d i) s (inUniform (s.ready (.limm d i)) d fun _ => i.signExtend 32)) ∧
    (Runs (.lhi d i) s → let u := s.ready (.lhi d i)
      Sets (.lhi d i) s (inUniform u d fun k =>
        BitVec.ofNat 32 (i.toNat % 2 ^ 18 * 2 ^ 14 + (u.source d.toNat k).toNat % 2 ^ 14))) ∧
    (Runs (.idx d i) s → let u := s.ready (.idx d i)
      let all := fun (n : Nat) => Sets (.idx d i) s (inUniform u d fun _ => BitVec.ofNat 32 n)
      (i = 0 → Sets (.idx d i) s (inUniform u d fun k => BitVec.ofNat 32 k)) ∧ (i = 1 → all s.grp.idx) ∧
      (i = 2 → all s.blk.idx) ∧ (i = 3 → all s.blk.spanIdx) ∧
      (i = 4 → s.blk.core < 640 → all (if isNear s.blk.core then s.blk.core - 512 else s.blk.core)) ∧
      (i = 5 → s.blk.core < 640 → all (if isNear s.blk.core then dieOf s.blk.core - 32 else dieOf s.blk.core)) ∧
      (i = 6 → all s.grp.slot)) ∧
    ((Instr.idx d i).wf = true ↔ i.toNat ≤ 6))

/-- R61, R62: `mode` writes the old gm to its pair's control lane and replaces the bits of gm that its mask names, unless a
reserved value would arise (ILLEGAL, nothing done); `modei` replaces the bits of one field with its immediate, which the
field must hold. The em, every other split, every other register, flags, memory and the device stay.
R24, R308: the four operations on em: em is never wider than the domain, the old em goes to the control lane, and
the gm, every other split, every other register, flags, memory and the device stay. -/
def Obligations.ModesAndMasks : Prop := (
  ∀ (s : State) (d a : Reg) (p : Perm) (b : Reg) (q : Perm) (sl : BitVec 6) (i : BitVec 18),
    let sets := fun (j : Instr) (gm : DWord) (new : Nat → Nat → Option Word) => let u := s.ready j
      ∃ t, exec j s = .next t ∧ t.spl.gm = gm ∧ t.spl.em = u.spl.em ∧ RegsBecome u t new ∧ KeptTable u t ∧
        KeptGroup u.grp t.grp ∧ KeptDevice u t ∧ KeptMemory u t ∧ KeptFlags u t ∧ Onward s t
    (Runs (.mode d a p b q) s → let u := s.ready (.mode d a p b q)
      let m := join64 (u.operandB b.toNat q u.ctl) (u.operandB (b.toNat + 1) q u.ctl)
      let new := (s.spl.gm &&& ~~~m) ||| (u.operand64 a.toNat p u.ctl &&& m)
      (gmLegal new = true → sets (.mode d a p b q) new (inCtlPair u d s.spl.gm)) ∧
      (gmLegal new = false → Delivers s → Traps (.mode d a p b q) s tILLEGAL)) ∧
    (let fields : List (BitVec 6 × Nat × Nat) := [(0, 0, 7), (1, 9, 5), (2, 14, 5), (3, 19, 3), (4, 22, 1), (5, 23, 5),
        (6, 28, 5), (7, 33, 6), (8, 39, 1), (9, 9, 10), (10, 19, 4)]
     (Runs (.modei sl i) s → ∃ x ∈ fields, sl = x.1 ∧ ∃ gm : DWord, sets (.modei sl i) gm nowhere ∧
        ∀ j < 64, gm.getLsbD j =
          if x.2.1 ≤ j ∧ j < x.2.1 + x.2.2 then i.getLsbD (j - x.2.1) else s.spl.gm.getLsbD j) ∧
     ((Instr.modei sl i).wf = true ↔ ∃ x ∈ fields, sl = x.1 ∧ i.toNat < 2 ^ x.2.2 ∧
        gmLegal (BitVec.ofNat 64 (i.toNat * 2 ^ x.2.1)) = true))) ∧ (
  ∀ (s : State) (d a : Reg) (p : Perm),
    let go := fun (i : Instr) (f : Word → Word → Word) => Runs i s → let u := s.ready i
      ∃ t, exec i s = .next t ∧ t.spl.em = f s.spl.em (u.operand a.toNat p u.ctl) &&& s.spl.dm ∧
        t.spl.gm = u.spl.gm ∧ RegsBecome u t (inCtl u d s.spl.em) ∧ KeptTable u t ∧
        KeptGroup u.grp t.grp ∧ KeptDevice u t ∧ KeptMemory u t ∧ KeptFlags u t ∧ Onward s t
    go (.emSet d a p) (fun _ x => x) ∧
    go (.emAnd d a p) (fun e x => e &&& x) ∧
    go (.emAndn d a p) (fun e x => e &&& ~~~x) ∧
    (Runs (.emGet d) s → Sets (.emGet d) s (inCtl (s.ready (.emGet d)) d s.spl.em)))

/-- R22, R309: `split` of a group that is not split, with two or more codes among its lanes: every lane goes to a live
split that holds exactly the lanes of its code, at the word of the table that its code names, with its bit of em and the
gm of the group; the splits are numbered from 0 upwards by their lowest lanes, and there is one for each code. With one
code the group goes on whole. An arm outside the virtual address space raises PAGE; in a split group `split` raises
ILLEGAL. -/
def Obligations.Splitting : Prop :=
  ∀ (s : State) (c : Reg) (o : BitVec 18), Runs (.split c o) s →
    let u := s.ready (.split c o)
    let code := fun (k : Nat) => bits (join64 (u.source c.toNat u.ctl) (u.source (c.toNat + 1) u.ctl)) (2 * k + 1) (2 * k)
    let table : Int := s.spl.pc.toNat + 4 * o.toInt
    let inside := ∀ k < 32, 0 ≤ table + 4 * code k ∧ table + 4 * code k < 2 ^ 57
    (s.grp.isSplit = true → Delivers s → Traps (.split c o) s tILLEGAL) ∧
    (s.grp.isSplit = false → s.grp.region = none →
      (¬inside → Delivers s → Traps (.split c o) s tPAGE) ∧
      (inside → (∀ k < 32, code k = code 0) → Jumps (.split c o) s (BitVec.ofInt 57 (table + 4 * code 0)) nowhere) ∧
      (inside → (∃ k < 32, code k ≠ code 0) → ∃ t, exec (.split c o) s = .next t ∧ SameData u t ∧
        KeptGroup u.grp t.grp ∧
        (∀ n < 4, (distinct ((List.range 32).map code)).length ≤ n → (t.grp.splitAt n).st = .free) ∧
        ∀ k < 32, (∀ j < k, code j ≠ code k) →
          let n := (distinct ((List.range k).map code)).length
          n < 4 ∧ (t.grp.splitAt n).st = .live ∧
          (∀ j < 32, (t.grp.splitAt n).dm.getLsbD j = true ↔ code j = code k) ∧
          (∀ j < 32, (t.grp.splitAt n).em.getLsbD j = true ↔ s.spl.em.getLsbD j = true ∧ code j = code k) ∧
          (t.grp.splitAt n).pc = BitVec.ofInt 57 (table + 4 * code k) ∧ (t.grp.splitAt n).gm = s.spl.gm))

/-- R27, R204, R310, R311: `join` and `exit` while another split of the group is live: the split arrives or ends, the
others stand as they were and no data changes. Once no split is live the group goes on whole, with the em of every arrived
split, the gm and the target of the lowest of them; where none has arrived by `join` the group ends, and the barriers of
its block that wait for it alone complete a phase. `join` of a group that is not split is a branch; in a split one it waits
for the split's earlier writes and reductions. That a split waiting at `join` holds the target in its pc is the model's
reading (log entry 2). -/
def Obligations.JoinAndExit : Prop :=
  ∀ (s : State) (o : BitVec 18), s.cur < 4 →
    let t : Int := s.spl.pc.toNat + 4 * o.toInt
    let others := (List.range 4).filter (· != s.cur)
    let left := fun (i : Instr) (p : Split) => let u := s.ready i
      let ps := fun (k : Nat) => if k = s.cur then p else u.grp.splitAt k
      ((∃ k ∈ others, (s.grp.splitAt k).st = .live) → ∃ v, exec i s = .next v ∧
        (v.grp.splitAt s.cur).st = p.st ∧ (v.grp.splitAt s.cur).pc = p.pc ∧ (v.grp.splitAt s.cur).em = p.em ∧
        (v.grp.splitAt s.cur).dm = p.dm ∧ (v.grp.splitAt s.cur).gm = p.gm ∧
        (∀ k ∈ others, v.grp.splitAt k = u.grp.splitAt k) ∧ KeptGroup u.grp v.grp ∧ SameData u v) ∧
      ((∀ k ∈ others, (s.grp.splitAt k).st ≠ .live) → (∃ k < 4, (ps k).st = .joinWait) → ∃ v, exec i s = .next v ∧
        KeptGroup u.grp v.grp ∧ SameData u v ∧ v.cur = 0 ∧ v.grp.isSplit = false ∧ v.spl.st = .live ∧
        v.spl.dm = 0xFFFFFFFF ∧
        (∀ j < 32, v.spl.em.getLsbD j = true ↔ ∃ k < 4, (ps k).st = .joinWait ∧ (ps k).em.getLsbD j = true) ∧
        ∃ k < 4, (ps k).st = .joinWait ∧ (∀ j < k, (ps j).st ≠ .joinWait) ∧ v.spl.pc = (ps k).pc ∧ v.spl.gm = (ps k).gm)
    (Runs (.join o) s →
      (¬(0 ≤ t ∧ t < 2 ^ 57) → Delivers s → Traps (.join o) s tPAGE) ∧ (0 ≤ t ∧ t < 2 ^ 57 →
        (s.grp.isSplit = false → Jumps (.join o) s (BitVec.ofInt 57 t) nowhere) ∧
        (s.grp.isSplit = true → s.quiet = false → exec (.join o) s = .next (s.waitFor .fence)) ∧
        (s.grp.isSplit = true → s.quiet = true →
          left (.join o) { (s.ready (.join o)).spl with st := .joinWait, pc := BitVec.ofInt 57 t }))) ∧
    (Runs .exit s →
      left .exit { (s.ready .exit).spl with st := .exited } ∧
      ((∀ k ∈ others, (s.grp.splitAt k).st = .free ∨ (s.grp.splitAt k).st = .exited) → ∃ v, exec .exit s = .next v ∧
        let u := s.ready .exit
        v.grp.ended = true ∧ (∀ r k, v.reg r k = u.reg r k) ∧ (∀ pa cp, v.byteAt (pa, cp) = u.byteAt (pa, cp)) ∧
        (∀ n, v.blk.byte n = u.blk.byte n) ∧ KeptDevice u v ∧
        ∀ n < 16, v.blk.phase n = u.blk.phase n +
          if ∀ g ∈ u.blk.groups, g.ended = true ∨ sget 0 g.arrived n = u.blk.phase n + 1 then 1 else 0))

/-- R300, R312, R313: `yield` goes on at the next word, sets its run to zero and holds the split for its count of clk;
`yieldc` is a branch without a future; with a completed one its register takes the status word and the branch is taken;
with a pending one it waits. -/
def Obligations.Yielding : Prop :=
  ∀ (s : State) (n : BitVec 10) (c : Reg) (o : BitVec 18),
    let t : Int := s.spl.pc.toNat + 4 * o.toInt
    (Runs (.yield n) s → let u := s.ready (.yield n)
      ∃ v, exec (.yield n) s = .next v ∧ Onward s v ∧ v.spl.run = 0 ∧
      v.spl.yieldUntil = s.clkOf (dieOf s.blk.core) + n.toNat ∧ (n = 0 → v.spl.wait = none) ∧
      (n ≠ 0 → v.spl.wait = some (.clk, s.tick)) ∧ KeptGroup u.grp v.grp ∧ KeptSplits u v ∧ SameData u v) ∧
    (Runs (.yieldc c o) s →
      let inside := 0 ≤ t ∧ t < 2 ^ 57
      (s.grp.futureOf c.toNat = none →
        (inside → Jumps (.yieldc c o) s (BitVec.ofInt 57 t) nowhere) ∧
        (¬inside → Delivers s → Traps (.yieldc c o) s tPAGE)) ∧
      (∀ f, s.grp.futureOf c.toNat = some f → f.lane < 32 →
        (f.seq ≤ s.cqDone f.die (f.qn % 256) →
          (inside → Jumps (.yieldc c o) s (BitVec.ofInt 57 t) (fun r k => if r = c.toNat ∧ k = f.lane then
            some (s.statusWord f.die (f.qn % 256) f.seq) else none) ∧
            ∃ v, exec (.yieldc c o) s = .next v ∧ v.grp.futureOf c.toNat = none) ∧
          (¬inside → Delivers s → Traps (.yieldc c o) s tPAGE)) ∧
        (s.cqDone f.die (f.qn % 256) < f.seq → exec (.yieldc c o) s = .next (s.waitFor .future))))

/-! ## Lane exchange, votes, reductions and scans (0x80 to 0x8F) -/

/-- R123, R124: `lperm` reads the lane that vb names, or 0 where bit 7 of vb is set; the votes write the control lane. -/
def Obligations.PermuteAndVotes : Prop :=
  ∀ (s : State) (d a : Reg) (p : Perm) (b : Reg) (q : Perm),
    (Runs (.lperm d a p b q) s → let u := s.ready (.lperm d a p b q)
      Sets (.lperm d a p b q) s (inLanes u d fun k =>
        let j := u.operandB b.toNat q k
        if j.getLsbD 7 then 0 else u.view 0 a.toNat (laneMap u.spl.gm p (j.toNat % 32)))) ∧
    (Runs (.lqAny d a p) s → let u := s.ready (.lqAny d a p)
      ∃ v : Word, Sets (.lqAny d a p) s (inCtl u d v) ∧ (v = 0 ∨ v = 1) ∧
        (v = 1 ↔ ∃ k ∈ u.active, u.operand a.toNat p k ≠ 0)) ∧
    (Runs (.lqAll d a p) s → let u := s.ready (.lqAll d a p)
      ∃ v : Word, Sets (.lqAll d a p) s (inCtl u d v) ∧ (v = 0 ∨ v = 1) ∧
        (v = 1 ↔ ∀ k ∈ u.active, u.operand a.toNat p k ≠ 0)) ∧
    MaskOp (.lqSet d a p) s d (fun u k => u.operand a.toNat p k ≠ 0)

/-- R125, R126: the bitwise reductions bit by bit, and with an integer type the sum, the least and the greatest operand and
their scans, in every active lane and the control lane (a scan in the active lanes alone), with SA of the lowest active
lane where a sum is clamped (a scan: of each lane); an empty group gives the identity of its operation. -/
def Obligations.IntegerReductions : Prop :=
  ∀ (s : State) (d a : Reg) (p : Perm),
    let go := fun (i : Instr) (P : State → Word → Prop) => Runs i s →
      ∃ v : Word, Sets i s (inUniform (s.ready i) d fun _ => v) ∧ P (s.ready i) v
    go (.gredAnd d a p) (fun u v => ∀ j < 32, v.getLsbD j = true ↔ ∀ k ∈ u.active, (u.operand a.toNat p k).getLsbD j = true) ∧
    go (.gredOr d a p) (fun u v => ∀ j < 32, v.getLsbD j = true ↔ ∃ k ∈ u.active, (u.operand a.toNat p k).getLsbD j = true) ∧
    go (.gredXor d a p) (fun u v => ∀ j < 32, v.getLsbD j =
      decide ((u.active.countP fun k => (u.operand a.toNat p k).getLsbD j) % 2 = 1)) ∧
    (isArithFloat (gmTA s.spl.gm) = false →
      (gmSAT s.spl.gm = false → go (.gredAdd d a p) fun u v => v = (u.active.map fun k => u.operand a.toNat p k).sum) ∧
      (Runs (.gredAdd d a p) s → gmSAT s.spl.gm = true → let u := s.ready (.gredAdd d a p)
        let gm := u.spl.gm
        let z := (u.active.map fun k => u.int a p k).sum
        ∃ t, exec (.gredAdd d a p) s = .next t ∧
          RegsBecome u t (inUniform u d fun _ => BitVec.ofInt 32 (max (lowest gm) (min (highest gm) z))) ∧ Kept u t ∧
          Raised u t (u.active.take 1) (fun _ => if lowest gm ≤ z ∧ z ≤ highest gm then 0 else fSA) ∧
          t.grp.gs = u.grp.gs ∧ Onward s t) ∧
      go (.gredMin d a p) (fun u v => (u.active = [] → intVal u.spl.gm v = highest u.spl.gm) ∧ (u.active ≠ [] →
        (∃ k ∈ u.active, v = u.operand a.toNat p k) ∧ ∀ k ∈ u.active, intVal u.spl.gm v ≤ u.int a p k)) ∧
      go (.gredMax d a p) (fun u v => (u.active = [] → intVal u.spl.gm v = lowest u.spl.gm) ∧ (u.active ≠ [] →
        (∃ k ∈ u.active, v = u.operand a.toNat p k) ∧ ∀ k ∈ u.active, u.int a p k ≤ intVal u.spl.gm v)) ∧
      Wraps (.gscanAdd d a p) s d (fun u k => ((u.active.filter (· ≤ k)).map fun j => u.operand a.toNat p j).sum) ∧
      Clamps (.gscanAdd d a p) s d (fun u k => ((u.active.filter (· ≤ k)).map fun j => u.int a p j).sum) ∧
      (Runs (.gscanMax d a p) s → let u := s.ready (.gscanMax d a p)
        ∃ f, Sets (.gscanMax d a p) s (inLanes u d f) ∧ ∀ k ∈ u.active,
          (∃ j ∈ u.active, j ≤ k ∧ f k = u.operand a.toNat p j) ∧
          ∀ j ∈ u.active, j ≤ k → u.int a p j ≤ intVal u.spl.gm (f k)))

/-- R125, R126 with a floating type: the sum of all operands is exact and rounded once, with the draw of the lowest active
lane (a scan: of each lane); the least and the greatest follow the order of R113; an empty group gives +0 or an
infinity. That every prefix of `gscan.max` with a signalling NaN raises IV in its lane is the model's reading (log entry
35). -/
def Obligations.FloatReductions : Prop :=
  ∀ (s : State) (d a : Reg) (p : Perm), isArithFloat (gmTA s.spl.gm) = true →
    let T := gmT s.spl.gm
    let sums := fun (u : State) (ls : List Nat) =>
      let z := sumVals (gmRM u.spl.gm) (ls.map (u.fp a p))
      (z.1, ivIf (z.2 || ls.any fun k => (u.fp a p k).isSig))
    let first := fun (u : State) => u.active.take 1
    let signals := fun (u : State) => if u.active.any fun j => (u.fp a p j).isSig then fIV else 0
    (CodesIn first (.gredAdd d a p) s 1
      (fun u => inGroup u d.toNat T (if u.active = [] then 0
        else (rounded u T 0 (sums u u.active).1 (u.active.headD 0)).1))
      (fun u k => (sums u u.active).2 ||| (rounded u T 0 (sums u u.active).1 k).2)) ∧
    Rounds (.gscanAdd d a p) s d (fun u => gmT u.spl.gm) (fun u k => sums u (u.active.filter (· ≤ k))) ∧
    (∃ c, CodesIn first (.gredMin d a p) s 0 (fun u => inGroup u d.toNat T c) (fun u _ => signals u) ∧
      let u := s.ready (.gredMin d a p)
      (u.active = [] → c = infCode T false) ∧ (u.active ≠ [] → Extreme u a p belowVal u.active c)) ∧
    (∃ c, CodesIn first (.gredMax d a p) s 0 (fun u => inGroup u d.toNat T c) (fun u _ => signals u) ∧
      let u := s.ready (.gredMax d a p)
      (u.active = [] → c = infCode T true) ∧ (u.active ≠ [] → Extreme u a p (fun x y => belowVal y x) u.active c)) ∧
    (∃ c : Nat → Nat, Codes (.gscanMax d a p) s 0 (fun u => inFormat u d.toNat T c)
        (fun u k => if (u.active.filter (· ≤ k)).any fun j => (u.fp a p j).isSig then fIV else 0) ∧
      let u := s.ready (.gscanMax d a p)
      ∀ k ∈ u.active, Extreme u a p (fun x y => belowVal y x) (u.active.filter (· ≤ k)) (c k))

/-- R56, R100 to R132: every instruction from 0x20 to 0x8F that nothing stops completes, writes no lane of a register
that it does not name as written, draws random numbers only under SR (and in `prune`), and changes flags, registers and
seeds alone.
R28, R57: an operand lane that an instruction finds is the lane as it stands once futures have ended, or what an
instruction has left there in whose window this one lies, or that of another split. -/
def Obligations.LaneInstructionFrame : Prop := (
  ∀ (s : State) (i : Instr), laneOnly i = true → Runs i s →
    ∃ t, exec i s = .next t ∧ Kept (s.ready i) t ∧ Onward s t ∧
      (∀ r < 64, ∀ k < 32, (∀ w ∈ i.writes (s.ready i), ¬(w.1 = r ∧ w.2.getLsbD k = true)) →
        t.reg r k = (s.ready i).reg r k) ∧
      (gmRM s.spl.gm ≠ 5 → (∀ d a p l, i ≠ .prune d a p l) → t.grp.gs = (s.ready i).grp.gs) ∧
      (s.grp.region = none → t.grp.region = none ∧ t.grp.fl &&& s.grp.fl = s.grp.fl)) ∧ (
  ∀ (s : State) (i : Instr) (pos r k : Nat), let u := s.ready i
    u.reg r k = (s.endFutures i).reg r k ∧
    (u.view pos r k = u.reg r k ∨ ∃ n < 4, ∃ w ∈ (u.grp.splitAt n).windows, (n ≠ u.cur ∨ 0 < w.left) ∧
      (32 * r + k, u.view pos r k) ∈ w.before))

/-- R127 to R130, R132: `isect` lists the matches of its two lists in ascending order, each with the lowest matching lane, and
its counts; `topk` lists the largest operands of the active lanes in rank order with their lanes; `dgrp` lists the active
lanes sorted by leaf, stably, with each leaf's first position and count; `prune` keeps two elements of each four positions
that hold an active lane, drawn by magnitude with two draws of the lowest one, in the order of their positions, with the
positions in the second register. All at domain positions, and nothing else changes. With no lane active the lanes of the
domain are left as they were (R26); that the counts of `isect`, a scalar result, are written then too is the model's reading
(log entry 70). -/
def Obligations.SelectionAndGrouping : Prop :=
  ∀ (s : State) (d a : Reg) (p : Perm) (l : BitVec 4) (x : BitVec 5),
    (Runs (.isect d a p l) s → let u := s.ready (.isect d a p l)
      let list := fun (n i : Nat) => if i ∈ u.active then u.operand (a.toNat + n) p i else 0xFFFFFFFF
      let h := min (list 0 31).toNat (list 1 31).toNat
      let passed := fun (n : Nat) => (List.range 32).countP fun i => list n i != 0xFFFFFFFF && (list n i).toNat ≤ h
      ∃ ms : List (Nat × Nat), ms.Pairwise (fun x y => x.1 < y.1) ∧
        (∀ i j, (i, j) ∈ ms ↔ i < 32 ∧ j < 32 ∧ list 0 i ≠ 0xFFFFFFFF ∧ list 1 j = list 0 i ∧ ∀ k < j, list 1 k ≠ list 0 i) ∧
        Sets (.isect d a p l) s fun r k =>
          if r = d.toNat + 1 ∧ k = u.ctl then some (BitVec.ofNat 32 (ms.length * 2 ^ 16 + passed 1 * 256 + passed 0))
          else inDomain u d.toNat (fun m => some (match ms[m]? with
            | some (i, j) => BitVec.ofNat 32 (j * 256 + i)
            | none => 0xFFFFFFFF)) r k) ∧
    (Runs (.topk d a p l x) s → let u := s.ready (.topk d a p l x)
      let ta := gmTA u.spl.gm
      let op := fun (i : Nat) => u.operand a.toNat p i
      let v := fun (i : Nat) => decodeVal (fmtD ta) ((op i).toNat % 2 ^ (fmtD ta).width)
      let above := fun (i j : Nat) =>
        if ta ≤ 5 then (v i).isNaN = false ∧ ((v j).isNaN = true ∨ belowVal (v j) (v i) = true)
        else if 14 ≤ ta ∧ ta ≤ 16 then (op j).toNat < (op i).toNat else (op j).toInt < (op i).toInt
      ∃ rank : List Nat, rank.Perm u.active ∧ rank.Pairwise (fun i j => above i j ∨ (¬above j i ∧ i < j)) ∧
        Sets (.topk d a p l x) s fun r k =>
          (inDomain u d.toNat (fun m => if m ≤ x.toNat then some ((rank[m]?).elim 0 op) else none) r k).or
            (inDomain u (d.toNat + 1) (fun m => if m ≤ x.toNat then
              some ((rank[m]?).elim 0xFFFFFFFF (BitVec.ofNat 32)) else none) r k)) ∧
    (Runs (.dgrp d a p l x) s → let u := s.ready (.dgrp d a p l x)
      let key := fun (i : Nat) => (List.range x.toNat).foldl (fun n l =>
        if (u.operand a.toNat p i).getLsbD l then n + 2 ^ (x.toNat - 1 - l) else n) 0
      ∃ (rows leaves : List Nat), rows.Perm u.active ∧ rows.Pairwise (fun i j => key i < key j ∨ (key i = key j ∧ i < j)) ∧
        leaves.Pairwise (· < ·) ∧ (∀ n, n ∈ leaves ↔ ∃ i ∈ rows, key i = n) ∧
        Sets (.dgrp d a p l x) s fun r k =>
          (inDomain u d.toNat (fun m => some ((rows[m]?).elim 0xFFFFFFFF fun i => BitVec.ofNat 32 (i * 2 ^ 27 + key i))) r k).or
            (inDomain u (d.toNat + 1) (fun m => some ((leaves[m]?).elim 0 fun n => BitVec.ofNat 32
              ((rows.countP fun i => key i < n) * 256 + rows.countP fun i => key i == n))) r k)) ∧
    (Runs (.prune d a p l) s → let u := s.ready (.prune d a p l)
      let T := gmT u.spl.gm
      let elem := fun (m : Nat) => match u.domLanes[m]? with
        | some i => if i ∈ u.active then u.src a.toNat p i T else 0
        | none => 0
      let leads := fun (j i : Nat) => i ∈ u.active ∧ ∃ m < 4, u.domLanes[4 * j + m]? = some i ∧
        ∀ n < m, ∀ o, u.domLanes[4 * j + n]? = some o → o ∉ u.active
      let drawn := fun (j : Nat) => ∃ i, leads j i
      ∃ (t : State) (p0 p1 : Nat → Nat), exec (.prune d a p l) s = .next t ∧ Kept u t ∧ t.grp.fl = u.landed ∧
        t.grp.region = u.grp.region ∧ Onward s t ∧
        (∀ j i, leads j i → ∃ k1 k2, Picked [0, 1, 2, 3] (fun m => decodeVal T (elem (4 * j + m))) (drawAt u 0 i) k1 ∧
          Picked ([0, 1, 2, 3].filter (· ≠ k1)) (fun m => decodeVal T (elem (4 * j + m))) (drawAt u 1 i) k2 ∧
          p0 j = min k1 k2 ∧ p1 j = max k1 k2) ∧
        (∀ k < 32, ((∃ j, leads j k) → sget 0 t.grp.gs k = xorshift^[2] (sget 0 u.grp.gs k)) ∧
          (¬(∃ j, leads j k) → sget 0 t.grp.gs k = sget 0 u.grp.gs k)) ∧
        ∃ new, RegsBecome u t new ∧
          (∀ m k, u.domLanes[m]? = some k →
            (drawn (m / 2) → new d.toNat k =
              some (BitVec.ofNat 32 (elem (4 * (m / 2) + if m % 2 = 0 then p0 (m / 2) else p1 (m / 2))))) ∧
            (drawn m → new (d.toNat + 1) k = some (BitVec.ofNat 32 (p1 m * 4 + p0 m))) ∧
            (¬drawn (m / 2) → new d.toNat k = none) ∧ (¬drawn m → new (d.toNat + 1) k = none)) ∧
          ∀ r k, (r ≠ d.toNat ∧ r ≠ d.toNat + 1) ∨ k ∉ u.domLanes → new r k = none)

/-! ## Floating point (0x50 to 0x70) -/

/-- R112, R115, R116, R87, R89: `fadd`, `fsub`, `fmul`, `ffma`, `ffms`, the conversions and `fscl` round one exact value
per active lane, with IV for an invalid operation or a signalling operand; one draw per lane under SR. -/
def Obligations.FloatArithmetic : Prop :=
  ∀ (s : State) (d a : Reg) (p : Perm) (b : Reg) (q : Perm),
    let T : State → Fmt := fun u => gmT u.spl.gm
    let B : State → Fmt := fun u => fmtD (gmTB u.spl.gm)
    Rounds (.fadd d a p b q) s d T (fun u k => sumOf (gmRM u.spl.gm) (u.fp a p k) (u.fpB b q k)) ∧
    Rounds (.fsub d a p b q) s d T (fun u k => sumOf (gmRM u.spl.gm) (u.fp a p k) (negVal (u.fpB b q k))) ∧
    Rounds (.fmul d a p b q) s d T (fun u k => productOf (u.fp a p k) (u.fpB b q k)) ∧
    Rounds (.ffma d a p b q) s d T (fun u k => fmaVal (gmRM u.spl.gm) (u.fp a p k) (u.fpB b q k) (u.fpD d k)) ∧
    Rounds (.ffms d a p b q) s d T (fun u k => fmaVal (gmRM u.spl.gm) (negVal (u.fp a p k)) (u.fpB b q k) (u.fpD d k)) ∧
    Rounds (.fcvt d a p) s d B (fun u k => (u.fp a p k, 0)) ∧
    Rounds (.fcvti d a p) s d B (fun u k => (u.fp a p k, 0)) ∧
    Rounds (.fcvtf d a p) s d B (fun u k => (u.fp a p k, 0)) ∧
    Rounds (.fscl d a p b q) s d T (fun u k => match u.fp a p k with
      | .fin n m e => (.fin n m (e + max (-8192) (min 8192 (u.operandB b.toNat q k).toInt)), 0)
      | .inf n => (.inf n, 0)
      | .nan _ g => (.nan false false, if g then fIV else 0))

/-- R117: the seven functions round their exact value; `frnd` (R116) takes the integer that the rounding mode picks, NaN
gives the positive default NaN, infinities pass, and only IV and NX are raised. What R117 fixes of the exact values: those of
a NaN, of infinities and of zeros, with IV and DZ; 2ˣ of every integer x short of 4,096, log₂ of every power of two, sin(πx)
and cos(πx) of every integer and half integer x, an exact zero with the sign of x or as +0; the roots have their brackets in
`RootBrackets`. -/
def Obligations.FloatFunctions : Prop := (
  ∀ (s : State) (d a : Reg) (p : Perm),
    let T : State → Fmt := fun u => gmT u.spl.gm
    Rounds (.frcp d a p) s d T (fun u k => rcpVal (u.fp a p k)) ∧
    Rounds (.frsq d a p) s d T (fun u k => rsqVal (u.fp a p k)) ∧
    Rounds (.fsqrt d a p) s d T (fun u k => sqrtVal (u.fp a p k)) ∧
    Rounds (.fex2 d a p) s d T (fun u k => exp2Val (u.fp a p k)) ∧
    Rounds (.flg2 d a p) s d T (fun u k => log2Val (u.fp a p k)) ∧
    Rounds (.fsin d a p) s d T (fun u k => sinVal (u.fp a p k)) ∧
    Rounds (.fcos d a p) s d T (fun u k => cosVal (u.fp a p k)) ∧
    (let z : State → Nat → Nat × BitVec 6 := fun u k => match u.fp a p k with
        | .nan _ g => (nanCode (T u) false, if g then fIV else 0)
        | .inf n => (infCode (T u) n, 0)
        | .fin n m e =>
          let w := pick (.step 0) (gmRM u.spl.gm) (drawOf u 0 k) n m e
          (encodeVal (T u) n w.1 w.2.1, if w.2.2 then 0 else fNX)
     Codes (.frnd d a p) s 1 (fun u => inFormat u d.toNat (T u) fun k => (z u k).1) (fun u k => (z u k).2))) ∧ (
  ∀ (n g : Bool) (m : Nat) (e : Int) (f : Val → Val × BitVec 6),
    f ∈ [rcpVal, rsqVal, sqrtVal, exp2Val, log2Val, sinVal, cosVal] → f (.nan n g) = (.nan false false, ivIf g)) ∧ (
  ∀ n : Bool, let nan := (Val.nan false false, fIV)
    rcpVal (.inf n) = (.fin n 0 0, 0) ∧ exp2Val (.inf n) = (if n then .fin false 0 0 else .inf false, 0) ∧
    rsqVal (.inf n) = (if n then nan else (.fin false 0 0, 0)) ∧ sqrtVal (.inf n) = (if n then nan else (.inf false, 0)) ∧
    log2Val (.inf n) = (if n then nan else (.inf false, 0)) ∧ sinVal (.inf n) = nan ∧ cosVal (.inf n) = nan) ∧ (
  ∀ (n : Bool) (e : Int), let zero := Val.fin n 0 e
    rcpVal zero = (.inf n, fDZ) ∧ rsqVal zero = (.inf n, fDZ) ∧ log2Val zero = (.inf true, fDZ) ∧
    (∃ f, sqrtVal zero = (.fin n 0 f, 0)) ∧ (∃ f, sinVal zero = (.fin n 0 f, 0)) ∧
    Exactly (exp2Val zero).1 1 ∧ Exactly (cosVal zero).1 1) ∧ (
  ∀ (n : Bool) (m : Nat) (e i : Int), let v := Val.fin n m e
    (m ≠ 0 → n = true → [rsqVal v, sqrtVal v, log2Val v] = List.replicate 3 (.nan false false, fIV)) ∧
    (Exactly v i →
      (|i| < 4096 → Exactly (exp2Val v).1 ((2 : ℚ) ^ i) ∧ (exp2Val v).2 = 0) ∧
      (∃ f, sinVal v = (.fin n 0 f, 0)) ∧ Exactly (cosVal v).1 ((-1 : ℚ) ^ i) ∧ (cosVal v).2 = 0) ∧
    (Exactly v (i + 1 / 2) →
      Exactly (sinVal v).1 ((-1 : ℚ) ^ i) ∧ (sinVal v).2 = 0 ∧ ∃ f, cosVal v = (.fin false 0 f, 0)) ∧
    (Exactly v ((2 : ℚ) ^ i) → Exactly (log2Val v).1 i ∧ (log2Val v).2 = 0 ∧
      (i = 0 → ∃ f, (log2Val v).1 = .fin false 0 f)))

/-- R113: `fmin` and `fmax` give an operand's encoding with no number beyond it, −0 below +0, the other operand where one
is NaN and the positive default NaN where both are; `fabs` and `fneg` change the sign bit and raise nothing.
R114: the comparisons write the mask to the control lane and raise IV for a signalling operand (`fcmpeq`, `fcmpun`) or
any NaN (`fcmplt`, `fcmple`); `fcls` writes the class bit and raises nothing. -/
def Obligations.FloatChoiceAndCompare : Prop := (
  ∀ (s : State) (d a : Reg) (p : Perm) (b : Reg) (q : Perm),
    let T : State → Fmt := fun u => gmT u.spl.gm
    let iv : State → Nat → BitVec 6 := fun u k => if (u.fp a p k).isSig || (u.fpB b q k).isSig then fIV else 0
    let chosen := fun (i : Instr) (past : Val → Val → Bool) =>
      ∃ c : Nat → Nat, Codes i s 0 (fun u => inFormat u d.toNat (T u) c) iv ∧
        let u := s.ready i
        ∀ k ∈ u.active,
          let cx := u.src a.toNat p k (T u)
          let cy := u.srcAt 1 b.toNat q k (T u)
          ((u.fp a p k).isNaN = true → (u.fpB b q k).isNaN = true → c k = nanCode (T u) false) ∧
          ((u.fp a p k).isNaN = true → (u.fpB b q k).isNaN = false → c k = cy) ∧
          ((u.fp a p k).isNaN = false → (u.fpB b q k).isNaN = true → c k = cx) ∧
          ((u.fp a p k).isNaN = false → (u.fpB b q k).isNaN = false →
            (c k = cx ∨ c k = cy) ∧ past (u.fp a p k) (decodeVal (T u) (c k)) = false ∧
              past (u.fpB b q k) (decodeVal (T u) (c k)) = false)
    chosen (.fmin d a p b q) belowVal ∧
    chosen (.fmax d a p b q) (fun x y => belowVal y x) ∧
    (Runs (.fabs d a p) s → let u := s.ready (.fabs d a p)
      Sets (.fabs d a p) s (inFormat u d.toNat (T u) fun k => u.src a.toNat p k (T u) % 2 ^ ((T u).width - 1))) ∧
    (Runs (.fneg d a p) s → let u := s.ready (.fneg d a p)
      Sets (.fneg d a p) s (inFormat u d.toNat (T u) fun k =>
        (u.src a.toNat p k (T u) + 2 ^ ((T u).width - 1)) % 2 ^ (T u).width))) ∧ (
  ∀ (s : State) (d a : Reg) (p : Perm) (b : Reg) (q : Perm),
    let go := fun (i : Instr) (P : Val → Val → Bool) (iv : Val → Val → Bool) => ∃ m : Word,
      Codes i s 0 (fun u => inCtl u d m) (fun u k => if iv (u.fp a p k) (u.fpB b q k) then fIV else 0) ∧
        let u := s.ready i
        ∀ k < 32, m.getLsbD k = true ↔ k ∈ u.active ∧ P (u.fp a p k) (u.fpB b q k) = true
    let sig : Val → Val → Bool := fun x y => x.isSig || y.isSig
    let nan : Val → Val → Bool := fun x y => x.isNaN || y.isNaN
    go (.fcmpeq d a p b q) eqVal sig ∧
    go (.fcmplt d a p b q) ltVal nan ∧
    go (.fcmple d a p b q) (fun x y => ltVal x y || eqVal x y) nan ∧
    go (.fcmpun d a p b q) nan sig ∧
    (Runs (.fcls d a p) s → let u := s.ready (.fcls d a p)
      let T := gmT u.spl.gm
      Sets (.fcls d a p) s (inLanes u d fun k => match u.fp a p k with
        | .inf n => if n then 1 else 128
        | .nan _ g => if g then 256 else 512
        | .fin n 0 _ => if n then 8 else 16
        | .fin n m e => if topExp m e < (minNormal T).2 then (if n then 4 else 32) else if n then 2 else 64)))

/-- R119: `zmul` and `zfma` round the real part and then the imaginary part, each one exact value; `zcnj` inverts the
sign bit of the imaginary part. -/
def Obligations.ComplexArithmetic : Prop :=
  ∀ (s : State) (d a : Reg) (p : Perm) (b : Reg) (q : Perm),
    let F : State → Fmt := fun u => if gmTA u.spl.gm = 18 then .f64 else .f32
    let size := fun u => if gmTA u.spl.gm = 18 then 2 else 1
    let parts : (State → Nat → Val × BitVec 6) → (State → Nat → Val × BitVec 6) → Instr → Prop := fun re im i =>
      Codes i s 2
        (fun u r k => (inFormat u d.toNat (F u) (fun k => (rounded u (F u) 0 (re u k).1 k).1) r k).or
          (inFormat u (d.toNat + size u) (F u) (fun k => (rounded u (F u) 1 (im u k).1 k).1) r k))
        (fun u k => (re u k).2 ||| (rounded u (F u) 0 (re u k).1 k).2 ||| ((im u k).2 ||| (rounded u (F u) 1 (im u k).1 k).2))
    let ar := fun (u : State) k => u.srcVal 0 a.toNat p k (F u)
    let ai := fun (u : State) k => u.srcVal 0 (a.toNat + size u) p k (F u)
    let br := fun (u : State) k => u.srcVal 1 b.toNat q k (F u)
    let bi := fun (u : State) k => u.srcVal 1 (b.toNat + size u) q k (F u)
    let dr := fun (u : State) k => u.srcVal 2 d.toNat 0 k (F u)
    let di := fun (u : State) k => u.srcVal 2 (d.toNat + size u) 0 k (F u)
    parts (fun u k => combine (gmRM u.spl.gm) [(ar u k, br u k), (negVal (ai u k), bi u k)] [])
      (fun u k => combine (gmRM u.spl.gm) [(ar u k, bi u k), (ai u k, br u k)] []) (.zmul d a p b q) ∧
    parts (fun u k => combine (gmRM u.spl.gm) [(ar u k, br u k), (negVal (ai u k), bi u k)] [dr u k])
      (fun u k => combine (gmRM u.spl.gm) [(ar u k, bi u k), (ai u k, br u k)] [di u k]) (.zfma d a p b q) ∧
    (Runs (.zcnj d a p) s → let u := s.ready (.zcnj d a p)
      let w := (F u).width
      Sets (.zcnj d a p) s fun r k => (inFormat u d.toNat (F u) (fun k => u.src a.toNat p k (F u)) r k).or
        (inFormat u (d.toNat + size u) (F u) (fun k => (u.src (a.toNat + size u) p k (F u) + 2 ^ (w - 1)) % 2 ^ w) r k))

/-- R121, R122: `mxscl` writes the scale byte of the active lanes' values, `mxpak` the packed elements from the first
domain position on, one draw per active lane under SR, and `mxunp` the scaled value of its element to each active lane. The
model's own are: the positive quiet NaN of a block with the NaN scale (log entry 64), the sign that a NaN keeps through `mxpak`
and `mxunp` (69), and that `mxscl` writes its scalar result with no active lane too (70), while `mxpak` writes none (R26).
R120: `srnd` divides by 2 ^ n, n the low six bits of vb, rounds by the mode, clamps to TB under SAT (SA) and raises NX
where the quotient was no integer. -/
def Obligations.RequantisingAndBlocks : Prop := (
  ∀ (s : State) (d a : Reg) (p : Perm) (b : Reg) (q : Perm),
    let tb := gmTB s.spl.gm
    let w := elemWidth tb
    let shape := fun (u : State) => scaleOf tb ((u.operandB b.toNat q u.ctl).toNat % 256)
    (Runs (.mxscl d a p b q) s → let u := s.ready (.mxscl d a p b q)
      Sets (.mxscl d a p b q) s (inCtl u d (BitVec.ofNat 32
        (blockScale tb ((u.operandB b.toNat q u.ctl).toNat % 4) (u.active.map (u.fp a p)))))) ∧
    (let z := fun (u : State) k => rounded u (shape u).1 0 (shiftVal (u.fp a p k) (-(shape u).2.1)) k
     CodesIn (fun u => u.active.filter (· ∈ u.domLanes)) (.mxpak d a p b q) s 1
        (fun u r k => if r = d.toNat ∧ k ∈ u.domLanes ∧ u.active ≠ [] then
          (packWords w (u.domLanes.map fun j => if j ∈ u.active ∧ (shape u).2.2 = false then (z u j).1 else 0))[
            u.domLanes.findIdx (· == k)]? else none)
        (fun u k => if (shape u).2.2 then 0 else (z u k).2)) ∧
    Rounds (.mxunp d a p b q) s d (fun u => gmT u.spl.gm) (fun u k =>
      let pos := u.domLanes.findIdx (· == k)
      let word := u.operand a.toNat p (u.domLanes.getD (pos / (32 / w)) 0)
      if (shape u).2.2 then (.nan false false, 0)
      else (shiftVal (decodeVal (shape u).1 (word.toNat / 2 ^ (w * (pos % (32 / w))) % 2 ^ w)) (shape u).2.1, 0))) ∧ (
  ∀ (s : State) (d a : Reg) (p : Perm) (b : Reg) (q : Perm) (sg : Bool) (w : Nat), fmtD (gmTB s.spl.gm) = .int sg w →
    let i := Instr.srnd d a p b q
    let u := s.ready i
    let lo : Int := if sg then -2 ^ (w - 1) else 0
    let hi : Int := if sg then 2 ^ (w - 1) - 1 else 2 ^ w - 1
    ∃ z : Nat → Int,
      Codes i s 1
        (fun u => inLanes u d fun k => BitVec.ofInt 32 ((if gmSAT u.spl.gm then max lo (min hi (z k)) else z k) % 2 ^ w))
        (fun u k => (if u.int a p k % 2 ^ ((u.operandB b.toNat q k).toNat % 64) = 0 then 0 else fNX) |||
          (if gmSAT u.spl.gm = true ∧ ¬(lo ≤ z k ∧ z k ≤ hi) then fSA else 0)) ∧
      ∀ k ∈ u.active,
        let x := u.int a p k
        let n := 2 ^ ((u.operandB b.toNat q k).toNat % 64)
        (z k = x / n ∨ z k = -(-x / n)) ∧
        (gmRM s.spl.gm = 0 → 2 * |z k * n - x| ≤ n ∧ (2 * |z k * n - x| = n → z k % 2 = 0)) ∧
        (gmRM s.spl.gm = 1 → z k = x.tdiv n) ∧
        (gmRM s.spl.gm = 2 → z k = -(-x / n)) ∧
        (gmRM s.spl.gm = 3 → z k = x / n) ∧
        (gmRM s.spl.gm = 4 → 2 * |z k * n - x| ≤ n ∧ (2 * |z k * n - x| = n → |x| < |z k * n|)))

/-- R95, R111, R119, R125: sums, differences and products of finite values are exact, in any order. -/
def Obligations.ExactArithmetic : Prop :=
  (∀ (rm : Nat) (v w : Val) (x y : ℚ), Exactly v x → Exactly w y →
    Exactly (addVal rm v w).1 (x + y) ∧ (addVal rm v w).2 = false ∧ Exactly (addVal rm v (negVal w)).1 (x - y) ∧
    Exactly (mulVal v w).1 (x * y) ∧ (mulVal v w).2 = false ∧
    (ltVal v w = true ↔ x < y) ∧ (eqVal v w = true ↔ x = y)) ∧
  ∀ (rm : Nat) (vs : List Val) (xs : List ℚ), List.Forall₂ Exactly vs xs →
    Exactly (sumVals rm vs).1 xs.sum ∧ (sumVals rm vs).2 = false

/-- R87, R88, R90: rounding to nearest gives, unless it overflows, a code of the format whose value no other code's value
lies nearer to, and raises NX exactly where the value is changed. -/
def Obligations.RoundsToNearest : Prop :=
  ∀ (T : Fmt) (n : Bool) (m : Nat) (e : Int) (r : Nat) (x : ℚ), T.isFloat = true → Exactly (.fin n m e) x →
    let z := roundTo 0 false r (.fin n m e) T
    z.2 &&& (fOF ||| fSA) = 0 → z.1 < 2 ^ T.width ∧ ∃ y, Exactly (decodeVal T z.1) y ∧ (z.2 &&& fNX ≠ 0 ↔ y ≠ x) ∧
      ∀ c y', Exactly (decodeVal T c) y' → |y - x| ≤ |y' - x|

/-- R87, R91: every finite code of a floating format rounds to itself in every mode, without a flag. -/
def Obligations.RepresentableStays : Prop :=
  ∀ (T : Fmt) (c rm r : Nat) (sat n : Bool) (m : Nat) (e : Int), T.isFloat = true → c < 2 ^ T.width →
    decodeVal T c = .fin n m e → roundTo rm sat r (.fin n m e) T = (c, 0)

/-- R117: a reciprocal, a square root and a reciprocal square root are exact, or stand for a bracket of at least 127
bits with the true value strictly inside it. -/
def Obligations.RootBrackets : Prop :=
  ∀ (n : Bool) (m : Nat) (e : Int), m ≠ 0 →
    let at' := fun (k : Nat) (f : Int) => (k : ℚ) * 2 ^ f
    (∃ k f, (rcpVal (.fin n m e)).1 = .fin n k f ∧ 2 ^ 127 ≤ k ∧ (at' k f * at' m e = 1 ∨
      k % 2 = 1 ∧ at' (k - 1) f * at' m e < 1 ∧ 1 < at' (k + 1) f * at' m e)) ∧
    (∃ k f, (sqrtVal (.fin false m e)).1 = .fin false k f ∧ 2 ^ 127 ≤ k ∧ (at' k f ^ 2 = at' m e ∨
      k % 2 = 1 ∧ at' (k - 1) f ^ 2 < at' m e ∧ at' m e < at' (k + 1) f ^ 2)) ∧
    (∃ k f, (rsqVal (.fin false m e)).1 = .fin false k f ∧ 2 ^ 127 ≤ k ∧ (at' k f ^ 2 * at' m e = 1 ∨
      k % 2 = 1 ∧ at' (k - 1) f ^ 2 * at' m e < 1 ∧ 1 < at' (k + 1) f ^ 2 * at' m e))

/-! ## Memory (0x98 to 0xBE) -/

/-- R225, R226, R230, R232, R234, R235, R237: the loads put the bytes of each lane's address, extended as the width says,
into its registers (`ldc`: those of the control lane's address into every active lane): one byte or two with zeros above
(`.n8`, `.n16`) or with copies of the sign (`.i8`, `.i16`), four, eight or sixteen, the least significant byte first. `pref`
changes nothing that a program sees; and a plain read of memory that no cache, buffer or request of the split covers finds the
bytes at their homes. An access over a link that sleeps wakes it and waits (R374).
R186, R229: where lanes of a load fault outside a try region, the lowest of them traps with its code; the others are
performed and the record says so. A trap that must wait for an earlier instruction of its group, or for a fence, is kept, and
the split stops behind it (R58, R60, R377). -/
def Obligations.Loads : Prop := (
 (
  ∀ (s : State) (d a : Reg) (p : Perm) (l : BitVec 4) (h : BitVec 2) (w : BitVec 3) (sc : BitVec 3) (v : BitVec 2)
    (x : BitVec 1),
    let far : Bool := h.toNat == 2
    let m := if v.toNat = 1 then 8 else 4
    let plain := fun (bs : List Byte) => (List.range (m / 4)).map fun k => BitVec.ofNat 32 (natOfBytes bs / 2 ^ (32 * k))
    LoadsLanes (.ld d a p l h w) s d 4 (loadedWords w) far
      (fun u k => u.readLane k (u.addr a p k) (widthBytes w) .load far) ∧
    LoadsLanes (.ldc d a p l h w) s d 4 (loadedWords w) far
      (fun u _ => u.readLane u.ctl (u.addr a p u.ctl) (widthBytes w) .load far) ∧
    LoadsLanes (.lds d a p l w) s d 4 (loadedWords w) false
      (fun u k => u.readSpad k (u.operand a.toNat p k).toNat (widthBytes w) 0) ∧
    LoadsLanes (.ldacq d a p l sc v) s d 2 plain true (fun u k => u.readLane k (u.addr a p k) m .acquire true) ∧
    (Runs (.pref a p l x) s → (∀ pa, (s.ready (.pref a p l x)).opens [pa]) →
      ∃ pas, SetsAcross (.pref a p l x) s pas nowhere) ∧
    ∀ (k va n : Nat) (ps : List (Nat × Nat)), s.check s.me s.blk.asid va n .load s.inHandler = .mem ps →
      (∀ at_ ∈ ps, s.unreadable s.blk.asid at_ = none ∧ s.ownByte false at_.1 = none ∧
        s.l1Line s.blk.core (at_.1 / 64) = none) →
      s.readLane k va n .load far = .ok (ps.map (s.readAt s.blk.asid)) false ps) ∧ (
  ∀ b : Nat → Byte, let bytes := fun (n : Nat) => (List.range n).map b
    let word := fun (j : Nat) => b (j + 3) ++ b (j + 2) ++ b (j + 1) ++ b j
    (List.range 7).map (fun k => widthBytes (BitVec.ofNat 3 k)) = [1, 1, 2, 2, 4, 8, 16] ∧
    loadedWords 0 (bytes 1) = [(b 0).zeroExtend 32] ∧ loadedWords 1 (bytes 1) = [(b 0).signExtend 32] ∧
    loadedWords 2 (bytes 2) = [(b 1 ++ b 0).zeroExtend 32] ∧ loadedWords 3 (bytes 2) = [(b 1 ++ b 0).signExtend 32] ∧
    loadedWords 4 (bytes 4) = [word 0] ∧ loadedWords 5 (bytes 8) = [word 0, word 4] ∧
    loadedWords 6 (bytes 16) = [word 0, word 4, word 8, word 12])) ∧ (
  ∀ (s : State) (d a : Reg) (p : Perm) (l : BitVec 4) (h : BitVec 2) (w : BitVec 3), Runs (.ld d a p l h w) s →
    s.spl.redo = [] → let u := s.ready (.ld d a p l h w)
    let read := fun (k : Nat) => u.readLane k (u.addr a p k) (widthBytes w) .load (h.toNat == 2)
    ∀ (g : Nat → Option TrapInfo) (bs : Nat → List Byte),
      (∀ k ∈ u.active, ∀ e, g k = some e → read k = .bad e false ∧ e.listed = true ∧ e.code < 256 ∧ e.lane = k) →
      (∀ k ∈ u.active, g k = none → ∃ sp ps, read k = .ok (bs k) sp ps) →
      let oks := (splitReads (u.active.map fun k => (k, read k))).1
      u.readsWait (h.toNat == 2) oks = false → u.opens (u.readsMiss (u.atHome (h.toNat == 2)) oks) →
      ∀ k0 e, u.active.find? (fun k => (g k).isSome) = some k0 → g k0 = some e →
      (s.grp.region = none → (∀ q ∈ s.spl.pending, q.stamp ≠ s.tick) →
        s.spl.spec ≠ none ∨ s.outstanding = true ∨ s.othersBusy = true ∨ s.foundLate (.ld d a p l h w) = true →
        ∃ t q, exec (.ld d a p l h w) s = .next t ∧ q ∈ t.spl.pending ∧ q.info.code = e.code ∧ q.info.lane = k0 ∧
          q.pc = s.spl.pc ∧ t.spl.pc = s.spl.pc + 4 ∧ t.grp.handler = s.grp.handler ∧
          ∀ pa cp, t.byteAt (pa, cp) = u.byteAt (pa, cp)) ∧
      (Delivers s → s.foundLate (.ld d a p l h w) = false → ∃ t, exec (.ld d a p l h w) s = .next t ∧ Entered u t e.code ∧ bits (sget 0 t.grp.trap 0) 21 17 = k0 ∧
        (∀ k < 32, (sget 0 t.grp.ldone 0).getLsbD k = true ↔ k ∈ u.active ∧ g k = none) ∧
        RegsBecome u t (fun r k => if g k = none then inWords u d 4 (fun k => loadedWords w (bs k)) r k else none) ∧
        (∀ pa cp, t.byteAt (pa, cp) = u.byteAt (pa, cp)) ∧ ∀ o, t.blk.byte o = u.blk.byte o))

/-- R226, R231, R233, R234, R237: the stores put the low bytes of each lane's registers at its address (`stm`: the enabled
ones), later lanes over earlier ones, and nothing else changes; inside a try region they go to its buffer alone (R216). -/
def Obligations.Stores : Prop :=
  ∀ (s : State) (d a : Reg) (p : Perm) (l e : BitVec 4) (h : BitVec 2) (w : BitVec 3) (sc : BitVec 3) (v : BitVec 2),
    let n := widthBytes w
    let m := if v.toNat = 1 then 8 else 4
    let plain := fun (u : State) => u.active.map fun k => u.writeLane k (u.addr a p k) n .store (numbered (u.storeBytes d k n))
    StoresLanes (.st d a p l h w) s plain ∧
    StoresLanes (.stm d a p l e) s (fun u => u.active.map fun k =>
      let lo := ((List.range 4).filter e.getLsbD).headD 0
      let hi := ((List.range 4).filter e.getLsbD).getLastD 0
      u.writeLane k ((u.addr a p k + lo) % 2 ^ 64) (hi + 1 - lo) .store
        (((numbered (u.storeBytes d k 4)).filter fun x => e.getLsbD x.1).map fun x => (x.1 - lo, x.2))) ∧
    StoresLanes (.sts d a p l w) s (fun u => u.active.map fun k =>
      let off := (u.operand a.toNat p k).toNat
      u.writeSpad k 0 ((numbered (u.storeBytes d k n)).map fun x => (off + x.1, x.2)) off n) ∧
    ((s.ready (.strel d a p l sc v)).quiet = true → StoresLanes (.strel d a p l sc v) s (fun u => u.active.map fun k =>
      u.writeLane k (u.addr a p k) m .release (numbered (u.storeBytes d k m)))) ∧
    ∀ r, s.grp.region = some r → Runs (.st d a p l h w) s → let u := s.ready (.st d a p l h w)
      (splitWrites (plain u)).2 = [] → bufferLines (r.buffer ++ (splitWrites (plain u)).1) ≤ 32 →
      ∃ t r', exec (.st d a p l h w) s = .next t ∧ RegsBecome u t nowhere ∧
        (∀ pa cp, t.byteAt (pa, cp) = u.byteAt (pa, cp)) ∧ (∀ o, t.blk.byte o = u.blk.byte o) ∧ t.grp.region = some r' ∧
        r'.buffer = r.buffer ++ (splitWrites (plain u)).1 ∧ Onward s t

/-- R188, R240: each atomic gives its lanes the old value of their location and leaves the new one there; lanes that address one
location act one after another in ascending lane order, as told for lanes whose locations are the same or on different lines.
With any locations it completes, and registers and memory elsewhere stay. `atom.fadd` draws once a lane under SR and raises the
flags of each lane's sum; the others raise none. An atomic through the scratchpad alias raises PROT. -/
def Obligations.Atomics : Prop :=
  ∀ (s : State) (d a : Reg) (p : Perm) (l : BitVec 4) (sc : BitVec 3) (w : BitVec 2),
    let n := if w.toNat = 1 then 8 else 4
    let top := 2 ^ (8 * n)
    let go := fun (i : Instr) (draws : Nat) (f : State → Nat → Nat → Nat) (g : State → Nat → Nat → BitVec 6) => Runs i s →
      let u := s.ready i
      (u.active ≠ [] → (∀ k ∈ u.active, aliasBase ≤ u.addr a p k ∧ u.addr a p k < 2 ^ 57) → u.quiet = true → Delivers s →
        Traps i s tPROT) ∧
      ∀ (bs : Nat → List Byte) (ps : Nat → List (Nat × Nat)), let pas := u.active.flatMap fun k => (ps k).map (·.1)
      (∀ k ∈ u.active, u.readLane k (u.addr a p k) n .rmw true = .ok (bs k) false (ps k) ∧ InHbm u (ps k) ∧
        ∀ at_ ∈ ps k, u.lineHeld u.who false (at_.1 / 64) = false) →
      Unwatched u → u.quiet = true → u.opens pas →
      ∃ t, exec i s = .next t ∧ Onward s t ∧ KeptGroup u.grp t.grp ∧ KeptSplits u t ∧ KeptDevice (u.crossed pas) t ∧
        t.grp.region = u.grp.region ∧ Drew u t u.active (if gmRM u.spl.gm = 5 then draws else 0) ∧
        (g = (fun _ _ _ => 0) → KeptFlags u t) ∧
        (∀ r < 64, ∀ k < 32, (k ∉ u.active ∨ r < d.toNat ∨ d.toNat + n / 4 ≤ r) → t.reg r k = u.reg r k) ∧
        OnlyAt u t (u.active.flatMap ps) ∧
        (((∃ k, u.active = [k] ∧ ∀ at_ ∈ ps k, u.oldAt u.blk.asid at_ = u.readAt u.blk.asid at_) ∨
            (u.mem.stale = [] ∧ (∀ k ∈ u.active, ∀ at_ ∈ ps k, at_.1 < 2 ^ 58) ∧
              ∀ j ∈ u.active, ∀ k ∈ u.active, ps j = ps k ∨ ∀ x ∈ ps j, ∀ y ∈ ps k, x.1 / 64 ≠ y.1 / 64)) →
          let same := fun (k : Nat) => u.active.filter fun j => ps j = ps k
          let after := fun (k : Nat) (ls : List Nat) => ls.foldl (fun m j => f u j m) (natOfBytes (bs k))
          let old := fun (k : Nat) => after k ((same k).filter (· < k))
          RegsBecome u t (inWords u d (n / 4) fun k => wordsOf n (old k)) ∧
          Raised u t u.active (fun k => g u k (old k)) ∧ ∀ k ∈ u.active, Holds t (ps k) n (after k (same k)))
    let noFlags : State → Nat → Nat → BitVec 6 := fun _ _ _ => 0
    let val := fun (u : State) k => u.regValue d.toNat k n
    let num := fun (u : State) (x : Nat) => if isNat u.spl.gm || x < top / 2 then (x : Int) else (x : Int) - top
    go (.atomAdd d a p l sc w) 0 (fun u k m => (m + val u k) % top) noFlags ∧
    go (.atomSub d a p l sc w) 0 (fun u k m => (m + top - val u k) % top) noFlags ∧
    go (.atomMin d a p l sc w) 0 (fun u k m => if num u (val u k) < num u m then val u k else m) noFlags ∧
    go (.atomMax d a p l sc w) 0 (fun u k m => if num u m < num u (val u k) then val u k else m) noFlags ∧
    go (.atomAnd d a p l sc w) 0 (fun u k m => m &&& val u k) noFlags ∧
    go (.atomOr d a p l sc w) 0 (fun u k m => m ||| val u k) noFlags ∧
    go (.atomXor d a p l sc w) 0 (fun u k m => m ^^^ val u k) noFlags ∧
    go (.atomXchg d a p l sc w) 0 (fun u k _ => val u k) noFlags ∧
    go (.atomCas d a p l sc w) 0 (fun u k m => if m = val u k then u.regValue (d.toNat + n / 4) k n else m) noFlags ∧
    go (.atomWinc d a p l sc w) 0 (fun u k m => if val u k = 0 then (m + 1) % top else (m + 1) % val u k) noFlags ∧
    let sum := fun (u : State) (k m : Nat) => let T := gmT u.spl.gm
      let z := sumOf (gmRM u.spl.gm) (decodeVal T m) (decodeVal T (val u k))
      let r := roundTo (gmRM u.spl.gm) false (drawOf u 0 k) z.1 T
      (r.1, z.2 ||| r.2)
    go (.atomFadd d a p l sc w) 1 (fun u k m => (sum u k m).1) (fun u k m => (sum u k m).2)

/-- R238, R239, R333: `lr` gives each lane the value of its location and a protected reservation of the line; a lane's `sc`
stores and gives 0 where its reservation stands and no older one protects the line, else stores nothing and gives 1; the
reservation ends. The protection of the oldest reservation of a line can run out; by itself that changes no byte (what it has
held is performed as the step ends, `StepRunsDecoded`). -/
def Obligations.ReservedPairs : Prop :=
  ∀ (s : State) (d a : Reg) (p : Perm) (l : BitVec 4) (sc : BitVec 3) (w : BitVec 2),
    let n := if w.toNat = 1 then 8 else 4
    (Runs (.lr d a p l sc w) s → let u := s.ready (.lr d a p l sc w)
      ∀ (bs : Nat → List Byte) (ps : Nat → List (Nat × Nat)),
      let pas := u.active.flatMap fun k => (ps k).map (·.1)
      (∀ k ∈ u.active, u.readLane k (u.addr a p k) n .rmw true = .ok (bs k) false (ps k) ∧
        u.ownOnLine false (lineOf (ps k)) = false) →
      u.grp.region = none → u.spl.spec = none → u.opens pas →
      ∃ t, exec (.lr d a p l sc w) s = .next t ∧ Onward s t ∧ KeptGroup u.grp { t.grp with lr := u.grp.lr } ∧
        KeptSplits u t ∧ KeptDevice (u.crossed pas) t ∧ (∀ pa cp, t.byteAt (pa, cp) = u.byteAt (pa, cp)) ∧
        (∀ o, t.blk.byte o = u.blk.byte o) ∧ KeptFlags u t ∧
        RegsBecome u t (inWords u d (n / 4) fun k => wordsOf n (natOfBytes (bs k))) ∧
        (∀ k ∈ u.active, (k, (⟨u.blk.asid, lineOf (ps k), u.tick, true⟩ : LrRes)) ∈ t.grp.lr) ∧
        ∀ x ∈ t.grp.lr, x.1 ∈ u.active ∨ x ∈ u.grp.lr) ∧
    (Runs (.sc d a p l sc w) s → let u := s.ready (.sc d a p l sc w)
      ∀ (k : Nat) (bs : List Byte) (ps : List (Nat × Nat)), u.active = [k] →
      u.readLane k (u.addr a p k) n .rmw true = .ok bs false ps → InHbm u ps → u.quiet = true →
      u.grp.region = none → (∀ k, (u.grp.splitAt k).spec = none) → NoCopies u →
      let live := u.scLive [(k, ps)] k (lineOf ps)
      (live = true → u.priorityHolds u.who false (lineOf ps) = false) → u.opens (ps.map (·.1)) →
      ∃ t, exec (.sc d a p l sc w) s = .next t ∧ Onward s t ∧ KeptGroup u.grp { t.grp with lr := u.grp.lr } ∧
        KeptSplits u t ∧ KeptDevice (u.crossed (ps.map (·.1))) t ∧ KeptFlags u t ∧ (∀ x ∈ t.grp.lr, x.1 ≠ k ∧ x ∈ u.grp.lr) ∧
        RegsBecome u t (inWords u d (n / 4) fun _ => wordsOf n (if live then 0 else 1)) ∧
        OnlyAt u t ps ∧ (live = true → Holds t ps n (u.regValue d.toNat k n)) ∧
        (live = false → ∀ pa cp, t.byteAt (pa, cp) = u.byteAt (pa, cp))) ∧
    ∀ granule, (s.protector granule = none → ∃ t, exec (.reservationProtectionExpiry granule) s = .next t ∧
        KeptWork s t) ∧
      ∀ k r n, s.grp.lr = [(k, r)] → s.blk.record ≠ [] → s.protector granule = some (s.blk.core, s.grp.slot, k, n) →
        ∃ t, exec (.reservationProtectionExpiry granule) s = .next t ∧ (∀ pa cp, t.byteAt (pa, cp) = s.byteAt (pa, cp)) ∧
          t.grp.lr = if (s.holders granule).length ≤ 1 then [(k, { r with isProtected := false })] else []

/-- R189, R192, R241: a `red` completes without changing memory or its registers, and sends one combined request for each
location of its active lanes, which carries the flags that its rounding raised (R97) and, under SR, what the generators of its
lanes held (R89); one that has been accepted at its home, that nothing holds and no earlier one of its split precedes there, is
applied as one update, and one of an old generation, or that its home takes no more, goes back rejected, before what its split
sent later, but where the removal of its context has come to the load-store units it is over (R391). -/
def Obligations.Reductions : Prop :=
  ∀ (s : State) (d a : Reg) (p : Perm) (l : BitVec 4) (w : BitVec 2),
    let n := if w.toNat = 1 then 8 else 4
    let go := fun (i : Instr) (op : Nat) => Runs i s → let u := s.ready i
      ∀ (bs : Nat → List Byte) (ps : Nat → List (Nat × Nat)),
      (∀ k ∈ u.active, u.readLane k (u.addr a p k) n .rmw true = .ok (bs k) false (ps k)) →
      ∃ t, exec i s = .next t ∧ Onward s t ∧ RegsBecome u t nowhere ∧ Kept u t ∧ t.grp.fl = u.landed ∧
        t.grp.region = u.grp.region ∧ Drew u t u.active (if op = 6 ∧ gmRM u.spl.gm = 5 then 1 else 0) ∧
        (∃ new, t.mem.requests = u.mem.requests ++ new ∧ (new.map (·.pa)).Nodup ∧
          (∀ r ∈ new, r.red.isSome = true ∧ ∃ k ∈ u.active, r.pa = ((ps k).headD (0, 0)).1) ∧
          ∀ k ∈ u.active, ∃ r ∈ new, r.pa = ((ps k).headD (0, 0)).1) ∧
        ∀ k, u.active = [k] → ∃ r, t.mem.requests = u.mem.requests ++ [r] ∧ r.pa = ((ps k).headD (0, 0)).1 ∧
          r.asid = u.blk.asid ∧ r.gen = u.gen u.blk.asid ∧ r.rejected = false ∧
          let v := decodeVal (gmT u.spl.gm) (u.regValue d.toNat k n)
          let z := sumVals (gmRM u.spl.gm) [v]
          let c := roundTo (gmRM u.spl.gm) false (drawOf u 0 k) z.1 (gmT u.spl.gm)
          r.red = some ⟨op, n, BitVec.ofNat 64 (if op = 6 then c.1 else u.regValue d.toNat k n), gmTA u.spl.gm,
            gmRM u.spl.gm, maskOfLanes [k], if op = 6 then ivIf (z.2 || v.isSig) ||| c.2 else 0, 0,
            if op = 6 ∧ gmRM u.spl.gm = 5 then [(k, sget 0 u.grp.gs k)] else []⟩
    go (.redAdd d a p l w) 0 ∧ go (.redMin d a p l w) 1 ∧ go (.redMax d a p l w) 2 ∧ go (.redAnd d a p l w) 3 ∧
    go (.redOr d a p l w) 4 ∧ go (.redXor d a p l w) 5 ∧ go (.redFadd d a p l w) 6 ∧
    ∀ k r, s.mem.reductions[k]? = some r →
      (s.removalAt r.asid 5 = false → (r.gen ≠ s.gen r.asid ∨ s.carried r.asid r.pa = false ∨ s.refusedAtHome r = true) →
        ∃ t before after, exec (.redApply k) s = .next t ∧ t.mem.reductions = s.mem.reductions.eraseIdx k ∧
          s.mem.requests = before ++ after ∧ t.mem.requests = before ++ { r with rejected := true } :: after ∧
          (∀ q ∈ before, q.sameSplit r = true → q.origin.stamp ≤ r.origin.stamp) ∧
          (∀ q, after.head? = some q → q.sameSplit r = true ∧ r.origin.stamp < q.origin.stamp) ∧ KeptWork s t) ∧
      (s.removalAt r.asid 5 = true → r.gen ≠ s.gen r.asid →
        ∃ t, exec (.redApply k) s = .next t ∧ t.mem.reductions = s.mem.reductions.eraseIdx k ∧
          t.mem.requests = s.mem.requests ∧ KeptWork s t) ∧
      (∀ c, r.red = some c → s.fresh r.asid r.gen r.cp = true → s.carried r.asid r.pa = true → s.refusedAtHome r = false →
        (∀ q ∈ s.mem.requests, ¬(q.sameSplit r = true ∧ q.meetsLine false (r.pa / 64) = true ∧
          q.origin.stamp < r.origin.stamp)) →
        (∀ q ∈ s.mem.reductions.take k, ¬(q.core = r.core ∧ q.slot = r.slot ∧ q.spl = r.spl ∧ q.pa / 64 = r.pa / 64)) →
        s.priorityHolds none false (r.pa / 64) = false →
        s.protectedFrom (some (r.core, r.slot, r.spl)) (r.pa / 64) = false →
        let places := (List.range c.bytes).map fun j => (r.pa + j, r.cp)
        let m := natOfBytes (places.map (s.oldAt r.asid))
        InHbm s places → ∃ t, exec (.redApply k) s = .next t ∧ t.mem.reductions = s.mem.reductions.eraseIdx k ∧
          Holds t places c.bytes (c.apply m) ∧ OnlyAt s t places)

/-- R242, R286: `pushm` moves sp down by 128 bytes a register and stores every lane of the domain below; where writes to a line
of its bytes are held it waits, with sp and the bytes as they were (R136, R325). `popm` loads them back and moves sp up; an
error that nothing corrects raises ECC at the lowest lane that reads it (R380, R393). Outside the group's spill range they
raise PROT, and with no active lane they do nothing. That sp stands at 2^21 where its bits are 0 is the model's reading (log
entry 32). -/
def Obligations.SpillStack : Prop :=
  ∀ (s : State) (d a : Reg) (l : BitVec 4), let n := a.toNat + 1 - d.toNat
    (Runs (.pushm d a l) s → let u := s.ready (.pushm d a l)
      (u.active = [] → Sets (.pushm d a l) s nowhere) ∧
      (u.active ≠ [] → (u.spAt < u.spillBottom + 128 * n ∨ u.spillTop < u.spAt) → Delivers s →
        Traps (.pushm d a l) s tPROT) ∧
      (u.active ≠ [] → u.spillBottom + 128 * n ≤ u.spAt → u.spAt ≤ u.spillTop → Unwatched u →
        u.blk.computing (u.spAt - 128 * n) (128 * n) = false →
        let bytes := fun (o : Nat) => ∃ j < n, ∃ k ∈ u.domLanes, ∃ b < 4, o = u.spAt - 128 * n + 128 * j + 4 * k + b
        let held := ∃ o, bytes o ∧ (u.lineHeld u.who true (o / 64) = true ∨ u.ownOnLine true (o / 64) = true)
        (held → ∃ t m, exec (.pushm d a l) s = .next t ∧ t.spl.pc = s.spl.pc ∧ t.spl.wait = some (.held, m) ∧
          t.grp.sp = s.grp.sp ∧ (∀ r k, t.reg r k = s.reg r k) ∧ ∀ o, t.blk.byte o = s.blk.byte o) ∧
        (¬held → ∃ t, exec (.pushm d a l) s = .next t ∧ Onward s t ∧ RegsBecome u t nowhere ∧
          KeptGroup u.grp { t.grp with sp := u.grp.sp } ∧ KeptSplits u t ∧ KeptDevice u t ∧
          KeptFlags u t ∧ (∀ pa cp, t.byteAt (pa, cp) = u.byteAt (pa, cp)) ∧
          t.grp.sp = BitVec.ofNat 21 (u.spAt - 128 * n) ∧
          (∀ j < n, ∀ k ∈ u.domLanes, ∀ b < 4, let o := u.spAt - 128 * n + 128 * j + 4 * k + b
            t.blk.byte o = (u.source (d.toNat + j) k).extractLsb' (8 * b) 8) ∧
          (∀ o, ¬bytes o → t.blk.byte o = u.blk.byte o) ∧ t.mem.requests = u.mem.requests))) ∧
    (Runs (.popm d a l) s → let u := s.ready (.popm d a l)
      (u.active = [] → Sets (.popm d a l) s nowhere) ∧
      (u.active ≠ [] → (u.spillTop < u.spAt + 128 * n ∨ u.spAt < u.spillBottom) → Delivers s →
        Traps (.popm d a l) s tPROT) ∧
      (∀ k, u.active ≠ [] → u.spAt + 128 * n ≤ u.spillTop → u.spillBottom ≤ u.spAt → Delivers s →
        s.foundLate (.popm d a l) = false →
        u.domLanes.find? (fun k => (List.range n).any fun j => u.bankUpset (u.spAt + 128 * j + 4 * k) 4) = some k →
        ∃ t, exec (.popm d a l) s = .next t ∧ Entered u t tECC ∧ bits (sget 0 t.grp.trap 0) 21 17 = k ∧
          bits (sget 0 t.grp.trap 1) 59 56 = 2 ∧ SameData u t) ∧
      (u.active ≠ [] → u.spAt + 128 * n ≤ u.spillTop → u.spillBottom ≤ u.spAt →
        (∀ j < n, ∀ k ∈ u.domLanes, u.bankUpset (u.spAt + 128 * j + 4 * k) 4 = false ∧
          u.spadWaits [u.spAt + 128 * j + 4 * k] = false) → u.grp.region = none → u.spl.spec = none →
        ∃ t, exec (.popm d a l) s = .next t ∧ Onward s t ∧ KeptGroup u.grp { t.grp with sp := u.grp.sp } ∧
          KeptSplits u t ∧ KeptDevice u t ∧ KeptMemory u t ∧ KeptFlags u t ∧
          t.grp.sp = BitVec.ofNat 21 (u.spAt + 128 * n) ∧
          RegsBecome u t fun r k => if k ∈ u.domLanes ∧ d.toNat ≤ r ∧ r < d.toNat + n then
            some (let o := u.spAt + 128 * (r - d.toNat) + 4 * k
              u.blk.byte (o + 3) ++ u.blk.byte (o + 2) ++ u.blk.byte (o + 1) ++ u.blk.byte o) else none))

/-- R207, R209, R243 to R247: `fence` lets the split run on with what it may roll back to; once earlier writes have
completed, a fence whose held stores go to memory ends and sends them as requests, changing no data; `bind` and `unbind`
set and clear the binding of a region with their status; `acq` gives the object's word; `rel` adds one to it; `cln` writes
the lines of its pages back to HBM where a firewall lets it reach them, and `inv` drops L1 copies, changing no value at a
home. -/
def Obligations.FencesAndLines : Prop :=
  ∀ (s : State) (d a : Reg) (p : Perm) (l : BitVec 4) (sc : BitVec 3) (x : BitVec 2),
    (Runs (.fence l sc) s → let u := s.ready (.fence l sc)
      ∃ t f, exec (.fence l sc) s = .next t ∧ Onward s t ∧ RegsBecome u t nowhere ∧ Kept u t ∧ KeptFlags u t ∧
        t.spl.spec = some f ∧ f.pc = s.spl.pc ∧ f.scope = sc.toNat ∧ f.regs = u.grp.regs ∧ f.em = s.spl.em ∧
        f.gm = s.spl.gm ∧ f.buffer = []) ∧
    (∀ f, s.spl.spec = some f → (∀ h ∈ f.buffer, h.spad = false) → s.blk.record ≠ [] → s.quiet = true →
      ∃ t, exec (.fenceComplete s.blk.core s.grp.slot s.cur) s = .next t ∧ t.spl.spec = none ∧
        t.spl.pc = s.spl.pc ∧ (∀ r k, t.reg r k = s.reg r k) ∧ (∀ pa cp, t.byteAt (pa, cp) = s.byteAt (pa, cp)) ∧
        t.mem.requests = s.mem.requests ++ requestsOf s.blk.asid s.blk.core s.grp.slot s.cur f.buffer) ∧
    (Runs (.bind d a p l) s → let u := s.ready (.bind d a p l)
      let region := u.addr a p u.ctl / 4096
      let obj := (u.operand64 (a.toNat + 2) p u.ctl).toNat
      ∀ ps, u.check u.me u.blk.asid obj 8 .rmw u.inHandler = .mem ps →
        (∀ b, u.mem.bindings.find? (fun b => b.1 == u.blk.asid && b.2.1 == region) = some b →
          Sets (.bind d a p l) s (inCtl u d (if b.2.2 = obj then 0 else 2))) ∧
        ((∀ b ∈ u.mem.bindings, ¬(b.1 = u.blk.asid ∧ b.2.1 = region)) →
          ((u.mem.bindings.filter (·.1 == u.blk.asid)).length < 4096 → ∃ t, exec (.bind d a p l) s = .next t ∧
            RegsBecome u t (inCtl u d 0) ∧ t.mem.bindings = u.mem.bindings ++ [(u.blk.asid, region, obj)] ∧ Kept u t ∧
            KeptFlags u t ∧ Onward s t) ∧
          (4096 ≤ (u.mem.bindings.filter (·.1 == u.blk.asid)).length → Sets (.bind d a p l) s (inCtl u d 1)))) ∧
    (Runs (.unbind d a p l) s → let u := s.ready (.unbind d a p l)
      let region := u.addr a p u.ctl / 4096
      ∃ t v, exec (.unbind d a p l) s = .next t ∧ RegsBecome u t (inCtl u d v) ∧ Kept u t ∧ KeptFlags u t ∧ Onward s t ∧
        (∀ b, b ∈ t.mem.bindings ↔ b ∈ u.mem.bindings ∧ ¬(b.1 = u.blk.asid ∧ b.2.1 = region)) ∧
        (v = if ∃ b ∈ u.mem.bindings, b.1 = u.blk.asid ∧ b.2.1 = region then 0 else 3)) ∧
    (Runs (.acq d a p l sc) s → let u := s.ready (.acq d a p l sc)
      ∀ bs sp ps, u.readLane u.ctl (u.addr a p u.ctl) 8 .rmw true = .ok bs sp ps → u.mustWait true ps = false →
        u.opens (ps.map (·.1)) → SetsAcross (.acq d a p l sc) s (ps.map (·.1)) (inCtlPair u d (BitVec.ofNat 64 (natOfBytes bs)))) ∧
    (Runs (.rel a p l sc) s → let u := s.ready (.rel a p l sc)
      ∀ bs ps, u.readLane u.ctl (u.addr a p u.ctl) 8 .rmw true = .ok bs false ps → InHbm u ps →
        u.quiet = true → Unwatched u → (∀ at_ ∈ ps, u.lineHeld u.who false (at_.1 / 64) = false ∧
          u.oldAt u.blk.asid at_ = u.readAt u.blk.asid at_) → u.opens (ps.map (·.1)) →
        ∃ t, exec (.rel a p l sc) s = .next t ∧ Onward s t ∧ RegsBecome u t nowhere ∧ KeptOwn (u.crossed (ps.map (·.1))) t ∧
          Holds t ps 8 (natOfBytes bs + 1) ∧ OnlyAt u t ps) ∧
    (Runs (.cln d a p l) s → let u := s.ready (.cln d a p l)
      let va := u.addr a p u.ctl
      let n := (u.scalar d).toNat
      (∀ page ∈ pagesOf va n, page < 2 ^ 57 ∧ (aliasBase ≤ page ∨
        ∃ f leaf, u.translate u.me u.blk.asid page = some (f, leaf) ∧ walkDenied leaf = false ∧
          (leaf.getLsbD 1 = true ∨ leaf.getLsbD 2 = true) ∧ (leaf.getLsbD 4 = false ∨ u.inHandler = true) ∧
          (leafCP leaf = 1 ∨ u.passes u.blk.asid u.me (4096 * f + max va page % 4096) .load = true ∨
            u.passes u.blk.asid u.me (4096 * f + max va page % 4096) .store = true))) →
      (u.mem.stale = [] ∨ (pagesOf va n).length ≤ 1) →
      ∃ t, exec (.cln d a p l) s = .next t ∧ Onward s t ∧ RegsBecome u t nowhere ∧ KeptOwn u t ∧ t.blk = u.blk ∧
        t.blocks = u.blocks ∧ (∀ pa, t.homeByte pa = u.homeByte pa) ∧
        (∀ pa, t.byteAt (pa, 1) = u.byteAt (pa, 1) ∨ t.byteAt (pa, 1) = u.homeByte pa) ∧
        ∀ page ∈ pagesOf va n, page < aliasBase → ∀ f leaf, u.translate u.me u.blk.asid page = some (f, leaf) →
          leafCP leaf ≠ 1 → ∀ line ∈ linesIn (u.placeFrame f) page va n, t.l2Entry line = none) ∧
    (Runs (.inv d a p l x) s → let u := s.ready (.inv d a p l x)
      (x ≠ 0 → u.quiet = true) → Sets (.inv d a p l x) s nowhere ∧
        (x ≠ 1 → ∃ t, exec (.inv d a p l x) s = .next t ∧
          ∀ line ∈ u.rangeLines (u.addr a p u.ctl) (u.scalar d).toNat, t.l1Line u.blk.core line = none))

/-! ## Banks that compute (0xC0 to 0xCA) -/

/-- R135, R139 to R142, R163, R165 to R168, R170: `resv` makes the record with the handle of its banks in STORAGE, owned
by the block, and zeroes its accumulator lines, or answers the code of the first condition that holds and makes nothing:
BADREC (a type, a pairing, a block length, an empty count, a range of banks or a scale area that R140, R163 and R166 do
not take), NOTOWN, BANKBUSY, ACCBUSY. That the B region of a bank counts all G column groups is the model's reading (log
entry 73). `resv.rd` gives the record or zeros; `resv.free` ends it; `bank.cm` and `bank.sm` change its mode, the first
with ECC instead where an error stands in a STORAGE bank; a handle word with high bits, or one that names nothing,
raises ICONV. -/
def Obligations.Reservations : Prop :=
  ∀ (s : State) (d a : Reg) (p : Perm) (l : BitVec 4),
    (Runs (.resv d a p l) s → let u := s.ready (.resv d a p l)
      let w0 := u.operand64 a.toNat p u.ctl
      let w1 := u.operand64 (a.toNat + 2) p u.ctl
      let first := bits w0 63 58
      let b := bits w0 57 52 + 1
      let ta := bits w0 51 47
      let tb := bits w0 46 42
      let soff := bits w0 39 25
      let kb := bits w0 18 11
      let accb := bits w1 17 9
      let accl := bits w1 8 0
      let width := fun (t : Nat) => if t ∈ [6, 10, 20] then 4 else if t ∈ [4, 5, 7, 8, 9, 11, 14] then 8
        else if t ∈ [2, 3, 12, 15] then 16 else if t = 0 then 32 else if t = 18 then 128 else 64
      let wb := if tb ∈ [2, 12, 15] then 2 else if tb = 0 then 3 else if tb = 1 then 7 else if tb = 17 then 6
        else if tb = 18 then 14 else 1
      let K := 512 / width ta
      let S := 128 / K
      let G := (16 * bits w0 24 19 * wb + 16 * b - 1) / (16 * b)
      let listed := [0, 1, 2, 3, 4, 5, 6, 7, 8, 9, 10, 11, 12, 14, 15, 17, 18, 20]
      let scales := kb * (K / (16 * 2 ^ bits w0 41 40)) * 16 * G
      let bad := ta ∉ listed ∨ tb ∉ listed ∨ ((ta ∈ [0, 1, 17, 18] ∨ tb ∈ [0, 1, 17, 18]) ∧ ta ≠ tb) ∨ bits w0 41 40 = 3 ∨
        ((ta ∈ [6, 7, 8, 9] ∨ tb ∈ [6, 7, 8, 9]) ∧ bits w0 41 40 ≠ 1) ∨ bits w0 24 19 = 0 ∨ kb = 0 ∨ 64 < first + b ∨
        16 < (kb + S - 1) / S * G ∨ (tb ∈ [6, 7, 8, 9, 10] ∧ (32768 < soff + scales ∨
          ∃ j < kb, ∃ k < K, ∃ g < G, ∃ e < 16, let o := 256 * (j % S * K + k) + 16 * (j / S * G + g) + e
            soff ≤ o ∧ o < soff + scales))
      let conditions := [bad, u.blk.bankCount < first + b,
        ∃ o ∈ u.blk.resvs, ∃ n, first ≤ n ∧ n < first + b ∧ o.first ≤ n ∧ n < o.first + o.count,
        511 < accb + accl ∨ ∃ c ∈ u.allBlocks, c.core = u.blk.core ∧ ∃ o ∈ c.resvs, ∃ n, accb ≤ n ∧ n ≤ accb + accl ∧
          o.accb ≤ n ∧ n ≤ o.accb + o.accl]
      (∀ j c, conditions[j]? = some c → c → (∀ e ∈ conditions.take j, ¬e) →
        Sets (.resv d a p l) s (inCtl u d (BitVec.ofNat 32 ((j + 1) * 65536)))) ∧
      ((∀ c ∈ conditions, ¬c) → ∃ t r, exec (.resv d a p l) s = .next t ∧ Onward s t ∧ KeptData u t ∧ KeptFlags u t ∧
        RegsBecome u t (inCtl u d (BitVec.ofNat 32 r.handle)) ∧ t.blk.resvs = u.blk.resvs ++ [r] ∧ r.mode = 0 ∧
        r.handle = 0x8000 + bits w0 57 52 * 64 + first ∧ r.work = [] ∧ r.first = first ∧ r.count = b ∧ r.ta = ta ∧ r.tb = tb ∧
        r.ncol = 16 * bits w0 24 19 ∧ r.kb = kb ∧ r.accb = accb ∧ r.accl = accl ∧ r.pfl = 0 ∧ r.blen = bits w0 41 40 ∧
        r.soff = soff ∧ r.anch = (w1.extractLsb' 18 12).toInt ∧ (u.blk.bslot < 65536 → bits r.w1 47 32 = u.blk.bslot) ∧
        (∀ line, r.accb ≤ line → line ≤ r.accb + r.accl → ∀ e < 32, t.acc u.blk.core (line, e) = 0) ∧
        KeptAcc u t fun at' => r.accb ≤ at'.1 ∧ at'.1 ≤ r.accb + r.accl)) ∧
    (Runs (.resvRd d a p l) s → let u := s.ready (.resvRd d a p l)
      let h := u.operand a.toNat p u.ctl
      let gives := fun (w0 w1 : DWord) => Sets (.resvRd d a p l) s fun r k => if k = u.ctl then
        (if r = d.toNat then some (low32 w0) else if r = d.toNat + 1 then some (high32 w0)
          else if r = d.toNat + 2 then some (low32 w1) else if r = d.toNat + 3 then some (high32 w1) else none) else none
      (bits h 31 16 = 0 → ∀ r, u.blk.resv h.toNat = some r → gives r.w0 r.w1) ∧
      (bits h 31 16 = 0 → u.blk.resv h.toNat = none → gives 0 0) ∧
      (bits h 31 16 ≠ 0 → Delivers s → Traps (.resvRd d a p l) s tICONV)) ∧
    (Runs (.resvFree d a p l) s → let u := s.ready (.resvFree d a p l)
      let h := u.operand a.toNat p u.ctl
      (∀ r, bits h 31 16 = 0 → u.blk.resv h.toNat = some r → r.work = [] → (r.mode = 1 → u.writing r = false) →
        ∃ t, exec (.resvFree d a p l) s = .next t ∧
        Onward s t ∧ KeptData u t ∧ KeptFlags u t ∧ RegsBecome u t (inCtl u d 0) ∧
        ∀ o, o ∈ t.blk.resvs ↔ o ∈ u.blk.resvs ∧ o.handle ≠ h.toNat) ∧
      ((bits h 31 16 ≠ 0 ∨ u.blk.resv h.toNat = none) → Delivers s → Traps (.resvFree d a p l) s tICONV)) ∧
    (Runs (.bankCm a p l) s → let u := s.ready (.bankCm a p l)
      let h := u.operand a.toNat p u.ctl
      (∀ r, bits h 31 16 = 0 → u.blk.resv h.toNat = some r → (r.mode ≠ 1 → u.blk.filling r = false ∧ u.writing r = false ∧
          u.engineWriting r = false ∧ u.resvUpset r = false) →
        ∃ t r', exec (.bankCm a p l) s = .next t ∧ Onward s t ∧ KeptData u t ∧ KeptFlags u t ∧ RegsBecome u t nowhere ∧
          KeptAcc u t (fun _ => False) ∧ t.blk.resv h.toNat = some r' ∧ r'.mode = 1 ∧ r'.work = r.work) ∧
      (∀ r, bits h 31 16 = 0 → u.blk.resv h.toNat = some r → r.mode = 0 → u.blk.filling r = false → u.writing r = false →
        u.engineWriting r = false → u.resvUpset r = true → Delivers s → Traps (.bankCm a p l) s tECC) ∧
      ((bits h 31 16 ≠ 0 ∨ u.blk.resv h.toNat = none) → Delivers s → Traps (.bankCm a p l) s tICONV)) ∧
    (Runs (.bankSm a p l) s → let u := s.ready (.bankSm a p l)
      let h := u.operand a.toNat p u.ctl
      (∀ r, bits h 31 16 = 0 → u.blk.resv h.toNat = some r → (r.mode = 1 → u.writing r = false) →
        ∃ t r', exec (.bankSm a p l) s = .next t ∧ Onward s t ∧
        KeptData u t ∧ KeptFlags u t ∧ RegsBecome u t nowhere ∧ KeptAcc u t (fun _ => False) ∧
        t.blk.resv h.toNat = some r' ∧ r'.work = r.work ∧
        r'.mode = if r.mode = 1 then (if r.work = [] then 0 else 2) else r.mode) ∧
      ((bits h 31 16 ≠ 0 ∨ u.blk.resv h.toNat = none) → Delivers s → Traps (.bankSm a p l) s tICONV))

/-- R145, R171 to R173: `acc.rd` rounds the entries of a row's chunk to TB in the active lanes within the columns;
`acc.wr` makes entries of the lanes' values, rounded or anchored; `acc.clr` zeroes the reservation's lines or a row's. -/
def Obligations.AccumulatorAccess : Prop :=
  ∀ (s : State) (d a : Reg) (p : Perm) (l : BitVec 4) (x : BitVec 1) (r : Resv),
    (let u := s.ready (.accRd d a p l x)
     let w := u.operand a.toNat p u.ctl
     let col := fun k => 32 * addrChunk w + k
     let at' := fun k => r.partEntry (addrRow w) (col k) x.toNat
     let T := fmtD (gmTB u.spl.gm)
     let z := fun k => rounded u T 0 (r.accVal x.toNat (u.acc u.blk.core (at' k))) k
     Addresses u w x.toNat r → u.updating = false → (∀ k ∈ u.active, u.accUpset (at' k) = false) →
     Codes (.accRd d a p l x) s 1
       (fun v r' k => if col k < r.ncol then inFormat v d.toNat T (fun k => (z k).1) r' k else none)
       (fun _ k => if col k < r.ncol then (z k).2 else 0)) ∧
    (Runs (.accWr d a p l x) s → let u := s.ready (.accWr d a p l x)
      let w := u.source d.toNat u.ctl
      let col := fun k => 32 * addrChunk w + k
      let v := fun k => u.srcVal 0 a.toNat p k (fmtD (gmTA u.spl.gm))
      let at' := fun k => r.partEntry (addrRow w) (col k) x.toNat
      let fp := isFpClass r.ta
      Addresses u w x.toNat r → u.updating = false → r.accb + r.accl < 512 → 0 < r.rowLines →
      ∃ t, exec (.accWr d a p l x) s = .next t ∧ Onward s t ∧ KeptData u t ∧ RegsBecome u t nowhere ∧
        t.blk = u.blk ∧ t.blocks = u.blocks ∧ Drew u t u.active (if fp = true ∧ gmRM u.spl.gm = 5 then 1 else 0) ∧
        Raised u t u.active (fun k => if col k < r.ncol then
          (if fp then (rounded u r.accFmt 0 (v k) k).2 else (r.writeAnchored (gmSAT u.spl.gm) (u.acc u.blk.core (at' k)) (v k)).2) else 0) ∧
        (∀ k ∈ u.active, col k < r.ncol → t.acc u.blk.core (at' k) =
          if fp then r.setPart x.toNat (u.acc u.blk.core (at' k)) (rounded u r.accFmt 0 (v k) k).1
          else (r.writeAnchored (gmSAT u.spl.gm) (u.acc u.blk.core (at' k)) (v k)).1) ∧
        KeptAcc u t fun e => ∃ k ∈ u.active, col k < r.ncol ∧ e = at' k) ∧
    (Runs (.accClr a p l x) s → let u := s.ready (.accClr a p l x)
      let w := u.operand a.toNat p u.ctl
      let lo := if x = 0 then r.accb else r.accb + addrRow w * r.rowLines
      let n := if x = 0 then r.accl + 1 else r.rowLines
      Addresses u w 0 r → (x = 0 → bits w 29 16 = 0) → u.updating = false →
      ∃ t, exec (.accClr a p l x) s = .next t ∧ Onward s t ∧ KeptData u t ∧ KeptFlags u t ∧ RegsBecome u t nowhere ∧
        t.blk = u.blk ∧ (∀ line, lo ≤ line → line < lo + n → ∀ e < 32, t.acc u.blk.core (line, e) = 0) ∧
        KeptAcc u t fun e => lo ≤ e.1 ∧ e.1 < lo + n)

/-- R155, R161, R175, R176, R179, R180, R214: `mma`, `mmas` and `desc` issue with their register block as it stands, start at
once unless an older instruction holds their row slot, and change nothing else yet. The checks of R176 and R180 come in their
order, told by the words of the block, and the first that fails traps with its code. -/
def Obligations.MatrixIssue : Prop :=
  ∀ (s : State) (n : BitVec 6) (m : BitVec 2) (k : BitVec 3) (x : BitVec 6) (sl : BitVec 3) (l : BitVec 4) (r : Resv),
    let N := 16 * n.toNat
    let M := 16 * 2 ^ m.toNat
    let noTra := (6 ≤ r.ta ∧ r.ta ≤ 10) ∨ r.ta = 20
    let mcap := (r.accl + 1) / (if r.ta = 18 then (r.ncol + 15) / 16 else (r.ncol + 31) / 32)
    let rows := fun (sparse : Bool) (idx : Nat) (_ : State) (word : Nat → Word) =>
      let j := bits (word 3) 31 16
      let cb := bits (word 6) 31 16
      [(bits (word 1) 31 25 ≠ 0 ∨ bits (word 7) 31 3 ≠ 0, tICONV),
        (((word 7).getLsbD 0 = true ∧ noTra) ∨ ((word 7).getLsbD 1 = true ∧ r.ta ≠ 17 ∧ r.ta ≠ 18), tICONV),
        (if sparse = true then j % 2 = 1 ∨ r.kb ≤ j + 1 else r.kb ≤ j, tICONV), (cb % 16 ≠ 0 ∨ r.ncol < cb + N, tICONV),
        (mcap < bits (word 4) 31 16 + M, tICONV),
        (sparse = true ∧ (r.ta ∈ [0, 1, 17, 18] ∨ 64 < x.toNat + idx), tICONV), (r.mode ≠ 1, tBANKMODE)]
    let nodes := fun (u : State) (word : Nat → Word) =>
      let depth := bits (word 7) 10 6
      let side := bits (word 7) 31 11
      let top := side + 8 * (64 * (depth - 1) + M)
      [(bits (word 1) 31 25 ≠ 0 ∨ bits (word 7) 5 1 ≠ 0 ∨ depth = 0 ∨ 24 < depth ∨ side % 8 ≠ 0 ∨ bits (word 6) 31 16 ≠ 0 ∨
          r.kb ≤ bits (word 3) 31 16 ∨ r.ncol < N ∨ r.ta = 17 ∨ r.ta = 18 ∨ ((word 7).getLsbD 0 = true ∧ noTra), tICONV),
        (r.mode ≠ 1 ∨ ∃ o, side ≤ o ∧ o < top ∧ u.blk.bankMode (o / 32768) ≠ 0, tBANKMODE), (u.blk.spadSize < top, tPROT)]
    let go := fun (i : Instr) (kind x' sel idx : Nat) (table : State → (Nat → Word) → List (Prop × Nat)) => Runs i s →
      let u := s.ready i
      let word := fun (j : Nat) => u.source (8 * k.toNat + j) 0
      let w := u.newWork kind k.toNat n.toNat m.toNat x' sel idx
      let checks := table u word
      (u.blk.resv w.hnd = some r → (∀ c ∈ checks, ¬c.1) → u.quiet = true → ∃ t r' w', exec i s = .next t ∧ Onward s t ∧
        KeptData u t ∧ KeptFlags u t ∧ RegsBecome u t nowhere ∧ KeptAcc u t (fun _ => False) ∧
        t.blk.resv w.hnd = some r' ∧ r'.work = r.work ++ [w'] ∧ w'.words = w.words ∧ w'.gm = s.spl.gm ∧ w'.pc = s.spl.pc ∧
        w'.kind = kind ∧ w'.started = !r.slotBusy w) ∧
      (u.blk.resv w.hnd = some r → ∀ (j : Nat) (c : Prop × Nat), checks[j]? = some c → c.1 → (∀ e ∈ checks.take j, ¬e.1) →
        Delivers s → Traps i s c.2) ∧
      (u.blk.resv w.hnd = none → Delivers s → Traps i s tICONV) ∧ w.hnd = bits (word 3) 15 0
    let v := s.ready (.mmas n m k x sl l)
    go (.mma n m k l) 0 0 0 0 (rows false 0) ∧
    go (.mmas n m k x sl l) 1 x.toNat sl.toNat (v.indexRegs k m sl) (rows true (v.indexRegs k m sl)) ∧
    go (.desc n m k x l) 2 x.toNat 0 0 nodes ∧
    ((matType r.ta).isSome = true → v.ctl = 0 → v.blk.resv (bits (v.source (8 * k.toNat + 3) 0) 15 0) = some r →
      v.indexRegs k m sl = ((8 * sl.toNat + M) * 2 * r.K + 1023) / 1024)

/-- R149, R151, R152, R155, R174, R177, R214: a waiting instruction takes its free row slot and starts. A started one
fetches its rows in any order. An `mma` or `mmas` with no older work on its core updates the row to which it has come once
that is fetched; a row that cannot be fetched leaves a fault pending, its number in row-progress and the flags of its rows
in PFL; with its rows done it completes, with M in row-progress, PFL 0 and its flags in fl. A `desc` fetches its rows and
then writes the traces and side entries of its descents. Fetches are told where no link on their way sleeps (R374). -/
def Obligations.MatrixMoves : Prop :=
  ∀ (s : State) (k h : Nat) (w : Work) (r : Resv), Settled s → s.workAt s.blk.core s.blk.bslot k = some (h, w) →
    w.slot = s.grp.slot → w.spl = s.cur → s.blk.resv h = some r →
    (∀ o ∈ r.work, o.stamp = w.stamp → o = w) →
    let i := Instr.matrixCompletion s.blk.core s.blk.bslot k
    let same := fun (t : State) => t.cur = s.cur ∧ t.blocks = s.blocks ∧ ∀ pa cp, t.byteAt (pa, cp) = s.byteAt (pa, cp)
    let gone := fun (t : State) => ∃ r', t.blk.resv h = some r' ∧ ∀ o ∈ r'.work, o.stamp ≠ w.stamp
    let becomes := fun (t : State) (P : Work → Prop) => ∃ r', t.blk.resv h = some r' ∧ r'.work.length = r.work.length ∧
      ∀ o ∈ r'.work, o.stamp = w.stamp → P o
    let regs := fun (t : State) (new : List (Nat × Word)) => ∀ r' < 64, ∀ j < 32,
      t.reg r' j = ((new.find? (·.1 == 32 * r' + j)).map (·.2)).getD (s.reg r' j)
    let open' := ∀ pa, s.opens [pa]
    let progress := fun (t : State) (m : Nat) => regs t [(32 * (8 * w.blk + 5), BitVec.ofNat 32 m)]
    (w.started = false → r.slotBusy w = false → r.mode = 1 →
      (w.kind = 2 → s.blk.computing w.side w.sideSize = false) →
      ∃ t, exec (.matrixSlotTaken s.blk.core s.blk.bslot k) s = .next t ∧ becomes t (fun o => o.started = true) ∧
        t.grp = s.grp ∧ same t) ∧
    (w.started = true → (∀ o ∈ s.works s.blk.core, w.stamp ≤ o.2.stamp) → w.kind ≠ 2 →
      (w.row < w.vr → ∀ raw, (w.fetched w.row = some raw ∨
          w.fetched w.row = none ∧ w.nextRow s.tick = some w.row ∧ s.rowA w r w.row = .ok raw ∧ open') →
        s.rowCheck w r w.row = none → let v := s.updateRow (s.indexed w) r w.row raw
        ∃ t, exec i s = .next t ∧ becomes t (fun o => o.row = w.row + 1 ∧ o.flags = w.flags ||| v.2) ∧
          t.cores.acc = v.1.cores.acc ∧ t.grp.regs = v.1.grp.regs ∧ t.grp.fl = v.1.grp.fl ∧ t.grp.gs = v.1.grp.gs ∧
          (s.spl.spec = none → t.grp = v.1.grp) ∧ same t) ∧
      (w.row < w.vr → w.fetched w.row = none → w.nextRow s.tick = some w.row → open' →
        (∀ q ∈ s.spl.pending, q.stamp ≠ w.stamp) → ∀ e, s.rowA w r w.row = .error (e, false) →
        ∃ t, exec i s = .next t ∧ gone t ∧ (∃ r', t.blk.resv h = some r' ∧ r'.pfl = r.pfl ||| w.flags) ∧
          progress t w.row ∧ t.grp.fl = s.grp.fl ∧ t.cores.acc = s.cores.acc ∧ same t ∧
          ∃ q ∈ t.spl.pending, q.info = e ∧ q.pc = w.pc) ∧
      (w.vr ≤ w.row → ∃ t, exec i s = .next t ∧ gone t ∧ (∃ r', t.blk.resv h = some r' ∧ r'.pfl = 0) ∧
        progress t w.M ∧ t.grp.fl = s.grp.fl ||| w.flags ||| r.pfl ∧ t.cores.acc = s.cores.acc ∧ same t)) ∧
    (∀ m, w.nextRow s.tick = some m → w.row ≤ m ∧ m < w.vr ∧ w.fetched m = none) ∧
    (w.nextRow s.tick = none → ∀ m, w.row ≤ m → m < w.vr → (w.fetched m).isSome = true) ∧
    (w.started = true → ∀ m, w.nextRow s.tick = some m → ((∃ o ∈ s.works s.blk.core, o.2.stamp < w.stamp) ∨ w.kind = 2 ∨
        w.row < w.vr ∧ w.fetched w.row = none ∧ m ≠ w.row) →
      open' → ∀ raw, s.rowA w r m = .ok raw → ∃ t, exec i s = .next t ∧
        becomes t (fun o => o.row = w.row ∧ o.ahead = w.ahead ++ [(m, raw)]) ∧ t.grp = s.grp ∧
        t.cores.acc = s.cores.acc ∧ same t) ∧
    (w.started = true → w.kind = 2 →
      (∀ m, w.nextRow s.tick = some m → (∀ j, w.row ≤ j → j < m → (w.fetched j).isSome = true) → open' →
        (∀ q ∈ s.spl.pending, q.stamp ≠ w.stamp) →
        ∀ e, s.rowA w r m = .error (e, false) → ∃ t, exec i s = .next t ∧ gone t ∧ t.grp.regs = s.grp.regs ∧
          t.grp.fl = s.grp.fl ∧ t.cores.acc = s.cores.acc ∧ same t ∧ ∃ q ∈ t.spl.pending, q.info = e ∧ q.pc = w.pc) ∧
      (w.nextRow s.tick = none → s.sideHeld w = false → (∀ o ∈ s.blk.resvs, ∀ x ∈ o.work, x.slot = w.slot → w.stamp ≤ x.stamp) →
        s.rowCheck w r 0 = none → s.blk.computing w.side w.sideSize = false → Unwatched s →
        ∀ v traces sides f, s.descendRows w r = (v, traces, sides, f) → ∃ t, exec i s = .next t ∧ gone t ∧
          regs t (traces.map fun x => (32 * w.x + x.1, BitVec.ofNat 32 x.2)) ∧ t.grp.fl = s.grp.fl ||| f ∧
          (∀ o, t.blk.byte o = (((sideBytes sides).reverse.find? (·.1 == o)).map (·.2)).getD (s.blk.byte o)) ∧
          t.cores.acc = s.cores.acc ∧ ∀ pa cp, t.byteAt (pa, cp) = s.byteAt (pa, cp)))

/-- R146, R149, R151: in anchored types a row updates exactly the elements of its unmasked columns, each by the
contributions of the row in order, saturated or wrapped to 48 bits, and its flags are theirs together; every other entry
stays, and so does everything but the accumulators.
R146: in types without scales the contribution of a row's finite elements is the exact sum of their products, in units
of 2 ^ ANCH, rounded towards minus infinity, with NX exactly where that loses something. -/
def Obligations.MatrixRows : Prop := (
  ∀ (s : State) (w : Work) (r : Resv) (m : Nat) (raw : List Byte), isFpClass r.ta = false →
    let v := s.updateRow w r m raw
    let entry := fun n => r.entry (w.rb + m) (w.cb + n)
    let step := fun n => accumulate (gmSAT w.gm) (if w.ovw then 0 else s.acc s.blk.core (entry n))
      (s.blk.contributions w r m raw (w.cb + n) (s.tick * 2 ^ 20 + m * 2 ^ 12 + (w.cb + n)))
    { v.1 with cores := s.cores } = s ∧ v.1.cores = { s.cores with acc := v.1.cores.acc } ∧
    (∀ n < w.vc, v.1.acc s.blk.core (entry n) = (step n).1) ∧
    v.2 = ((List.range w.vc).map fun n => (step n).2).foldl (· ||| ·) 0 ∧
    KeptAcc s v.1 fun e => ∃ n < w.vc, e = entry n) ∧ (
  ∀ (b : Block) (w : Work) (r : Resv) (raw : List Byte) (col lo len : Nat) (terms : List (Nat × Nat)) (x y : Nat × Nat → ℚ),
    isBlockType r.ta = false → isBlockType r.tb = false →
    (∀ t ∈ terms, Exactly (decodeVal (fmtD r.ta) (rowCode raw r.width t.1)) (x t) ∧
      Exactly (b.bVal r (w.kbi + t.2 / r.K) (t.2 % r.K) col 0) (y t)) →
    let z : ℚ := (terms.map fun t => x t * y t).sum / 2 ^ r.anch
    b.contribution w r raw col lo len terms = ((0, ⌊z⌋), if (⌊z⌋ : ℚ) = z then 0 else fNX))

/-! ## Engine queues, futures and tasks (0xD8 to 0xE2) -/

/-- R252 to R256: each of the five enqueuing instructions writes its entry with the next sequence number at its ring
slot, raises ISSUED, gives the handle and makes its register bear the future; a queue that the context does not own, a
reserved field or a bad entry traps and enqueues nothing. That every kind goes on every queue is the model's choice (log
entry 86). -/
def Obligations.Enqueuing : Prop :=
  ∀ (s : State) (d a : Reg) (p : Perm) (l : BitVec 4),
    let go := fun (i : Instr) (kind : Nat) => Runs i s → let u := s.ready i
      let e := (List.range 12).map fun k => u.operand (a.toNat + k) p u.ctl
      let qn := ef e 8 15 0
      (∀ c, u.queueOf qn = .error c → Delivers s → Traps i s c) ∧
      ∀ die q, u.queueOf qn = .ok (die, q) →
        let good := if kind = 4 then u.joinOk die q e else entryOk kind e && u.kindOk kind e
        let n := u.cqIssued die q + 1
        let full := e ++ [BitVec.ofNat 32 n, BitVec.ofNat 32 (n / 2 ^ 32), 0x0F000000, 0]
        (good = false → Delivers s → Traps i s tICONV) ∧
        ∀ ps, good = true → u.quiet = true → n - 1 - u.cqDone die q < 2 ^ u.cqLsz die q →
          u.coreFutures u.blk.core < 256 → n < 2 ^ 64 → q < 256 →
          u.check u.me u.blk.asid (u.ringSlot die q n) 64 .store u.inHandler = .mem ps → InHbm u ps →
          u.anyHeld ps = false → u.opens (ps.map (·.1)) → Unwatched u → (∀ f ∈ s.grp.futures, f.2 ≠ ⟨u.ctl, die, qn, n⟩) →
          ∃ t c, exec i s = .next t ∧ Onward s t ∧ KeptGroup u.grp t.grp ∧ KeptSplits u t ∧ KeptFlags u t ∧
            RegsBecome u t (inCtl u d (BitVec.ofNat 32 (qn * 65536 + n % 65536))) ∧
            t.grp.futureOf d.toNat = some ⟨u.ctl, die, qn, n⟩ ∧ t.cqIssued die q = n ∧ t.cqDone die q = u.cqDone die q ∧
            t.hub.commands = u.hub.commands ++ [c] ∧ c.kind = kind ∧ c.die = die ∧ c.qn = q ∧ c.seq = n ∧
            c.entry.take 12 = e ∧ c.core = u.blk.core ∧ c.asid = u.blk.asid ∧ c.cancelled = false ∧ c.run = none ∧
            (∀ j < 64, t.byteAt (ps.getD j (0, 0)) = (full.getD (j / 4) 0).extractLsb' (8 * (j % 4)) 8) ∧ OnlyAt u t ps
    go (.copy d a p l) 0 ∧ go (.copyx d a p l) 1 ∧ go (.gath d a p l) 2 ∧ go (.coll d a p l) 3 ∧ go (.qfence d a p l) 4

/-- R210, R213, R258, R259, R264, R265: the oldest command of a queue takes a step by the move of its kind. A cancelled
one completes. One under way performs the next word of its last unit, else makes its next unit, else completes, as it
does where a unit fails or the home of a word takes it no more; a link on the way that sleeps is woken first (R374). A
`qfence` completes once its join is satisfied. A collective begins with the result due to each rank once every rank has
arrived, and all of its members complete together where their sizes differ or a source cannot be read. Completing sets
DONE and takes the command off its queue, unless a line that the completion writes is held; a move for which there is
nothing to do changes nothing.
R261 to R264: a unit of a plain `copy` moves four bytes, a unit of a plain `copyx` a row by its strides, a unit of a
`gath` the element that its index names, zeros for the index of all ones, and a broadcast gives every rank the bytes of the
first, a gathering collective those of all in order. The model's own are: which word of IDX is the low one (log entry 82),
which sizes, types and rounding the ranks may have (84), and that every kind is performed on every queue (86). -/
def Obligations.EngineMoves : Prop := (
  ∀ (s : State) (die q : Nat),
    let key := fun (a b : Command) => a.die = b.die ∧ a.qn = b.qn ∧ a.seq = b.seq
    let idle := fun (i : Instr) => ∃ t, exec i s = .next t ∧ t.hub = s.hub ∧ KeptWork s t
    let ends := fun (i : Instr) (c : Command) => c.seq < 2 ^ 64 → ∃ t, exec i s = .next t ∧ t.cqDone die q = c.seq ∧
      ∀ d, d ∈ t.hub.commands ↔ d ∈ s.hub.commands ∧ ¬key d c
    let runs := fun (i : Instr) (c : Command) (r : Run) (P : State → Prop) => ∃ t, exec i s = .next t ∧ P t ∧
      t.hub.commands = s.hub.commands.map fun d => if key d c then { d with run := some r } else d
    let step := fun (i : Instr) (c : Command) (r : Run) (unit : Nat → Prog → Except Failed Prog) (total : Nat) =>
      (∀ ws rest, r.todo = ws :: rest → s.wayClear c (ws.map (·.1.1)) = false → idle i) ∧
      (∀ ws rest, r.todo = ws :: rest → s.wayClear c (ws.map (·.1.1)) = true →
        (∀ w ∈ ws, s.lineHeld none false (w.1.1 / 64) = false) → (∃ w ∈ ws, s.wordRefused c w.1 = true) →
        s.completionHeld c r.bads = false → ends i c) ∧
      (∀ ws rest, r.todo = ws :: rest → s.wayClear c (ws.map (·.1.1)) = true →
        (∀ w ∈ ws, s.lineHeld none false (w.1.1 / 64) = false ∧ s.wordRefused c w.1 = false) →
        runs i c { r with todo := rest } fun t => OnlyAt s t (ws.map (·.1)) ∧
          ((ws.map (·.1)).Nodup → (∀ v ∈ ws, ∀ w ∈ ws, v.1.2 = w.1.2) → InHbm s (ws.map (·.1)) →
            ∀ w ∈ ws, t.byteAt w.1 = w.2)) ∧
      (r.todo = [] → r.unit < total → ∀ p, unit r.unit ⟨r, s, []⟩ = .ok p → (s.wayClear c p.pas = false → idle i) ∧
        (s.wayClear c p.pas = true → p.st.hub = s.hub →
          runs i c { p.toRun with unit := r.unit + 1, was := r.xlen } fun t => KeptWork p.st t)) ∧
      (r.todo = [] → r.unit < total → ∀ code t, unit r.unit ⟨r, s, []⟩ = .error (code, t) → t.hub = s.hub →
        s.completionHeld c r.bads = false → ends i c) ∧
      (r.todo = [] → total ≤ r.unit → s.completionHeld c r.bads = false → ends i c)
    let io := fun (c : Command) => enginePort (s.engineOf die q) c.asid
    let go := fun (i : Instr) (kind : Nat) (P : Command → Prop) =>
      (s.headCommand die q = none → idle i) ∧
      ∀ c, s.headCommand die q = some c → (c.kind ≠ kind → idle i) ∧ (c.kind = kind →
        (c.cancelled = true → s.completionHeld c [] = false → ends i c) ∧ (c.cancelled = false → P c))
    go (.linearCopy die q) 0 (fun c =>
      let sized := copySized c.entry (ed c.entry 0) (ed c.entry 2) (ew c.entry 4)
      (sized = false → s.completionHeld c [] = false → ends (.linearCopy die q) c) ∧ (sized = true →
      step (.linearCopy die q) c c.progress (copyUnit (io c) c.entry) (copyUnits c.entry (ew c.entry 4)))) ∧
    go (.stridedCopy die q) 1 (fun c => (rowsSized c.entry = false → s.completionHeld c [] = false → ends (.stridedCopy die q) c) ∧
      (rowsSized c.entry = true →
      (eXf c.entry ≠ 7 → step (.stridedCopy die q) c c.progress (rowUnit (io c) c.entry) (ef c.entry 4 31 16)) ∧
      ∀ r, eXf c.entry = 7 → s.bankOf c = some r → s.bankHeld c r c.progress.unit = false →
        step (.stridedCopy die q) c { c.progress with geom := some (r.w0, r.w1) }
          (bankUnit (io c) c.entry c.core c.bslot r) (bankRows c.entry r))) ∧
    go (.indexedGather die q) 2 (fun c =>
      ew c.entry 0 % 4 = 0 → ew c.entry 2 % 4 = 0 → ew c.entry 5 % 4 = 0 →
      step (.indexedGather die q) c c.progress (gatherUnit (io c) c.entry) (ef c.entry 7 31 8)) ∧
    go (.joinOfQueues die q) 4 (fun c => (s.joined c = false → idle (.joinOfQueues die q)) ∧
      (s.joined c = true → s.completionHeld c [] = false → ends (.joinOfQueues die q) c)) ∧
    ∀ ident c, q < 256 →
      (s.hub.commands.find? fun e => e.die == die && e.qn == q && e.kind == 3 && cIdent e == ident) = some c →
      let i := Instr.collectiveInstance (256 * die + q) ident
      (c.cancelled = true → s.headCommand die q = some c → s.completionHeld c [] = false → ends i c) ∧
      (c.cancelled = false → (∀ r, c.run = some r → step i c r (collUnit (io c)) (r.data.length / 4)) ∧
        (c.run = none → (s.collMembers c = none → idle i) ∧
          ∀ ms, s.collMembers c = some ms → s.canBegin ms = true →
            (collSized ms = false → (∀ m ∈ ms, s.completionHeld m [] = false) → ∃ t, exec i s = .next t ∧
              ∀ m ∈ ms, ∀ d ∈ t.hub.commands, ¬key d m) ∧
            let open' := ∀ m ∈ collReaders ms,
              s.wayClear m (s.touch (s.engineOf m.die m.qn) m.asid (ed m.entry 0) (ew m.entry 4)).2 = true
            (collSized ms = true → open' → ∀ e, s.collSources ms = .error e → (∀ m ∈ ms, s.completionHeld m [] = false) →
              ∃ t, exec i s = .next t ∧ ∀ m ∈ ms, ∀ d ∈ t.hub.commands, ¬key d m) ∧
            (collSized ms = true → open' → ∀ srcs, s.collSources ms = .ok srcs → ∃ t, exec i s = .next t ∧ KeptWork s t ∧
              t.hub.commands.length = s.hub.commands.length ∧
              ∀ m ∈ ms, ∀ d ∈ t.hub.commands, key d m → ∃ r, d.run = some r ∧
                (r.data, r.flags) = collResult (ms.headD c) srcs)))) ∧ (
  ∀ (io : Port) (e : List Word) (i : Nat) (p : Prog) (bs : List Byte),
    let after := fun (t : State) (va n : Nat) => (t.touch io.unit io.asid va n).1
    let made := fun (t : State) (z : Except Failed Prog) (dst n x : Nat) => ∀ t' todo, io.write t dst bs = .ok (t', todo) →
      ∃ p', z = .ok p' ∧ p'.st = t' ∧ p'.todo = p.todo ++ todo ∧ p'.out = p.out ++ [(dst, bs)] ∧ p'.xlen = x ∧
        p'.flags = p.flags ∧ p'.bads = p.bads ∧ p'.got = p.got + n
    let wrap := fun (x : Int) => (x % (2 ^ 64 : Nat)).toNat
    (eXf e = 0 → io.read p.st (p.src + 4 * i) 4 = .ok bs →
      made (after p.st (p.src + 4 * i) 4) (copyUnit io e i p) (p.dst + 4 * i) 4 (4 * (i + 1))) ∧
    (eXf e = 0 → i < ew e 7 → io.read p.st (wrap (p.src + i * es e 5)) (ef e 4 15 0) = .ok bs →
      made (after p.st (wrap (p.src + i * es e 5)) (ef e 4 15 0)) (rowUnit io e i p) (wrap (p.dst + i * es e 6)) (ef e 4 15 0) (i + 1)) ∧
    (let n := 4 * ef e 7 7 0
     let t := after p.st (ed e 5 + 4 * i) 4
     ∀ ix, io.read p.st (ed e 5 + 4 * i) 4 = .ok ix → let from' := (p.src + natOfBytes ix * n) % 2 ^ 64
      (if natOfBytes ix = 0xFFFFFFFF then bs = List.replicate n 0 else io.read t from' n = .ok bs) →
      made (if natOfBytes ix = 0xFFFFFFFF then t else after t from' n) (gatherUnit io e i p) ((p.dst + i * n) % 2 ^ 64) n (n * (i + 1))) ∧
    ∀ (c : Command) (srcs : List (List Byte)),
      (cOp c = 0 → collResult c srcs = (srcs.headD [], 0)) ∧ (cOp c = 4 → collResult c srcs = (srcs.flatten, 0)))

/-- R258, R275 to R279: `cq.seq` reads DONE or ISSUED, `fut.mov` a handle, `fut.test` and `fut.wait` the status word of
a completed command (`fut.test` all ones of a pending one, for which `fut.wait` waits), and `fut.cncl` cancels a pending
command that has not begun and answers whether it is cancelled. When a command has begun is R259's (Performing commands)
as the model reads it (log entry 41): with its first step, a `qfence` at the head of its queue once its join is
satisfied. What a handle names for which no command of its queue fits is the model's choice (log entry 85). -/
def Obligations.Futures : Prop :=
  ∀ (s : State) (d a : Reg) (p : Perm) (l : BitVec 4) (x : BitVec 1) (die q : Nat),
    let named := fun (u : State) => u.queueOf (bits (u.operand a.toNat p u.ctl) 31 16) = .ok (die, q)
    let m := fun (u : State) => fullSeq (u.cqIssued die q) (bits (u.operand a.toNat p u.ctl) 15 0)
    (Runs (.cqSeq d a p l x) s → let u := s.ready (.cqSeq d a p l x)
      let w := u.operand a.toNat p u.ctl
      (bits w 31 16 = 0 → u.queueOf w.toNat = .ok (die, q) → Sets (.cqSeq d a p l x) s (inCtlPair u d
        (BitVec.ofNat 64 (if x = 0 then u.cqDone die q else u.cqIssued die q)))) ∧
      (bits w 31 16 ≠ 0 → Delivers s → Traps (.cqSeq d a p l x) s tICONV)) ∧
    (Runs (.futMov d a p l) s → let u := s.ready (.futMov d a p l)
      named u → Sets (.futMov d a p l) s (inCtl u d (u.operand a.toNat p u.ctl))) ∧
    (Runs (.futTest d a p l) s → let u := s.ready (.futTest d a p l)
      named u → Sets (.futTest d a p l) s (inCtl u d
        (if m u ≤ u.cqDone die q then u.statusWord die q (m u) else 0xFFFFFFFF))) ∧
    (Runs (.futWait d a p l) s → let u := s.ready (.futWait d a p l)
      named u → (u.cqDone die q < m u → exec (.futWait d a p l) s = .next (s.waitFor .future)) ∧
        (m u ≤ u.cqDone die q → u.grp.futureOf a.toNat = none →
          Sets (.futWait d a p l) s (inCtl u d (u.statusWord die q (m u)))) ∧
        ∀ f, m u ≤ u.cqDone die q → u.grp.futureOf a.toNat = some f → f.lane < 32 →
          f.die = die → f.qn % 256 = q → f.seq = m u →
          Sets (.futWait d a p l) s (fun r k => if r = d.toNat ∧ k = u.ctl ∨ r = a.toNat ∧ k = f.lane then
            some (u.statusWord die q (m u)) else none) ∧
          ∃ t, exec (.futWait d a p l) s = .next t ∧ t.grp.futureOf a.toNat = none) ∧
    (Runs (.futCncl d a p l) s → let u := s.ready (.futCncl d a p l)
      named u → (m u ≤ u.cqDone die q → Sets (.futCncl d a p l) s (inCtl u d 0)) ∧
        (u.cqDone die q < m u → let hit := fun (c : Command) => c.die = die ∧ c.qn = q ∧ c.seq = m u
          ∃ t, exec (.futCncl d a p l) s = .next t ∧ Onward s t ∧ KeptGroup u.grp t.grp ∧ KeptSplits u t ∧
            KeptMemory u t ∧ KeptFlags u t ∧
            RegsBecome u t (inCtl u d
              (if ∃ c ∈ u.hub.commands, hit c ∧ (c.cancelled = true ∨ u.begun c = false) then 1 else 0)) ∧
            t.hub.commands = u.hub.commands.map fun c =>
              if hit c then { c with cancelled := c.cancelled || !u.begun c } else c)) ∧
    ∀ c, s.begun c = true ↔ c.run.isSome = true ∨ c.kind = 4 ∧ s.joined c = true ∧
      ∃ h, s.headCommand c.die c.qn = some h ∧ h.seq = c.seq

/-- R183, R287, R295, R317: `task` reads a record at a multiple of 64 and puts it into the Tun, behind every task accepted
before it, with status 0, or answers why it is rejected (7 where the Tun is full); a misaligned record raises ALIGN, one in
the scratchpad alias PAGE. That a record of another type
answers TYPE and that the checks of the record come before 7 are the model's readings (log entry 25). -/
def Obligations.TaskSubmission : Prop :=
  ∀ (s : State) (d a : Reg) (p : Perm) (l : BitVec 4), Runs (.task d a p l) s → let u := s.ready (.task d a p l)
    let va := u.addr a p u.ctl
    (va % 64 ≠ 0 → Delivers s → Traps (.task d a p l) s tALIGN) ∧
    (va % 64 = 0 → aliasBase ≤ va → Delivers s → Traps (.task d a p l) s tPAGE) ∧
    ∀ bs sp ps, va % 64 = 0 → va + 256 ≤ aliasBase → u.readLane u.ctl va 256 .load true = .ok bs sp ps → u.quiet = true →
      u.mustWait true ps = false → u.opens (ps.map (·.1)) →
      let code := u.rejectCode (u.vfOf u.blk.asid) u.blk.asid (recordWords bs) true
      (code ≠ 0 → Sets (.task d a p l) s (inCtl u d (BitVec.ofNat 32 code))) ∧
      (code = 0 → 4096 ≤ u.tunCount → Sets (.task d a p l) s (inCtl u d 7)) ∧
      (code = 0 → u.tunCount < 4096 → Unwatched u → ∃ t k, exec (.task d a p l) s = .next t ∧ Onward s t ∧
        KeptGroup u.grp t.grp ∧ KeptSplits u t ∧ KeptFlags u t ∧
        RegsBecome u t (inCtl u d 0) ∧ t.hub.arriving = [] ∧ (∃ came, t.hub.tasks = u.hub.tasks ++ came ++ [k] ∧
          came.map (·.id) = u.hub.arriving.map (·.id)) ∧ k.id = u.hub.nextGrid ∧
        t.hub.nextGrid = u.hub.nextGrid + 1 ∧ k.asid = u.blk.asid ∧ k.record = recordWords bs ∧ k.dispatched = false ∧
        ∀ n ∈ k.deps, ∃ e ∈ u.hub.tasks ++ u.hub.arriving, e.id = n ∧ e.asid = u.blk.asid)

/-! ## Barriers and try regions (0xE5 to 0xF1) -/

/-- R314: an arrival counts the group in the phase and, where it is the last of the block (of the span), completes the
phase; `bar` and `spanbar` go on at once when they complete it and else wait at their address until it is complete;
`bar.wt` goes on unless the group waits in a phase. In a split group each raises ICONV. -/
def Obligations.Barriers : Prop :=
  ∀ (s : State) (b : BitVec 4),
    let last := fun (u : State) (k : Nat) => ∀ g ∈ u.blk.groups, g.ended = true ∨ sget 0 g.arrived k = u.blk.phase k + 1
    let come := fun (i : Instr) (k : Nat) (on : Bool) (all : State → Prop) => Runs i s → let u := s.ready i
      (s.grp.isSplit = true → Delivers s → Traps i s tICONV) ∧
      (s.grp.isSplit = false → u.quiet = true → u.arrivedNow k = false → u.atBarrier k = false →
        ∃ t, exec i s = .next t ∧ RegsBecome u t nowhere ∧ KeptGroup u.grp { t.grp with arrived := u.grp.arrived } ∧
          KeptSplits u t ∧ KeptDevice u t ∧ KeptFlags u t ∧ (∀ pa cp, t.byteAt (pa, cp) = u.byteAt (pa, cp)) ∧
          (∀ x, t.blk.byte x = u.blk.byte x) ∧
          (∀ j, sget 0 t.grp.arrived j = if j = k then u.blk.phase k + 1 else sget 0 u.grp.arrived j) ∧
          (∀ j, j ≠ k → t.blk.phase j = u.blk.phase j) ∧ (all u → t.blk.phase k = u.blk.phase k + 1 ∧ Onward s t) ∧
          (¬all u → t.blk.phase k = u.blk.phase k ∧
            (if on then Onward s t else t.spl.pc = s.spl.pc ∧ t.spl.wait.map (·.1) = some (.barrier k)))) ∧
      (on = false → s.grp.isSplit = false → u.atBarrier k = true → u.arrivedNow k = false → Sets i s nowhere)
    come (.barArr b) b.toNat true (fun u => last u b.toNat) ∧
    come (.bar b) b.toNat false (fun u => last u b.toNat) ∧
    come .spanbar 16 false (fun u => last u 16 ∧ ∀ c ∈ u.blocks, sameSpan u.blk c = true →
      ∀ g ∈ c.groups, g.ended = true ∨ sget 0 g.arrived 16 = u.blk.phase 16 + 1) ∧
    (Runs (.barWt b) s → let u := s.ready (.barWt b)
      (s.grp.isSplit = true → Delivers s → Traps (.barWt b) s tICONV) ∧
      (s.grp.isSplit = false → u.arrivedNow b.toNat = false → Sets (.barWt b) s nowhere) ∧
      (s.grp.isSplit = false → u.arrivedNow b.toNat = true →
        exec (.barWt b) s = .next (s.waitFor (.barrier b.toNat))))

/-- R235, R315, R316: `bo.init` sets the marks of an object without pending fills and gives the old ones, `bo.arr` adds
one and gives the new ones; a split that waits for marks which are now reached waits for the fills issued so far. `bo.wt`
gives the fills that have landed once the marks and then the fills issued so far are reached, and waits until then.
`ldsp` issues a fill of the object with the bytes that its lanes read, waits where the object
holds 65,535 fills, and does nothing where no lane is active (R228); a move lands the next word of a fill, and the last
word counts the fill in its object. -/
def Obligations.BarrierObjects : Prop :=
  ∀ (s : State) (d a : Reg) (p : Perm) (l o : BitVec 4) (w : BitVec 1),
    let marks := fun (i : Instr) (new : State → Nat) (v : State → Nat) => let u := s.ready i
      let obj := u.blk.object o.toNat
      ∃ t, exec i s = .next t ∧ Onward s t ∧ RegsBecome u t (inCtl u d (BitVec.ofNat 32 (v u))) ∧ KeptGroup u.grp t.grp ∧
        KeptFlags u t ∧ KeptDevice u t ∧ t.cur = u.cur ∧ t.spl.em = u.spl.em ∧ t.spl.gm = u.spl.gm ∧ t.spl.dm = u.spl.dm ∧
        (∀ k, k ≠ u.cur → t.grp.splitAt k = (u.grp.splitAt k).sample t.blk o.toNat) ∧
        (∀ pa cp, t.byteAt (pa, cp) = u.byteAt (pa, cp)) ∧ (∀ x, t.blk.byte x = u.blk.byte x) ∧
        objMK (t.blk.object o.toNat) = new u ∧ objFI (t.blk.object o.toNat) = objFI obj ∧
        objFL (t.blk.object o.toNat) = objFL obj ∧ ∀ j, j ≠ o.toNat → t.blk.object j = u.blk.object j
    let mk := fun (u : State) => objMK (u.blk.object o.toNat)
    (Runs (.boInit d a p l o) s → let u := s.ready (.boInit d a p l o)
      let e := u.operand a.toNat p u.ctl
      (bits e 31 16 ≠ 0 → Delivers s → Traps (.boInit d a p l o) s tICONV) ∧
      (bits e 31 16 = 0 → objFL (u.blk.object o.toNat) = objFI (u.blk.object o.toNat) →
        marks (.boInit d a p l o) (fun _ => e.toNat) mk)) ∧
    (Runs (.boArr d l o) s → marks (.boArr d l o) (fun u => (mk u + 1) % 65536) (fun u => (mk u + 1) % 65536)) ∧
    (Runs (.boWt d a p l o) s → let u := s.ready (.boWt d a p l o)
      let e := u.operand a.toNat p u.ctl
      let obj := u.blk.object o.toNat
      let gives := Sets (.boWt d a p l o) s (inCtl u d (BitVec.ofNat 32 (objFL obj)))
      (∀ n, u.sampled o.toNat = some n → (reached24 (objFL obj) n = true → gives) ∧
        (reached24 (objFL obj) n = false → exec (.boWt d a p l o) s = .next (s.waitFor (.fills o.toNat n)))) ∧
      (u.sampled o.toNat = none → bits e 31 16 = 0 → reached16 (objMK obj) (bits e 15 0) = false →
        exec (.boWt d a p l o) s = .next (s.waitFor (.marks o.toNat (bits e 15 0)))) ∧
      (u.sampled o.toNat = none → bits e 31 16 = 0 → reached16 (objMK obj) (bits e 15 0) = true →
        (reached24 (objFL obj) (objFI obj) = true → gives) ∧
        (reached24 (objFL obj) (objFI obj) = false → ∃ t, exec (.boWt d a p l o) s = .next t ∧ t.spl.pc = s.spl.pc ∧
          t.spl.wait.map (·.1) = some (.fills o.toNat (objFI obj)) ∧ SameData u t)) ∧
      (u.sampled o.toNat = none → bits e 31 16 ≠ 0 → Delivers s → Traps (.boWt d a p l o) s tICONV)) ∧
    (Runs (.ldsp d a p l o w) s → let u := s.ready (.ldsp d a p l o w)
      let n := if w = 0 then 4 else 16
      let obj := u.blk.object o.toNat
      let read := fun (k : Nat) => u.readLane k (u.addr a p k) n .load false
      let oks := (splitReads (u.active.map fun k => (k, read k))).1
      (u.active = [] → Sets (.ldsp d a p l o w) s nowhere) ∧
      (u.active ≠ [] → (objFI obj + 1 + 2 ^ 24 - objFL obj) % 2 ^ 24 > 65535 →
        exec (.ldsp d a p l o w) s = .next (s.waitFor .object)) ∧
      ((objFI obj + 1 + 2 ^ 24 - objFL obj) % 2 ^ 24 ≤ 65535 → u.active ≠ [] →
      ∀ bs : Nat → List Byte, (∀ k ∈ u.active, (∃ sp ps, read k = .ok (bs k) sp ps) ∧
        ∃ hs, u.writeSpad k 0 [] (u.source d.toNat k).toNat n = .ok hs) →
      u.readsWait false oks = false → u.opens (u.readsMiss (u.atHome false) oks) →
      ∃ t f, exec (.ldsp d a p l o w) s = .next t ∧ Onward s t ∧ KeptData u t ∧ t.grp.fl = u.landed ∧ RegsBecome u t nowhere ∧
        objFI (t.blk.object o.toNat) = (objFI obj + 1) % 2 ^ 24 ∧ objFL (t.blk.object o.toNat) = objFL obj ∧
        objMK (t.blk.object o.toNat) = objMK obj ∧ (∀ j, j ≠ o.toNat → t.blk.object j = u.blk.object j) ∧
        t.blk.fills = u.blk.fills ++ [f] ∧ f.obj = o.toNat ∧
        (∀ k ∈ u.active, ∀ j < (bs k).length, ∃ ws ∈ f.left, ((u.source d.toNat k).toNat + j, (bs k).getD j 0) ∈ ws) ∧
        ∀ ws ∈ f.left, ∀ b ∈ ws, ∃ k ∈ u.active, ∃ j < (bs k).length, b = ((u.source d.toNat k).toNat + j, (bs k).getD j 0))) ∧
    ∀ (k : Nat) (f : Fill) (ws : List (Nat × Byte)) (rest : List (List (Nat × Byte))), Settled s → s.blk.fills[k]? = some f →
      f.left = ws :: rest → (∀ b ∈ ws, s.lineHeld none true (b.1 / 64) = false) →
      ∃ t, exec (.ldspFillLanding s.blk.core s.blk.bslot k) s = .next t ∧
        (∀ x, t.blk.byte x = ((ws.reverse.find? fun b => b.1 == x).map (·.2)).getD (s.blk.byte x)) ∧
        (∀ pa cp, t.byteAt (pa, cp) = s.byteAt (pa, cp)) ∧
        (s.blk.fills = [f] → rest ≠ [] → t.blk.fills = [{ f with left := rest }] ∧ t.blk.objects = s.blk.objects) ∧
        (s.blk.fills = [f] → rest = [] → t.blk.fills = [] ∧
          objFL (t.blk.object f.obj) = (objFL (s.blk.object f.obj) + 1) % 2 ^ 24 ∧
          objFI (t.blk.object f.obj) = objFI (s.blk.object f.obj) ∧ objMK (t.blk.object f.obj) = objMK (s.blk.object f.obj))

/-- R36, R318 to R321, R324: `try` and `tryl` open a region in a free slot with the state before it as the checkpoint;
without a slot, or in a split group, they branch with a code, and inside an open region they abort it with NEST; `abort`
rolls everything back to the checkpoint with its code and goes to the handler; `tstat` gives ts; outside a region
`abort` raises ICONV. In ts an opened region takes PRI where CC is 8 and no other region of the K-die has it; its abort
clears ACT and PRI and adds one to CC, at most 8, for CONFLICT alone; a `try` that opens none leaves all but CODE. -/
def Obligations.TryRegions : Prop :=
  ∀ (s : State) (c : Reg) (o : BitVec 18) (e : BitVec 8),
    let h : Int := s.spl.pc.toNat + 4 * o.toInt
    let closed := fun (t : State) (code imm : Nat) => bits t.grp.ts 3 0 = code ∧ t.grp.ts.getLsbD 12 = false ∧
      t.grp.ts.getLsbD 13 = false ∧ bits t.grp.ts 19 18 = bits s.grp.ts 19 18 ∧
      bits t.grp.ts 11 4 = (if code = 1 then imm else bits s.grp.ts 11 4) ∧
      bits t.grp.ts 17 14 = if code = 2 then min (bits s.grp.ts 17 14 + 1) 8 else bits s.grp.ts 17 14
    let opens := fun (i : Instr) (lanes' : Bool) => Runs i s → s.grp.region = none → 0 ≤ h ∧ h < 2 ^ 57 → let u := s.ready i
      let free := (List.range 4).find? fun k => !(u.slotsUsed u.blk.core).contains k
      (∀ k, s.grp.isSplit = false → free = some k → ∃ t r, exec i s = .next t ∧ Onward s t ∧ RegsBecome u t nowhere ∧
        KeptMemory u t ∧ t.grp.region = some r ∧ r.slot = k ∧ r.perLane = lanes' ∧ r.handler = BitVec.ofInt 57 h ∧
        r.regs = u.grp.regs ∧ r.em = s.spl.em ∧ r.gm = s.spl.gm ∧ r.sp = s.grp.sp ∧ r.gs = s.grp.gs ∧ r.lane = u.ctl ∧
        r.reg = c ∧ r.buffer = [] ∧ r.reads = [] ∧ r.failed = 0 ∧ t.grp.ts.getLsbD 12 = true ∧ bits t.grp.ts 19 18 = k ∧
        bits t.grp.ts 11 0 = bits s.grp.ts 11 0 ∧ bits t.grp.ts 17 14 = bits s.grp.ts 17 14 ∧
        (t.grp.ts.getLsbD 13 = true ↔ bits s.grp.ts 17 14 = 8 ∧ ∀ bg ∈ s.allGroups,
          dieOf bg.1.core = dieOf s.blk.core → bg.2.region ≠ none → bg.2.ts.getLsbD 13 = false) ∧
        r.holding = t.grp.ts.getLsbD 13) ∧
      (s.grp.isSplit = true ∨ free = none → ∃ t, exec i s = .next t ∧ t.spl.pc = BitVec.ofInt 57 h ∧ t.grp.region = none ∧
        KeptMemory u t ∧ RegsBecome u t (inCtl u c (if s.grp.isSplit then 7 else 6)) ∧
        bits t.grp.ts 3 0 = (if s.grp.isSplit then 7 else 6) ∧ bits t.grp.ts 31 4 = bits s.grp.ts 31 4)
    let nested := fun (i : Instr) => Runs i s → s.cur = 0 → ∀ r, s.grp.region = some r → r.lane < 32 → ∃ t, exec i s = .next t ∧
      t.grp.region = none ∧ t.spl.pc = r.handler ∧ t.spl.em = r.em ∧ t.spl.gm = r.gm ∧ t.grp.sp = r.sp ∧ t.grp.gs = r.gs ∧
      closed t 7 0 ∧ KeptMemory (s.ready i) t ∧ ∀ n < 64, ∀ k < 32, t.reg n k =
        if n = r.reg.toNat ∧ k = r.lane then BitVec.ofNat 32 7 else sget 0 r.regs (32 * n + k)
    opens (.tryOpen c o) false ∧ opens (.trylOpen c o) true ∧ nested (.tryOpen c o) ∧ nested (.trylOpen c o) ∧
    (Runs (.tstat c) s → Sets (.tstat c) s (inCtl (s.ready (.tstat c)) c s.grp.ts)) ∧
    (Runs (.abort e) s → s.grp.region = none → Delivers s → Traps (.abort e) s tICONV) ∧
    (Runs (.abort e) s → s.cur = 0 → ∀ r, s.grp.region = some r → r.lane < 32 → ∃ t, exec (.abort e) s = .next t ∧
      t.grp.region = none ∧ t.spl.pc = r.handler ∧ t.spl.em = r.em ∧ t.spl.gm = r.gm ∧ t.grp.sp = r.sp ∧ t.grp.gs = r.gs ∧
      closed t 1 e.toNat ∧
      KeptMemory (s.ready (.abort e)) t ∧ ∀ n < 64, ∀ k < 32, t.reg n k =
        if n = r.reg.toNat ∧ k = r.lane then BitVec.ofNat 32 (1 + e.toNat * 16) else sget 0 r.regs (32 * n + k)) ∧
    (∀ r code, s.blk.record ≠ [] → s.grp.region = some r → r.doomed = some code → s.cur = 0 → code < 16 →
      ∃ t, exec (.tryAbort s.blk.core s.grp.slot) s = .next t ∧ t.grp.region = none ∧ t.spl.pc = r.handler ∧
        closed t code 0 ∧ ∀ pa cp, t.byteAt (pa, cp) = s.byteAt (pa, cp)) ∧
    ∀ r, s.blk.record ≠ [] → s.grp.region = some r → ∃ t, exec (.priorityHoldExpiry s.blk.core s.grp.slot) s = .next t ∧
      t.grp.region = some { r with holding := false }

/-- R97, R217, R219, R322, R323: `commit` performs every store of the lanes that have not failed, gives the failed lanes
their checkpointed registers and takes them off em, adds the flags of the others to fl, clears ACT, PRI and CC of ts and
answers the failed lanes; `tabl` fails lanes of a `tryl` region, or aborts the region with code 9; outside a region both
raise ICONV. -/
def Obligations.Committing : Prop :=
  ∀ (s : State) (d a : Reg) (p : Perm),
    (Runs (.commit d) s → let u := s.ready (.commit d)
      (s.grp.region = none → Delivers s → Traps (.commit d) s tICONV) ∧
      ∀ r, u.grp.region = some r → let hs := r.buffer.filter fun h => !r.failed.getLsbD h.lane
        (∀ h ∈ r.buffer, h.spad = false → u.fresh u.blk.asid h.gen h.cp = true) → u.quiet = true → OnePolicy hs →
        (∀ h ∈ hs, u.lineHeld u.who h.spad (h.addr / 64) = false) →
        (∀ h ∈ hs, h.spad = true → u.blk.computing h.addr 1 = false) → u.grp.lr = [] →
        let pas := (hs.filter fun h => !h.spad).map (·.addr)
        (∀ k, (u.grp.splitAt k).spec = none) → NoCopies u → u.opens pas →
        ∃ t, exec (.commit d) s = .next t ∧ Onward s t ∧ t.grp.region = none ∧ Stored u t hs ∧ KeptTable u t ∧ KeptDevice (u.crossed pas) t ∧
          t.spl.gm = u.spl.gm ∧ (∀ k < 32, t.spl.em.getLsbD k = true ↔ u.spl.em.getLsbD k = true ∧ r.failed.getLsbD k = false) ∧
          (∀ k < 32, sget 0 t.grp.gs k = if r.failed.getLsbD k then sget 0 r.gs k else sget 0 u.grp.gs k) ∧
          t.grp.ts.getLsbD 12 = false ∧ t.grp.ts.getLsbD 13 = false ∧ bits t.grp.ts 17 14 = 0 ∧
          bits t.grp.ts 11 0 = bits u.grp.ts 11 0 ∧ bits t.grp.ts 19 18 = bits u.grp.ts 19 18 ∧
          (∀ j < 6, t.grp.fl.getLsbD j = true ↔ u.grp.fl.getLsbD j = true ∨
            ∃ k < 32, r.failed.getLsbD k = false ∧ (sget 0 r.flags k).getLsbD j = true) ∧
          ∀ n < 64, ∀ k < 32, t.reg n k = if n = d.toNat ∧ k = u.ctl then r.failed
            else if r.failed.getLsbD k then sget 0 r.regs (32 * n + k) else u.reg n k) ∧
    (Runs (.tabl a p) s → let u := s.ready (.tabl a p)
      let hit := u.active.filter fun k => u.operand a.toNat p k ≠ 0
      (s.grp.region = none → Delivers s → Traps (.tabl a p) s tICONV) ∧
      ∀ r, u.grp.region = some r →
        (hit = [] → Sets (.tabl a p) s nowhere) ∧
        (hit ≠ [] → r.perLane = true → u.ctl ∉ hit → ∃ t r', exec (.tabl a p) s = .next t ∧ Onward s t ∧
          RegsBecome u t nowhere ∧ KeptMemory u t ∧ t.grp.region = some r' ∧
          (∀ k < 32, r'.failed.getLsbD k = true ↔ r.failed.getLsbD k = true ∨ k ∈ hit) ∧
          ∀ k < 32, t.spl.em.getLsbD k = true ↔ s.spl.em.getLsbD k = true ∧ k ∉ hit) ∧
        (hit ≠ [] → (r.perLane = false ∨ u.ctl ∈ hit) → s.cur = 0 → ∃ t, exec (.tabl a p) s = .next t ∧
          t.grp.region = none ∧ t.spl.pc = r.handler ∧ bits t.grp.ts 3 0 = 9 ∧ KeptMemory u t))

/-! ## Moves of the device's own agents, commands, host and links -/

/-- R72, R96, R97, R192, R199, R220, R312, R326, R373, R374, R377, R378, R383, R384: what moves groups and their
requests. A `phint` with a sound record does nothing where no pre-emption is asked for; a `yield` ends with its split
ready; a request is performed at its home under a current generation, or accepted there where it is a reduction (its
flags join fl with the last request of its instruction), and rejected under an old one, where no port carries it or
where its home takes it no more; over a sleeping link it wakes the link first; a rejected one is translated again, is
dropped once a removal has come to the load-store units or, where it is the last of its instruction, leaves that
instruction's fault pending with its draws undone (a handler's removes the context); the next pending trap of a group is
delivered; at the deadline the context is saved; the split that has waited longest counts as 128. -/
def Obligations.GroupMoves : Prop :=
  ∀ (s : State),
    (∀ o, Runs (.phint o) s → let u := s.ready (.phint o)
      let h : Int := s.spl.pc.toNat + 4 * o.toInt
      0 ≤ h ∧ h < 2 ^ 57 → (∀ x ∈ s.mgmt.preempt, x.1 ≠ s.blk.asid) → ∀ bs sp ps mark,
        u.readLane u.ctl h.toNat 48 .load false = .ok bs sp ps → livenessRecord u.blk.spadSize bs = some mark →
        u.readsWait false [(u.ctl, bs, sp, ps)] = false →
        let pas := u.readsMiss (u.atHome false) [(u.ctl, bs, sp, ps)]
        (¬u.opens pas → AwaitsLinks (.phint o) s u pas) ∧
        (u.opens pas → ∃ t, exec (.phint o) s = .next t ∧ RegsBecome u t nowhere ∧ Kept (u.crossed pas) t ∧ t.grp.fl = u.landed ∧ t.grp.gs = u.grp.gs ∧
          (u.grp.region = none → t.grp.region = none) ∧ Onward s t)) ∧
    (∀ n, s.blk.record ≠ [] → s.spl.wait = some (.clk, n) → Leads (.yieldExpiry s.blk.core s.grp.slot s.cur) s fun t =>
      t.spl.wait = none ∧ t.spl.pc = s.spl.pc ∧ s.spl.yieldUntil ≤ t.clkOf (dieOf s.blk.core) ∧ RegsBecome s t nowhere ∧
      KeptMemory s t) ∧
    (∀ k r, s.mem.requests[k]? = some r → r.rejected = false →
      let mine := fun (q : Request) => q.sameSplit r = true ∧ ∃ l ∈ r.lines, q.meetsLine r.spad l = true
      let goes := s.fresh r.asid r.gen r.cp = true ∧ s.carried r.asid r.pa = true ∧ r.port = none ∧ s.refusedAtHome r = false
      let rest := s.mem.requests.eraseIdx k
      r.spad = false → (∀ q ∈ s.mem.requests.take k, ¬mine q) → (r.red = none → ∀ q ∈ s.mem.reductions, ¬mine q) →
      (¬goes → Leads (.homeAccess k) s fun t => KeptWork s t ∧
        t.mem.requests = s.mem.requests.set k { r with rejected := true }) ∧
      (∀ l, goes → s.asleep r.asid r.core r.pa = some l → l < 60 → Leads (.homeAccess k) s fun t => KeptWork s t ∧
        t.mem.requests = s.mem.requests ∧ t.linkST l = 4) ∧
      let here := goes ∧ s.asleep r.asid r.core r.pa = none ∧ s.portWaits r.asid r.pa = false
      (goes → s.asleep r.asid r.core r.pa = none → s.portWaits r.asid r.pa = true → Leads (.homeAccess k) s fun t =>
        KeptWork s t ∧ t.mem = s.mem) ∧
      (∀ d, here → r.red = some d → Leads (.homeAccess k) s fun t => t.mem.reductions = s.mem.reductions ++ [r] ∧
        (∀ pa cp, t.byteAt (pa, cp) = s.byteAt (pa, cp)) ∧ RegsBecome s t nowhere ∧
        ((∃ q ∈ rest, q.sameInstr r = true) → (∀ q ∈ rest, q.sameInstr r = true → q.red.isSome = true) → KeptWork s t ∧
          ∃ q ∈ t.mem.requests, q.sameInstr r = true ∧ q.earned ||| (d.flags ||| d.earned) = q.earned) ∧
        ((∀ q ∈ rest, q.sameInstr r = false) → t.mem.requests = rest ∧
          (s.blk.record ≠ [] → r.core = s.blk.core → r.slot = s.grp.slot →
            t.grp.fl = s.grp.fl ||| (d.flags ||| d.earned)))) ∧
      (here → r.red = none → s.lineHeld (some (r.core, r.slot, r.spl)) false (r.pa / 64) = false →
        let places := r.data.map fun x => (r.pa + x.1, r.cp)
        InHbm s places → (r.data.map (·.1)).Nodup → Leads (.homeAccess k) s fun t =>
          t.mem.requests = rest ∧ OnlyAt s t places ∧
          (∀ x ∈ r.data, t.byteAt (r.pa + x.1, r.cp) = x.2) ∧ (Unwatched s → t.grp = s.grp))) ∧
    (∀ k r, s.mem.requests[k]? = some r → r.rejected = true → let rest := s.mem.requests.eraseIdx k
      (r.core ≠ 9999 → s.removalAt r.asid 5 = true → Leads (.requestReplay k) s fun t => KeptWork s t ∧ t.mem.requests = rest) ∧
      (r.core = 9999 ∨ s.removalAt r.asid 5 = false → (∀ ps, s.recheck r = .mem ps → Leads (.requestReplay k) s fun t => KeptWork s t ∧
        t.mem.requests = s.mem.requests.set k
          { r with pa := (ps.headD (0, 0)).1, gen := s.gen r.asid, cp := (ps.headD (0, 0)).2, rejected := false, port := none }) ∧
       ∀ c va q dn po, s.recheck r = .fault c va q dn po →
        (r.core = 9999 → Leads (.requestReplay k) s fun t => KeptWork s t ∧ t.mem.requests = rest) ∧ (r.core ≠ 9999 →
        (∀ j x, s.mem.requests[j]? = some x → j ≠ k →
          ¬(x.core = r.core ∧ x.slot = r.slot ∧ x.spl = r.spl ∧ x.origin.stamp = r.origin.stamp)) →
        (r.origin.handler = true → Leads (.requestReplay k) s fun t => KeptWork s t ∧
          t.mem.requests = rest ∧ ∃ x ∈ t.mgmt.removing, x.1 = r.asid) ∧
        (r.origin.handler = false → s.blk.record ≠ [] → r.core = s.blk.core → r.slot = s.grp.slot →
          (∀ f ∈ (s.grp.splitAt r.spl).pending, f.stamp ≠ r.origin.stamp) →
          Leads (.requestReplay k) s fun t => t.mem.requests = rest ∧ RegsBecome s t nowhere ∧ t.grp.fl = s.grp.fl ||| r.earned ∧
            (∀ d i x, r.red = some d → d.seeds = [(i, x)] → sget 0 t.grp.gs i = x) ∧ (r.red = none → t.grp.gs = s.grp.gs) ∧
            KeptMemory s t ∧ ∃ f ∈ (t.grp.splitAt r.spl).pending, f.pc = r.pc ∧ f.info.code = c ∧ f.info.lane = r.lane ∧
              f.info.done = r.origin.mask &&& ~~~r.lanes)))) ∧
    (∀ f rest, Settled s → s.cur < 4 → (∀ k < 4, s.splitBusy k = false) → s.spl.pending = f :: rest →
      (∀ k < s.cur, (s.grp.splitAt k).pending = []) → s.grp.handler = none → s.grp.trapping = none →
      s.grp.region = none → s.tvec s.blk.asid ≠ 0 → f.info.code < 256 →
      Leads (.trapDelivery s.blk.core s.grp.slot) s fun t => Entered s t f.info.code ∧ t.grp.fl = s.grp.fl ∧
        (∀ r k, t.reg r k = s.reg r k) ∧ (∀ pa cp, t.byteAt (pa, cp) = s.byteAt (pa, cp)) ∧
        (∀ o, t.blk.byte o = s.blk.byte o) ∧ t.blocks = s.blocks ∧ KeptDevice s t) ∧
    (∀ a cause, s.mgmt.preempt.find? (·.1 == a) = some (a, cause) → s.drained a = true → s.bankCopies a = false →
      (∀ x ∈ s.mgmt.removing, x.1 ≠ a) → (∀ bg ∈ s.allGroups, bg.2.lr = [] ∧ bg.2.region = none) →
      (s.unsaved a = [] ∨ (Settled s ∧ s.unsaved a = [(s.blk.core, s.grp.slot)])) → Leads (.preemptDeadline a) s fun t =>
        (a, 0x14, 0) ∈ t.mgmt.removing ∨
        ((∀ b ∈ t.allBlocks, b.asid ≠ a) ∧ ∃ v ∈ t.mgmt.saved, v.asid = a ∧ v.cause = cause)) ∧
    (s.blk.record ≠ [] → Leads (.groupWaitLimit s.blk.core s.grp.slot) s fun t =>
      KeptMemory s t ∧ RegsBecome s t nowhere ∧ t.grp.fl = s.grp.fl ∧
      (s.grp.waitCount < 1024 → t.grp = s.grp) ∧
      (1024 ≤ s.grp.waitCount → (∀ k < 4, (s.grp.splitAt k).urged = false) →
        (∃ k < 4, (s.grp.splitAt k).st = .live ∧ (s.grp.splitAt k).waitCount ≠ 0) → ∃ k < 4, (s.grp.splitAt k).st = .live ∧
        (∀ j < 4, (s.grp.splitAt j).st = .live → (s.grp.splitAt j).waitCount ≤ (s.grp.splitAt k).waitCount) ∧
        t.grp.splitAt k = { s.grp.splitAt k with urged := true } ∧
        (t.grp.splitAt k).waited = max 128 (s.grp.splitAt k).waitCount ∧
        ∀ j, j ≠ k → t.grp.splitAt j = s.grp.splitAt j))

/-- R38, R40, R41, R281, R283, R284, R287 to R298, R332: from a record to running groups and back. A queue takes its next
record: a count above the ring's size or an unreadable record clears EN, a rejected record is passed over, and an accepted
grid or task enters with its number. A grid that does not steal claims its next block while tickets and the window of 256
reports last; one that steals takes an index of the die's own range, and a steal takes the upper half of the victim's. A
block's fill starts each group with the values of R38, R40 and R41; the end of a block frees its slot, advances the report
and ends the grid after its last block. A task enters the Tun with its dependences on overlapping ranges, a ready task of
the highest priority is dispatched as a grid, and a watchdog asks for the removal of its context with cause 0x10. The model's
readings: slots of ended groups (log entry 33), the window of a stealing grid (24), the dies of a task (68), when a watchdog
ends (53). -/
def Obligations.Launching : Prop :=
  ∀ (s : State),
    (s.nextQueue = none → Leads .launchRecordTake s fun t => KeptWork s t ∧ t.hub = s.hub) ∧
    (∀ q, s.nextQueue = some q → let asid := s.wqAsid q
      let lsz := bits (s.wqWord q 0) 3 0
      let addr := bits (s.wqWord q 0) 56 8 * 256 + 256 * (s.wqHead q % 2 ^ lsz)
      let stops := Leads .launchRecordTake s fun t => (t.wqWord q 1).getLsbD 0 = false ∧ t.wqHead q = s.wqHead q ∧
        t.hub.grids = s.hub.grids ∧ KeptWork s t
      (2 ^ lsz < s.wqWaiting q → stops) ∧
      (s.wqWaiting q ≤ 2 ^ lsz → s.hubRead asid addr 256 = none → stops) ∧
      ∀ bs, s.wqWaiting q ≤ 2 ^ lsz → s.hubRead asid addr 256 = some bs →
        let r := recordWords bs
        let code := s.rejectCode ((s.queueVf q).getD 0) asid r false
        let takes := fun (P : State → Prop) => Leads .launchRecordTake s fun t => t.wqHead q = (s.wqHead q + 1) % 2 ^ 32 ∧
          (Unwatched s → t.grp = s.grp) ∧ P t
        (code ≠ 0 → takes fun t => t.hub.grids = s.hub.grids ∧ t.hub.arriving = s.hub.arriving) ∧
        (code = 0 → lRT r = 1 → (lSTEAL r = true ∨ s.tickets < 4096) → takes fun t => ∃ g, t.hub.grids = s.hub.grids ++ [g] ∧
          g.id = s.hub.nextGrid ∧ g.queue = q ∧ g.asid = asid ∧ g.record = r ∧ g.ticket = 0 ∧ g.reported = 0 ∧
          g.after = s.previousRecord q r ∧ sget 0 t.hub.lastRecord q = s.hub.nextGrid + 1 ∧
          t.hub.nextGrid = s.hub.nextGrid + 1 ∧ t.hub.arriving = s.hub.arriving) ∧
        (code = 0 → lRT r ≠ 1 → s.tunCount < 4096 → takes fun t => ∃ k, t.hub.arriving = s.hub.arriving ++ [k] ∧
          k.id = s.hub.nextGrid ∧ k.queue = q ∧ k.asid = asid ∧ k.record = r ∧ k.after = s.previousRecord q r ∧
          t.hub.nextGrid = s.hub.nextGrid + 1 ∧ sget 0 t.hub.lastRecord q = s.hub.nextGrid + 1 ∧
          t.hub.grids = s.hub.grids)) ∧
    (∀ ck die grid g cores, s.hub.grids.find? (·.id == grid) = some g → lCK g.record = ck →
      (if ck then 32 + die else die) ∈ lDies g.record → s.claimable g = true →
      s.offered g (if ck then 32 + die else die) = true →
      s.chooseCores g.record (if ck then 32 + die else die) = some cores →
      let placed := fun (t : State) (first : Nat) => (∀ pa cp, t.byteAt (pa, cp) = s.byteAt (pa, cp)) ∧ RegsBecome s t nowhere ∧
        (∀ c ∈ t.mem.l1, c.core ∉ cores) ∧ ∀ k < cores.length, ∃ b ∈ t.blocks, b.core = cores.getD k 0 ∧ b.idx = first + k ∧ b.grid = grid ∧ b.started = false ∧
          b.groups.length = lGPB g.record + 1
      (lSTEAL g.record = false → g.ticket < lNB g.record → g.ticket + lSPB g.record < g.reported + 256 →
        Leads (.blockClaim ck die grid) s fun t => placed t g.ticket ∧
          t.hub.grids.find? (·.id == grid) = some { g with ticket := g.ticket + lSPB g.record + 1 }) ∧
      (lSTEAL g.record = false → (lNB g.record ≤ g.ticket ∨ g.reported + 256 ≤ g.ticket + lSPB g.record) →
        Leads (.blockClaim ck die grid) s fun t => KeptWork s t ∧ t.hub = s.hub) ∧
      ∀ d n e, lSTEAL g.record = true →
        g.ranges.find? (fun x => x.1 == (if ck then 32 + die else die) && x.2.1 < x.2.2) = some (d, n, e) →
        Leads (.blockClaim ck die grid) s fun t => placed t n) ∧
    (∀ die grid g v lo hi d n e, s.hub.grids.find? (·.id == grid) = some g → victimOf g.ranges = some (v, lo, hi) →
      g.ranges.find? (·.1 == die) = some (d, n, e) → e ≤ n → v ≠ die → Leads (.stealRequest die grid) s fun t =>
        KeptWork s t ∧ (hi - lo ≤ 1 → t.hub = s.hub) ∧
        (1 < hi - lo → ∃ g', t.hub.grids.find? (·.id == grid) = some g' ∧ g'.ticket = g.ticket ∧
          (v, lo, lo + (hi - lo + 1) / 2) ∈ g'.ranges ∧ (die, lo + (hi - lo + 1) / 2, hi) ∈ g'.ranges)) ∧
    (Settled s → s.blk.started = false → s.stoppedContext s.blk.asid = false → (∀ k < 8, bindV s.blk.record k = false) →
      Leads (.firkinFill s.blk.core s.blk.bslot) s fun t => t.blk.started = true ∧ (∀ pa cp, t.byteAt (pa, cp) = s.byteAt (pa, cp)) ∧
        (∀ o, t.blk.byte o = s.blk.byte o) ∧ t.blocks = s.blocks ∧
        (t.grp.splitAt 0).st = .live ∧ (t.grp.splitAt 0).pc = (lw s.blk.record 1).setWidth 57 ∧
        (t.grp.splitAt 0).em = 0xFFFFFFFF ∧ (t.grp.splitAt 0).dm = 0xFFFFFFFF ∧ (t.grp.splitAt 0).gm = 0 ∧
        t.grp.sp = BitVec.ofNat 21 (64 * lSPAD s.blk.record - 128 * lSPILL s.blk.record * s.grp.idx) ∧
        (∀ k < 32, sget 0 t.grp.gs k = gsValue (lw s.blk.record 4 ^^^ BitVec.ofNat 64 (s.blk.idx * 2 ^ 32) ^^^
          BitVec.ofNat 64 (s.grp.idx * 32) ^^^ BitVec.ofNat 64 k)) ∧
        ∀ n < 64, ∀ k < 32, t.reg n k =
          if n = 0 then low32 (lw s.blk.record 2) else if n = 1 then high32 (lw s.blk.record 2) else 0) ∧
    (Settled s → s.blockDone s.wholeBlk = true → (∀ x ∈ s.mgmt.removing, x.1 ≠ s.blk.asid) → ∀ g,
      s.hub.grids.find? (·.id == s.blk.grid) = some g → g.ended = [] → Leads (.blockEnd s.blk.core s.blk.bslot) s fun t =>
        (∀ b ∈ t.allBlocks, ¬(b.core = s.blk.core ∧ b.bslot = s.blk.bslot)) ∧
        (g.reported ≠ s.blk.idx → t.hub.grids.find? (·.id == s.blk.grid) = some { g with ended := [s.blk.idx] }) ∧
        (g.reported = s.blk.idx → s.blk.idx + 1 < lNB g.record →
          t.hub.grids.find? (·.id == s.blk.grid) = some { g with reported := s.blk.idx + 1 }) ∧
        (g.reported = s.blk.idx → lNB g.record ≤ s.blk.idx + 1 →
          (∀ h ∈ t.hub.grids, h.id ≠ s.blk.grid) ∧ ∀ k ∈ t.hub.tasks, k.id ≠ s.blk.grid)) ∧
    (∀ k rest, s.hub.arriving = k :: rest → Leads .tunAccept s fun t => KeptWork s t ∧ t.hub.arriving = rest ∧
      ∃ k', t.hub.tasks = s.hub.tasks ++ [k'] ∧ k'.id = k.id ∧ k'.record = k.record ∧ k'.ranges = k.ranges ∧
        ∀ n, n ∈ k'.deps ↔ ∃ e ∈ s.hub.tasks, e.id = n ∧ e.asid = k.asid ∧ ∃ a ∈ k.ranges, ∃ b ∈ e.ranges,
          a.2.2.1 < b.2.2.1 + b.2.2.2 ∧ b.2.2.1 < a.2.2.1 + a.2.2.2 ∧
          ((a.1 = true ∧ b.2.1 = true) ∨ (a.2.1 = true ∧ b.1 = true) ∨ (a.2.1 = true ∧ b.2.1 = true))) ∧
    ((∃ k ∈ s.hub.tasks, s.taskReady k = true) → s.tickets < 4096 → Leads .taskDispatch s fun t => KeptWork s t ∧
      ∃ k ∈ s.hub.tasks, s.taskReady k = true ∧ (∀ e ∈ s.hub.tasks, s.taskReady e = true → e.pri ≤ k.pri) ∧
        ∃ g, t.hub.grids = s.hub.grids ++ [g] ∧ g.id = k.id ∧ g.asid = k.asid ∧ g.record = k.record ∧ g.isTask = true ∧ g.after = k.after ∧
          ∀ e ∈ t.hub.tasks, e.id = k.id → e.dispatched = true) ∧
    ∀ grid g, s.hub.grids.find? (·.id == grid) = some g → (∃ b ∈ s.allBlocks, b.grid = grid) →
      (∀ v ∈ s.mgmt.saved, v.asid ≠ g.asid) → (∀ x ∈ s.mgmt.removing, x.1 ≠ g.asid) →
      Leads (.watchdogExpiry grid) s fun t => KeptWork s t ∧ t.mgmt.removing = s.mgmt.removing ++ [(g.asid, 0x10, 0)]

/-- R353, R354, R359, R391 to R393, R397, R401, R403 to R407: removal by stages, resets, accounting, scrubs, sparing, power
and temperature. What a scrub, a training or a boot finds physically, and which cores draw most, are free values of the model
(log entries 9 and 27); when a timer ends is left open (log entry 53); that CONTEXT_REMOVAL stands for an error in control
state alone is the model's reading of its name (log entry 91). -/
def Obligations.RecoveryMoves : Prop :=
  ∀ (s : State),
    (∀ asid cause, (∀ x ∈ s.mgmt.removing, x.1 ≠ asid) → Leads (.contextRemoval asid cause) s fun t => KeptWork s t ∧
      t.mgmt.removing = s.mgmt.removing ++ if cause = 0x0C ∧ asid < 65536 ∧ s.spaceValid asid = true then [(asid, cause, 0)] else []) ∧
    (∀ asid cause stage, s.mgmt.removing.find? (·.1 == asid) = some (asid, cause, stage) →
      (s.stageDrained asid stage = false → Leads (.removalStage asid) s fun t => KeptWork s t ∧
        t.mgmt.removing = s.mgmt.removing) ∧
      (s.stageDrained asid stage = true → stage < 8 → Leads (.removalStage asid) s fun t =>
        t.mgmt.removing.find? (·.1 == asid) = some (asid, cause, stage + 1) ∧
        (stage = 1 → ∀ bg ∈ t.allGroups, bg.1.asid = asid → bg.2.ended = true) ∧
        (stage = 2 → ∀ c ∈ t.hub.commands, c.asid = asid → c.cancelled = true ∨ s.begun c = true) ∧
        (stage = 3 → ∀ b ∈ t.allBlocks, b.asid = asid → b.resvs = []) ∧
        (stage = 5 → ∀ r ∈ t.mem.requests, r.asid = asid → r.core = 9999 ∨ r.rejected = false) ∧
        (stage = 6 → ∀ e ∈ t.mem.tlb, e.asid ≠ asid) ∧ (stage ≠ 0 → ∀ pa, t.homeByte pa = s.homeByte pa)) ∧
      (s.stageDrained asid stage = true → 8 ≤ stage → s.recordHeld asid = true → Leads (.removalStage asid) s fun t =>
        KeptWork s t ∧ t.mgmt.removing = s.mgmt.removing) ∧
      (s.stageDrained asid stage = true → 8 ≤ stage →
        s.recordHeld asid = false → Leads (.removalStage asid) s fun t =>
        (∀ x ∈ t.mgmt.removing, x.1 ≠ asid) ∧ (∀ b ∈ t.allBlocks, b.asid ≠ asid) ∧ ∀ g ∈ t.hub.grids, g.asid ≠ asid) ∧
      (s.stageDrained asid stage = false → Leads (.removalEscalation asid) s fun t =>
        (asid, cause, stage) ∈ t.mgmt.removing ∧
        (∀ d ∈ s.stalledDies asid stage, (∀ c ∈ t.hub.commands, c.die ≠ d) ∧ ∀ b ∈ t.allBlocks, dieOf b.core ≠ d) ∧
        ∀ b ∈ s.allBlocks, dieOf b.core ∉ s.stalledDies asid stage → b ∈ t.allBlocks) ∧
      ∀ d, d ∈ s.stalledDies asid stage ↔ d < 40 ∧ s.stageCount asid stage d ≠ 0 ∧
        ∀ x ∈ s.mgmt.stageCounts, x.1 = asid → x.2.1 = d → x.2.2 ≤ s.stageCount asid stage d) ∧
    (∀ eH eL links vfs bytes, (vfs.map (·.1)).Nodup → Leads (.accountingTick eH eL links vfs bytes) s fun t => KeptWork s t ∧
      (∀ v ∈ vfs, t.vfWord v.1 3 = s.vfWord v.1 3 + BitVec.ofNat 64 (sharedEnergy eH eL links bytes v.1 v.2.1 v.2.2) ∧
        t.vfWord v.1 2 = s.vfWord v.1 2 - BitVec.ofNat 64 (sharedEnergy eH eL links bytes v.1 v.2.1 v.2.2)) ∧
      t.iso.systemAccount = s.iso.systemAccount + (eH + eL + (links.map (·.2.1)).sum + Config.restEnergy s.tick -
        (vfs.map fun v => sharedEnergy eH eL links bytes v.1 v.2.1 v.2.2).sum) ∧
      t.iso.recal = false ∧ (s.iso.recal = true → t.iso.calibration = s.tick + 1)) ∧
    (∀ eH eL l e n b vf a c, n ≠ 0 → sharedEnergy eH eL [(l, e, n)] [(l, vf, b)] vf a c =
      eH * a / 2 ^ 40 + eL * c / 640000000 + e * b / n) ∧
    (∀ core bank, let covers := fun (b : Block) (r : Resv) => r.mode ≠ 0 ∧ b.core = core ∧
        bank ∈ (b.banks.drop r.first).take r.count
      Leads (.bankScrub core bank) s fun t => (∀ pa cp, t.byteAt (pa, cp) = s.byteAt (pa, cp)) ∧ RegsBecome s t nowhere ∧
        ((∃ b ∈ s.allBlocks, ∃ r ∈ b.resvs, covers b r) → (∃ x, (2, bankPlace core bank, x) ∈ s.mem.upsets) →
          sget 0 t.mgmt.errors 7 = sget 0 s.mgmt.errors 7 + 1 ∧ t.mem.upsets = s.mem.upsets ∧
          ∀ b ∈ t.allBlocks, ∀ r ∈ b.resvs, covers b r → r.poisoned = true) ∧
        ((∀ b ∈ s.allBlocks, ∀ r ∈ b.resvs, ¬covers b r) → KeptWork s t)) ∧
    (∀ line, Leads (.l2Scrub line) s fun t => KeptWork s t ∧ (t.mem.upsets = s.mem.upsets ∨
      ((s.l2Entry line).isSome = true ∧ t.mem.upsets = s.mem.upsets ++ [(6, line, 0)] ∧
        sget 0 t.mgmt.errors 13 = sget 0 s.mgmt.errors 13 + 1))) ∧
    (∀ line, Leads (.hbmPatrolScrub line) s fun t => KeptWork s t ∧ (t.mem.upsets = s.mem.upsets ∨
      (64 * line < 2 ^ 40 ∧ t.mem.upsets = s.mem.upsets ++ [(7, line, 0)] ∧
        sget 0 t.mgmt.errors 15 = sget 0 s.mgmt.errors 15 + 1))) ∧
    (∀ row, Leads (.rowSparing row) s fun t => KeptWork s t ∧ t.mem = s.mem ∧ row ∈ t.mgmt.spared) ∧
    (∀ w hot cool under, Leads (.powerSample w hot cool under) s fun t => KeptWork s t ∧
      (s.mgmt.powerCap < w → (∀ d < 32, s.dieMHz d ≤ 900) →
        (∀ d < 32, t.dieReason d = (if s.isHot d then 2 else 1) ∧ t.dieMHz d = s.dieMHz d ∧ t.isHot d = s.isHot d) ∧
        ∀ c, c ∈ t.mgmt.throttled ↔ c < 640 ∧ Config.choice s.tick (2 ^ 23 + c) = true) ∧
      (s.mgmt.powerCap < w → hot < 32 → 900 < s.dieMHz hot → t.dieMHz hot = s.dieMHz hot - 25 ∧
        (t.dieReason hot = if s.isHot hot then 2 else 1) ∧ ∀ d, d ≠ hot → t.dieMHz d = s.dieMHz d) ∧
      (w ≤ s.mgmt.powerCap → t.mgmt.throttled = []) ∧
      (w + 50 ≤ s.mgmt.powerCap → under = true → cool < 40 → s.dieMHz cool < 1800 → s.isHot cool = false →
        t.dieMHz cool = s.dieMHz cool + 25)) ∧
    (∀ die temp, die < 40 → 110 ≤ temp → Leads (.temperatureCapping die temp) s fun t => (∀ b ∈ t.allBlocks, dieOf b.core ≠ die) ∧
      ∀ a ∈ s.contextsOn die, ∃ x ∈ t.mgmt.removing, x.1 = a) ∧
    (∀ die temp, die < 40 → temp < 110 → Leads (.temperatureCapping die temp) s fun t => KeptWork s t ∧
      bits (t.dvfsWord die) 15 8 = temp ∧
      (95 < temp ∨ (s.isHot die = true ∧ 92 ≤ temp) → t.dieMHz die = max 900 (s.dieMHz die - 25) ∧ t.dieReason die = 2 ∧
        t.isHot die = true) ∧
      (temp < 92 ∨ (s.isHot die = false ∧ temp ≤ 95) → t.dieMHz die = s.dieMHz die ∧ t.isHot die = false ∧
        t.dieReason die = if s.isHot die then (sget 0 s.mgmt.hot die - 1) % 256 else s.dieReason die)) ∧
    (∀ die < 40, Leads (.thermtrip die) s fun t => (∀ b ∈ t.allBlocks, dieOf b.core ≠ die) ∧
      ∀ a ∈ s.contextsOn die, ∃ x ∈ t.mgmt.removing, x.1 = a) ∧
    (∀ reason value, ¬(reason = 0 ∧ 40 < value ∨ reason = 1 ∧ value < 6) → Leads (.thermal reason value) s fun t => KeptWork s t ∧
      t.mgmt.events = s.mgmt.events) ∧
    (∀ reason value, (reason = 0 ∧ 40 < value ∨ reason = 1 ∧ value < 6) →
     ringFull (sget 0 s.mgmt.ewi 1024) (sget 0 s.mgmt.eri 1024) = false → Leads (.thermal reason value) s fun t =>
      KeptWork s t ∧ t.mgmt.events = s.mgmt.events ++ [(1024, sget 0 s.mgmt.ewi 1024,
        ⟨8, 0, BitVec.ofNat 64 s.mgmt.ns, BitVec.ofNat 64 (reason % 256 + value % 256 * 256), 0⟩)]) ∧
    (Leads .coldReset s fun t => t.mem = { bytes := s.mem.bytes.filter fun c => 2 ^ 50 ≤ c.1 } ∧ t.hub = {} ∧ t.iso = {} ∧
      t.cores = {} ∧ t.blocks = [] ∧ t.blk = {} ∧ t.grp = {} ∧ t.mgmt.firmware = s.mgmt.firmware ∧
      t.mgmt.images = s.mgmt.images ∧ t.bootPH = (if s.bootSlot = none then 3 else 1)) ∧
    (s.bootPH = 1 → KeptWork s s.endBoot ∧ s.endBoot.bootPH = 2 ∧ s.endBoot.bootFWS = s.bootFWS) ∧
    (∀ m < 4, ringFull (sget 0 s.mgmt.ewi 1024) (sget 0 s.mgmt.eri 1024) = false → Leads (.ucieModuleFailure m) s fun t =>
      KeptWork s t ∧ t.linkST (56 + m) = 0 ∧ (∀ l, l ≠ 56 + m → t.linkST l = s.linkST l) ∧
      sget 0 t.mgmt.errors 19 = sget 0 s.mgmt.errors 19 + 1 ∧
      t.mgmt.events = s.mgmt.events ++ [(1024, sget 0 s.mgmt.ewi 1024,
        ⟨4, 0, BitVec.ofNat 64 s.mgmt.ns, BitVec.ofNat 64 (256 * m), 0⟩)]) ∧
    (∀ core bank code, core < 512 → bank < 64 → Leads (.bankSenseTrimStep core bank code) s fun t => KeptWork s t ∧
      sget 0 t.cores.trim (64 * core + bank) = BitVec.ofNat 64 (code % 256 * 256)) ∧
    ∀ port lane main pre post margin, port < 16 → lane < 8 →
      Leads (.linkEqualisation port lane main pre post margin) s fun t => KeptWork s t ∧
        let w := sget 0 t.links.taps (8 * port + lane)
        bits w 31 24 = main % 256 ∧ bits w 23 16 = pre % 256 ∧ bits w 15 8 = post % 256 ∧ bits w 7 0 = margin % 256 ∧
          bits w 63 32 = (bits (sget 0 s.links.taps (8 * port + lane)) 63 32 +
            Config.preErrors (8 * port + lane) s.tick) % 2 ^ 32

/-- R359, R361 to R363, R368, R370, R372 to R375, R400, R409: link states and snoops, flits, the accesses of hosts and
peers, doorbells and registers, notices. The model's own choices: the CRC's bit order (log entry 88), LINKDOWN for a die
link and the module behind a port (87), the ports that a line may take (99), the routing table (16), the records of the
physical function (30), what a peer's atomic leaves (28), the timers (53), what memory reads that nothing has written
(4). -/
def Obligations.LinksAndHost : Prop :=
  ∀ (s : State),
    let told := fun (t : State) (code kind : Nat) => ringFull (sget 0 s.mgmt.ewi 1024) (sget 0 s.mgmt.eri 1024) = false →
      t.mgmt.events = s.mgmt.events ++ [(1024, sget 0 s.mgmt.ewi 1024,
        ⟨code, 0, BitVec.ofNat 64 s.mgmt.ns, BitVec.ofNat 64 kind, 0⟩)]
    let down := fun (t : State) (link : Nat) => t.linkST link = 0 ∧ sget 0 t.mgmt.errors 19 = sget 0 s.mgmt.errors 19 + 1 ∧
      (∀ r ∈ s.mem.requests, 40 ≤ link → link < 56 → s.usesPort (link - 40) r = true → { r with port := some (link - 40) } ∈ t.mem.requests) ∧
      told t 4 (if link < 40 then 1 + 256 * link else if link < 56 then 2 + 256 * (link - 40) else 256 * (link - 56))
    let retrains := fun (t : State) (link : Nat) =>
      bits (t.linkWord link) 31 16 = (bits (s.linkWord link) 31 16 + 1) % 65536
    (∀ link < 60, (∀ x ∈ s.links.snoops, x.1 ≠ link) → s.linkBusy link = false → s.linkST link = 2 →
      Leads (.linkSleep link) s fun t => KeptWork s t ∧ t.linkST link = 3) ∧
    (∀ link, s.linkST link = 3 → Leads (.linkWake link) s fun t => KeptWork s t ∧ t.linkST link = 4) ∧
    (∀ link, s.linkST link = 4 → (Leads (.wakeComplete link true) s fun t => KeptWork s t ∧ t.linkST link = 2 ∧
      ∀ x ∈ t.links.snoops, x.1 ≠ link) ∧ Leads (.wakeComplete link false) s fun t => KeptWork s t ∧ t.linkST link = 1 ∧
        retrains t link ∧ t.links.snoops = s.links.snoops) ∧
    (∀ link, s.linkST link = 1 → (Leads (.linkTrainingDone link true) s fun t => KeptWork s t ∧ t.linkST link = 2 ∧
      ∀ x ∈ t.links.snoops, x.1 ≠ link) ∧ Leads (.linkTrainingDone link false) s fun t => KeptWork s t ∧ down t link) ∧
    (∀ link line, link < 56 → let of := if 40 ≤ link then s.portModule (link - 40) line else 0
     Leads (.snoop link line) s fun t => KeptWork s t ∧
      (s.linkST link = 2 → (∀ x ∈ t.links.snoops, x.1 ≠ link) ∧ t.linkST link = 2 ∧
        (link < 40 → ∀ c ∈ t.mem.l1, dieOf c.core = link → c.line ≠ line)) ∧
      (s.linkST link = 3 → t.linkST link = 4 ∧ (link, line, of) ∈ t.links.snoops) ∧
      (s.linkST link < 2 → t.linkST link = s.linkST link ∧ (link, line, of) ∈ t.links.snoops ∧ link ∈ t.links.deadTimer)) ∧
    (∀ link, link ∈ s.links.deadTimer → s.linkST link ≠ 2 → s.linkST link ≠ 4 → Leads (.deadDieTimer link) s fun t =>
      KeptWork s t ∧ (∀ x ∈ t.links.snoops, x.1 ≠ link) ∧ link ∉ t.links.deadTimer ∧
      (link < 40 → told t 5 (if link < 32 then 65536 * link else 1 + 65536 * (link - 32))) ∧
      (40 ≤ link → ∀ m, (∃ x ∈ s.links.snoops, x.1 = link) → (∀ x ∈ s.links.snoops, x.1 = link → x.2.2 = m) →
        told t 5 (2 + 65536 * m)) ∧
      (link < 40 → link ∈ t.mgmt.offline ∧ (∀ c ∈ t.mem.l1, dieOf c.core ≠ link) ∧
        ∀ a ∈ s.contextsOn link, ∃ x ∈ t.mgmt.removing, x.1 = a) ∧
      (40 ≤ link → ∀ x ∈ s.links.snoops, x.1 = link → ∀ c ∈ t.links.copies, c.1 ≠ x.2.2)) ∧
    (∀ port (h : BitVec 64) rest, port < 16 → s.portUp port = true → let flit := bytesOfNat 8 h.toNat ++ rest
      let hdr := flitHeader flit
      let next := (sget 0 s.links.rxSeq port + 1) % 4096
      Leads (.flitReceive port h rest) s fun t => KeptWork s t ∧
        (∀ k < 8, bits (sget 0 t.links.taps (8 * port + k)) 63 32 =
          (bits (sget 0 s.links.taps (8 * port + k)) 63 32 + Config.preErrors (8 * port + k) s.tick) % 2 ^ 32) ∧
        (flitGood flit = false → bits (t.linkWord (40 + port)) 63 32 = (bits (s.linkWord (40 + port)) 63 32 + 1) % 2 ^ 32 ∧
          sget 0 t.links.fails port = sget 0 s.links.fails port + 1 ∧ t.links.rxSeq = s.links.rxSeq ∧
          sget 0 t.links.naked port = sget 0 s.links.rxSeq port + 1 ∧ t.links.staged = s.links.staged) ∧
        (flitGood flit = true → flitSEQ hdr = next →
          sget 0 t.links.rxSeq port = flitSEQ hdr ∧ sget 0 t.links.fails port = 0 ∧ sget 0 t.links.naked port = 0 ∧
          sget 0 t.links.txAck port = flitACK hdr ∧
          sget 0 t.links.credits (4 * port + flitVC hdr) = sget 0 s.links.credits (4 * port + flitVC hdr) + flitCRED hdr ∧
          (flitKIND hdr = 0 → (port, (flit.drop 8).take 244) ∈ t.links.staged ∧
            (t.links.staged.filter (·.1 == port)).length ≤ 4) ∧
          (flitKIND hdr ≠ 0 → t.links.staged = s.links.staged)) ∧
        (flitGood flit = true → flitSEQ hdr ≠ next → t.links.rxSeq = s.links.rxSeq ∧ t.links.fails = s.links.fails ∧
          t.links.txAck = s.links.txAck ∧ t.links.credits = s.links.credits ∧ t.links.staged = s.links.staged)) ∧
    (∀ port ack, port < 16 → Leads (.nak port ack) s fun t => KeptWork s t ∧ sget 0 t.links.txAck port = ack % 4096 ∧
      (∀ q, q ≠ port → t.links.replay.filter (·.1 == q) = s.links.replay.filter (·.1 == q)) ∧
      ((port, ack % 4096) ∈ s.links.replay → t.links.replay.filter (·.1 == port) =
        ((s.links.replay.filter (·.1 == port)).dropWhile (· != (port, ack % 4096))).drop 1)) ∧
    (∀ port < 16, 8 ≤ sget 0 s.links.fails port → let link := 40 + port
      (s.linkST link = 0 → ∀ ok, Leads (.portRetrain port ok) s fun t => KeptWork s t ∧ t.links = s.links) ∧
      (s.linkST link ≠ 0 → (Leads (.portRetrain port true) s fun t => KeptWork s t ∧ t.linkST link = 2 ∧
          sget 0 t.links.fails port = 0 ∧ retrains t link) ∧
        Leads (.portRetrain port false) s fun t => KeptWork s t ∧ retrains t link ∧
          (sget 0 s.links.retrains port < 2 → t.linkST link = 1) ∧ (2 ≤ sget 0 s.links.retrains port → down t link))) ∧
    (∀ vf hpa w data,
      let refused := fun (t : State) (fw : Nat) => KeptWork s t ∧
        sget 0 t.iso.violations fw = sget 0 s.iso.violations fw + 1 ∧
        (w = false → ∃ bs : List Byte, bs.length = data.length ∧ t.links.hostReply = some (bs, true))
      (s.hdmTarget vf hpa = none → Leads (.hostMemAccess vf hpa w data) s fun t => refused t 0) ∧
      ∀ pa, s.hdmTarget vf hpa = some pa →
        (s.hostMay vf pa = false → Leads (.hostMemAccess vf hpa w data) s fun t => refused t (1 + pa / 2 ^ 37 % 8)) ∧
        (s.hostMay vf pa = true → pa % 2 ^ 30 + data.length ≤ 2 ^ 30 → let key := 65536 + bits (s.vfWord vf 0) 17 6
          let ls := distinct ((List.range data.length).map fun j => (pa + j) / 64)
          let free := ∀ h ∈ s.mem.held, ∀ j < data.length, (pa + j) / 64 ∉ h.1
          (¬free → Leads (.hostMemAccess vf hpa w data) s fun t => KeptWork s t ∧
            t.mem.held = s.mem.held ++ [(ls, .hostMemAccess vf hpa w data)]) ∧
          (w = false → free → Leads (.hostMemAccess vf hpa w data) s fun t => KeptWork s t ∧ ∃ p : Bool,
            t.links.hostReply = some ((List.range data.length).map fun j => s.readAt key (pa + j, 0), p) ∧
            (p = true ↔ ∃ j < data.length, s.unreadable key (pa + j, 0) ≠ none)) ∧
          (w = true → free → (∀ j < data.length, s.lineHeld none false ((pa + j) / 64) = false) →
            Leads (.hostMemAccess vf hpa w data) s fun t => Written s t pa data ∧ (Unwatched s → t.grp = s.grp)))) ∧
    (∀ handle off kind data, let idx := hIdx handle
      let n := data.length
      let w0 := s.exportWord idx 0
      let live := hMod handle = s.ownModule ∧ exST w0 = 1 ∧ sget 0 s.links.serial idx = hSer handle
      let sound := live ∧ bits w0 47 32 = hChk handle ∧ off + n ≤ bits (s.exportWord idx 2) 40 0 ∧
        (bits w0 59 57).testBit kind = true
      let place := s.exportPlace idx off (if kind = 0 then .load else if kind = 1 then .store else .rmw) 0
      let denied := fun (t : State) => KeptWork s t ∧ ∃ fw, sget 0 t.iso.violations fw = sget 0 s.iso.violations fw + 1
      (kind < 3 → ¬sound → Leads (.peerRequest handle off kind n data) s denied) ∧
      (kind < 3 → sound → ∀ code port dn, place = .gone code port dn → Leads (.peerRequest handle off kind n data) s fun t =>
        KeptWork s t ∧ (dn = true → denied t)) ∧
      (kind < 3 → sound → ∀ pa cp, place = .at_ pa cp →
        (kind = 0 → Leads (.peerRequest handle off kind n data) s (KeptWork s)) ∧
        (kind ≠ 0 → off % 4096 + n ≤ 4096 → (∀ h ∈ s.mem.held, ∀ j < n, (pa + j) / 64 ∉ h.1) → (∀ j < n, s.lineHeld none false ((pa + j) / 64) = false) →
          Leads (.peerRequest handle off kind n data) s fun t => Written s t pa data ∧ (Unwatched s → t.grp = s.grp))) ∧
      (live → bits w0 47 32 ≠ hChk handle → Leads (.peerRequest handle off 3 n data) s fun t => KeptWork s t ∧
        bits (t.exportWord idx 0) 63 60 = min 15 (bits w0 63 60 + 1) ∧
        exST (t.exportWord idx 0) = if 14 ≤ bits w0 63 60 then 2 else 1) ∧
      (hMod handle ≠ s.ownModule → Leads (.peerRequest handle off 4 n data) s fun t => KeptWork s t ∧
        ∀ e ∈ s.links.peerHandle, e.2 = handle → bits (sget 0 s.links.peerSlot e.1) 63 62 = 1 →
          bits (sget 0 t.links.peerSlot e.1) 63 62 = 2)) ∧
    (∀ vf q tail, let w := s.vfWord vf 1
      (q ≤ bits w 19 8 → Leads (.queueDoorbell vf q tail) s fun t => KeptWork s t ∧
        t.wqTail (bits w 31 20 + q) = tail % 2 ^ 32 ∧ ∀ k, t.wqHead k = s.wqHead k) ∧
      (bits w 19 8 < q → Leads (.queueDoorbell vf q tail) s fun t => KeptWork s t ∧ t.hub = s.hub)) ∧
    (∀ fn (value : DWord), fn ≤ physicalFn → let bytes := bytesOfNat 8 value.toNat
      (∀ k < 8, Leads (.registerWrite fn (0x100 + 8 * k) bytes) s fun t => KeptWork s t ∧ t.hub = s.hub ∧
        t.blockWord fn k = value ∧ t.mgmt.running = s.mgmt.running ∧
        ∀ f j, (f, j) ≠ (fn, k) → j < 8 → t.blockWord f j = s.blockWord f j) ∧
      (Leads (.registerWrite fn 0x140 bytes) s fun t => KeptWork s t ∧ t.cmdBusy fn = true ∧
        (s.cmdBusy fn = true → t.mgmt.status = s.mgmt.status ∧ t.mgmt.running = s.mgmt.running) ∧
        (s.cmdBusy fn = false → t.mgmt.running = s.mgmt.running ++ [⟨fn, (List.range 7).map (s.blockWord fn), false⟩])) ∧
      (∀ k < 512, Leads (.registerWrite fn (0x200 + 8 * k) bytes) s fun t => KeptWork s t ∧
        ∀ j < 8, sget 0 t.mgmt.mailbox (4096 * fn + 8 * k + j) = value.extractLsb' (8 * j) 8) ∧
      (Leads (.registerWrite fn 0x4008 bytes) s fun t => KeptWork s t ∧ sget 0 t.mgmt.eri fn = value.toNat) ∧
      (∀ q, q ≤ bits (s.vfWord fn 1) 19 8 → fn ≠ physicalFn →
        Leads (.registerWrite fn (2 ^ 24 + 4096 * q + 24) bytes) s fun t => KeptWork s t ∧
          t.wqTail (bits (s.vfWord fn 1) 31 20 + q) = value.toNat % 2 ^ 32) ∧
      (∀ o < 2 ^ 24, ∀ data, o % 8 ≠ 0 ∨ data.length ≠ 8 → Leads (.registerWrite fn (2 ^ 24 + o) data) s fun t =>
        KeptWork s t ∧ t.hub = s.hub ∧ sget 0 t.iso.violations 0 = sget 0 s.iso.violations 0 + 1) ∧
      (∀ k < 8, s.registerRead fn (0x100 + 8 * k) = s.blockWord fn k) ∧ s.registerRead fn 0x140 = 0 ∧
      s.registerRead fn 0x148 = s.cmdStatus fn ∧ s.registerRead fn 0x4000 = BitVec.ofNat 64 (sget 0 s.mgmt.ewi fn) ∧
      ∀ o < 2 ^ 24, 32 ≤ o % 4096 → s.registerRead fn (2 ^ 24 + o) = 0) ∧
    (∀ index job, Leads (.managementNotice 4 index job) s fun t => KeptWork s t ∧ sget 0 t.links.routes index = job) ∧
    ∀ kind index job, kind < 4 → Leads (.managementNotice kind index job) s fun t =>
      t.mgmt.notices = s.mgmt.notices ++ [(kind, index, job)] ∧ (kind = 2 → sget 0 t.links.routes index = 0) ∧
      (kind = 3 → ∀ m < 8192, (sget 0 t.links.routes m).testBit index = false) ∧
      (kind < 2 → ∀ a ∈ t.contextsOn (if kind = 0 then index else 32 + index), ∃ x ∈ t.mgmt.removing, x.1 = a) ∧
      ∀ a ∈ s.contextsOfVf job, (∃ x ∈ t.mgmt.preempt, x.1 = a) ∨ (∃ v ∈ t.mgmt.saved, v.asid = a) ∨
        ∃ x ∈ t.mgmt.removing, x.1 = a

/-- R339, R340, R342, R343, R347 to R349, R365, R367 to R370, R384, R388, R390, R395, R396, R398, R399, R401, R404,
R406, R408, R409: the commands of the management controller. Each is turned away before READY (0xFF), from a function
that may not issue it (0xFD), with a reserved bit set (0x11) and for a function that does not exist (0x12); one that is
not under way, or not the oldest under way, does nothing; and each does what its rule says and ends with its status. The
check codes of exports, the secrets behind keys and signatures and the layout of sections are free values of the model
(log entries 8, 9 and 54). The model's own readings: the order in which commands are judged (19), a change of resources
that removes first (26, 101), the answer of another module to IMPORT (17), BAD though a command fails (18), the host
memory of a census (90), what an image names (11). -/
def Obligations.Commands : Prop :=
  ∀ (s : State) (fn : Nat), fn ≤ physicalFn →
    (∀ i code forVf masks, commandOf i = some (fn, code, forVf, masks) →
      (s.cmdRuns fn = false ∨ bits (s.cmdWord fn 0) 7 0 ≠ code → Leads i s fun t => KeptWork s t ∧ t.hub = s.hub ∧
        t.cmdStatus fn = s.cmdStatus fn) ∧
      (s.cmdRuns fn = true → bits (s.cmdWord fn 0) 7 0 = code →
        (s.bootPH ≠ 2 → (s.bootPH = 3 → code ≠ 1 ∧ code ≠ 3 ∧ code ≠ 4) → EndsWith i s fn 0xFF (KeptWork s)) ∧
        (s.bootPH = 2 → fn ≠ physicalFn → forVf = false → EndsWith i s fn 0xFD (KeptWork s)) ∧
        (s.bootPH = 2 → (fn = physicalFn ∨ forVf = true) → (bits (s.cmdWord fn 0) 63 26 ≠ 0 ∨ bits (s.cmdWord fn 0) 15 8 ≠ 0 ∨
          s.argsClean fn masks = false) → EndsWith i s fn 0x11 (KeptWork s)) ∧
        (s.bootPH = 2 → fn = physicalFn → forVf = true → bits (s.cmdWord fn 0) 63 26 = 0 → bits (s.cmdWord fn 0) 15 8 = 0 →
          s.argsClean fn masks = true → (code = 0x1B → s.cmdWord fn 3 ≠ 0) →
          (s.vfWord (bits (s.cmdWord fn 0) 25 16) 1).getLsbD 0 = false → EndsWith i s fn 0x12 (KeptWork s)))) ∧
    (s.cmdRuns fn = true → knownCmd (bits (s.cmdWord fn 0) 7 0) = false →
      EndsWith (.badcmd fn) s fn (if s.bootPH = 2 then 0xFE else 0xFF) (KeptWork s)) ∧
    (UnderWay s fn 0x01 false [] → EndsWith (.reset fn) s fn 0 fun t =>
      t.mem = { bytes := s.mem.bytes.filter fun c => 2 ^ 50 ≤ c.1 } ∧ t.hub = {} ∧ t.iso = {} ∧ t.cores = {} ∧ t.blocks = [] ∧
      t.blk = {} ∧ t.grp = {} ∧ t.bootPH = (if s.bootSlot = none then 3 else 1)) ∧
    (UnderWay s fn 0x02 false [63] → (40 ≤ s.arg fn 1 → EndsWith (.diereset fn) s fn 0x11 (KeptWork s)) ∧
      (s.arg fn 1 < 40 → EndsWith (.diereset fn) s fn 0 fun t => (∀ b ∈ t.allBlocks, dieOf b.core ≠ s.arg fn 1) ∧
        ∀ a ∈ s.contextsOn (s.arg fn 1), ∃ x ∈ t.mgmt.removing, x.1 = a)) ∧
    (UnderWay s fn 0x03 false [anyArg, anyArg, anyArg, 1] → s.arg fn 2 % 4096 = 0 → s.arg fn 3 % 4096 = 0 →
      s.arg fn 3 ≤ 2 ^ 20 → s.arg fn 2 + s.arg fn 3 ≤ 2 ^ 32 → s.arg fn 1 + s.arg fn 3 ≤ 2 ^ 50 →
      let idle := 1 - s.bootFWS % 2
      let taken := fun (t : State) => KeptWork s t ∧ ∀ j < s.arg fn 3,
        sget 0 t.mgmt.firmware (idle * 2 ^ 32 + s.arg fn 2 + j) = s.homeByte (2 ^ 50 + s.arg fn 1 + j)
      (s.arg fn 4 = 0 → EndsWith (.fwwrite fn) s fn 0 fun t => taken t ∧ t.mgmt.idleVerified = false) ∧
      (s.arg fn 4 = 1 → ∃ code, EndsWith (.fwwrite fn) s fn code fun t => taken t ∧
        sget 0 t.mgmt.images idle = s.arg fn 2 + s.arg fn 3 + 1 ∧ t.mgmt.idleVerified = t.slotVerifies idle ∧
        code = if t.mgmt.idleVerified then 0 else 0x10)) ∧
    (UnderWay s fn 0x04 false [] → (s.mgmt.idleVerified = true → EndsWith (.fwswitch fn) s fn 0 fun t => KeptWork s t ∧
        t.bootFWS = 1 - s.bootFWS % 2) ∧ (s.mgmt.idleVerified = false → EndsWith (.fwswitch fn) s fn 0x10 (KeptWork s))) ∧
    (UnderWay s fn 0x05 false [63, anyArg] → let p := s.arg fn 1
      let r := wordsAt (s.hostBytes (s.arg fn 2) 48) 6
      let kept := fun (t : State) => t.grp = s.grp ∧ t.blk = s.blk ∧ t.blocks = s.blocks ∧ ∀ pa, t.homeByte pa = s.homeByte pa
      let sound := s.arg fn 2 + 48 ≤ 2 ^ 50 ∧ partitionClean r = true ∧ (pEN r = true → ∀ q < 64, q ≠ p → pEN (s.partRecord q) = true →
        shareResource r (s.partRecord q) = false)
      (¬sound → EndsWith (.partset fn) s fn 0x11 (KeptWork s)) ∧
      let uses := fun (a : Nat) => a ∈ s.usersOf p ∧ s.usesMoved (s.partRecord p) r a = true
      (sound → (∀ a, ¬uses a) → EndsWith (.partset fn) s fn 0 fun t =>
        kept t ∧ ∀ k < 6, t.partWord p k = lw r k) ∧
      (sound → (∃ a, uses a) → Leads (.partset fn) s fun t => KeptWork s t ∧ t.cmdBusy fn = true ∧ t.iso = s.iso ∧
        (∀ a, uses a → ∃ x ∈ t.mgmt.removing, x.1 = a) ∧ ∀ b ∈ s.allBlocks, b.asid ∈ s.usersOf p →
          losesCore (s.partRecord p) r b.core = true → ∃ x ∈ t.mgmt.removing, x.1 = b.asid)) ∧
    (UnderWay s fn 0x06 false [1023, 255] → let g := s.arg fn 1
      let e : BitVec 8 := BitVec.ofNat 8 (s.arg fn 2)
      let old := sget 0 s.iso.granule g
      (e.getLsbD 6 = true ∨ (e.getLsbD 7 = true ∧ 32 + g / 128 ∈ s.mgmt.offline) → EndsWith (.granset fn) s fn 0x11 (KeptWork s)) ∧
      (e.getLsbD 6 = false → (e.getLsbD 7 = true → 32 + g / 128 ∉ s.mgmt.offline) →
        (old.getLsbD 7 = true → e ≠ old → s.usersOf (bits old 5 0) = []) → EndsWith (.granset fn) s fn 0 fun t =>
          KeptWork s t ∧ sget 0 t.iso.granule g = e ∧ ∀ k, k ≠ g → sget 0 t.iso.granule k = sget 0 s.iso.granule k) ∧
      (e.getLsbD 6 = false → (e.getLsbD 7 = true → 32 + g / 128 ∉ s.mgmt.offline) → old.getLsbD 7 = true → e ≠ old →
        s.usersOf (bits old 5 0) ≠ [] → Leads (.granset fn) s fun t => KeptWork s t ∧ t.cmdBusy fn = true ∧ t.iso = s.iso ∧
          ∀ a ∈ s.usersOf (bits old 5 0), ∃ x ∈ t.mgmt.removing, x.1 = a)) ∧
    (UnderWay s fn 0x07 false [1023, anyArg, anyArg] → let v := s.arg fn 1
      let r := wordsAt (s.hostBytes (s.arg fn 2) 32) 4
      let h := wordsAt (s.hostBytes (s.arg fn 3) 128) 16
      let fits := s.arg fn 2 + 32 ≤ 2 ^ 50 ∧ s.arg fn 3 + 128 ≤ 2 ^ 50
      (¬fits ∨ s.vfOk v r = false → EndsWith (.vfset fn) s fn 0x11 (KeptWork s)) ∧
      (fits → s.vfOk v r = true → (∀ k < 8, hostRangeOk (lw h (2 * k)) (lw h (2 * k + 1)) = true) → EndsWith (.vfset fn) s fn 0 fun t =>
        KeptWork s t ∧ (∀ k < 3, t.vfWord v k = lw r k) ∧ t.vfWord v 3 = s.vfWord v 3 ∧
        (∀ k < 16, sget 0 t.iso.hostRange (16 * v + k) = lw h k) ∧
        (exhausted (lw r 2) = false → ∀ x ∈ t.mgmt.preempt, x.2 = 0x0D → t.vfOf x.1 = v →
          ∃ bg ∈ s.allGroups, bg.1.asid = x.1 ∧ bg.2.saved.isSome = true))) ∧
    (UnderWay s fn 0x08 false [63, anyArg, anyArg] → s.arg fn 2 % 4096 = 0 → s.arg fn 2 + s.arg fn 3 ≤ 2 ^ 40 →
      (∀ a, s.arg fn 2 ≤ a → a < s.arg fn 2 + s.arg fn 3 → (sget 0 s.iso.granule (a / 2 ^ 30)).getLsbD 7 = true ∧
        bits (sget 0 s.iso.granule (a / 2 ^ 30)) 5 0 = s.arg fn 1) → 0 < s.arg fn 3 → EndsWith (.fallback fn) s fn 0 fun t =>
          KeptWork s t ∧ sget (0, 0) t.iso.fallback (s.arg fn 1) = (s.arg fn 2, s.arg fn 3)) ∧
    (UnderWay s fn 0x09 false [anyArg] → (1200 ≤ s.arg fn 1 ∧ s.arg fn 1 ≤ 2600 → EndsWith (.powercap fn) s fn 0 fun t =>
        KeptWork s t ∧ t.mgmt.powerCap = s.arg fn 1) ∧
      (s.arg fn 1 < 1200 ∨ 2600 < s.arg fn 1 → EndsWith (.powercap fn) s fn 0x11 fun t => KeptWork s t ∧
        t.mgmt.powerCap = s.mgmt.powerCap)) ∧
    (UnderWay s fn 0x0A false [0xF013F] → ∀ d, bits (s.cmdWord fn 1) 5 0 = d → d < 40 →
      ((s.cmdWord fn 1).getLsbD 8 = false → bits (s.cmdWord fn 1) 19 16 = 0 → (∀ b ∈ s.allBlocks, dieOf b.core ≠ d) →
        (∀ c ∈ s.hub.commands, c.die ≠ d) → EndsWith (.dieoff fn) s fn 0 fun t => KeptWork s t ∧ d ∈ t.mgmt.offline) ∧
      ((s.cmdWord fn 1).getLsbD 8 = true → ∀ c, (coresOf d)[bits (s.cmdWord fn 1) 19 16]? = some c →
        (∀ b ∈ s.allBlocks, b.core ≠ c) → EndsWith (.dieoff fn) s fn 0 fun t => KeptWork s t ∧ c ∈ t.mgmt.offlineCores)) ∧
    (UnderWay s fn 0x0B false [0xF013F] → ∀ d, bits (s.cmdWord fn 1) 5 0 = d → d < 40 →
      ((s.cmdWord fn 1).getLsbD 8 = false → bits (s.cmdWord fn 1) 19 16 = 0 → EndsWith (.dieon fn) s fn 0 fun t =>
        KeptWork s t ∧ ∀ k, k ∈ t.mgmt.offline ↔ k ∈ s.mgmt.offline ∧ k ≠ d) ∧
      ((s.cmdWord fn 1).getLsbD 8 = true → ∀ c, (coresOf d)[bits (s.cmdWord fn 1) 19 16]? = some c →
        EndsWith (.dieon fn) s fn 0 fun t => KeptWork s t ∧ ∀ k, k ∈ t.mgmt.offlineCores ↔ k ∈ s.mgmt.offlineCores ∧ k ≠ c)) ∧
    (UnderWay s fn 0x0C false [63] → EndsWith (.recal fn) s fn (if s.arg fn 1 < 40 ∨ s.arg fn 1 = 63 then 0 else 0x11)
      fun t => KeptWork s t ∧ t.iso.calibration = s.iso.calibration ∧
        (s.arg fn 1 < 40 ∨ s.arg fn 1 = 63 → t.iso.recal = true)) ∧
    (UnderWay s fn 0x10 true [0x7FFFF, anyArg, anyArg, anyArg] → let asid := bits (s.cmdWord fn 1) 15 0
      (s.vfHolds (s.targetVf fn) asid = false → EndsWith (.exportRange fn) s fn 2 (KeptWork s)) ∧
      (s.vfHolds (s.targetVf fn) asid = true → s.arg fn 2 % 4096 = 0 → s.arg fn 2 < 2 ^ 57 → 0 < s.arg fn 3 →
        s.arg fn 3 % 4096 = 0 → s.arg fn 3 ≤ 2 ^ 40 → bits (s.cmdWord fn 4) 62 19 = 0 →
        ((∀ k < 16384, exST (s.exportWord k 0) ≠ 0) → EndsWith (.exportRange fn) s fn 1 (KeptWork s)) ∧
        ∀ k < 16384, exST (s.exportWord k 0) = 0 → (∀ j < k, exST (s.exportWord j 0) ≠ 0) → sget 0 s.links.serial k < 2 ^ 21 →
          EndsWith (.exportRange fn) s fn 0 fun t => KeptWork s t ∧ let h := t.blockWord fn 7
            exST (t.exportWord k 0) = 1 ∧ exASID (t.exportWord k 0) = asid ∧ (t.exportWord k 1).toNat = s.arg fn 2 ∧
            bits (t.exportWord k 0) 59 57 = bits (s.cmdWord fn 1) 18 16 ∧ (t.exportWord k 2).toNat = s.arg fn 3 ∧
            t.exportWord k 3 = s.cmdWord fn 4 ∧ hIdx h = k ∧ hSer h = sget 0 s.links.serial k ∧
            hMod h = s.ownModule % 8192 ∧ hChk h = bits (t.exportWord k 0) 47 32)) ∧
    (UnderWay s fn 0x11 true [anyArg, 0x7FF1F] → let h := s.cmdWord fn 1
      let w0 := s.exportWord (hIdx h) 0
      (s.slotArg fn = none → EndsWith (.importHandle fn) s fn 0x12 (KeptWork s)) ∧
      ∀ k, s.slotArg fn = some k →
        (bits (sget 0 s.links.peerSlot k) 63 62 ≠ 0 → EndsWith (.importHandle fn) s fn 6 (KeptWork s)) ∧
        (bits (sget 0 s.links.peerSlot k) 63 62 = 0 → hMod h ≠ s.ownModule →
          (s.portsTo (hMod h) = [] → EndsWith (.importHandle fn) s fn 7 (KeptWork s)) ∧
          (s.portsTo (hMod h) ≠ [] → ∃ code, (code = 0 ∨ code = 4 ∨ code = 5) ∧
            EndsWith (.importHandle fn) s fn code (KeptWork s))) ∧
        (bits (sget 0 s.links.peerSlot k) 63 62 = 0 → hMod h = s.ownModule →
          (exST w0 ≠ 1 ∨ sget 0 s.links.serial (hIdx h) ≠ hSer h → EndsWith (.importHandle fn) s fn 4 (KeptWork s)) ∧
          (exST w0 = 1 → sget 0 s.links.serial (hIdx h) = hSer h → bits w0 47 32 ≠ hChk h →
            EndsWith (.importHandle fn) s fn 4 fun t => KeptWork s t ∧
              bits (t.exportWord (hIdx h) 0) 63 60 = min 15 (bits w0 63 60 + 1) ∧
              exST (t.exportWord (hIdx h) 0) = if 14 ≤ bits w0 63 60 then 2 else 1) ∧
          (exST w0 = 1 → sget 0 s.links.serial (hIdx h) = hSer h → bits w0 47 32 = hChk h →
            (s.allowed (s.exportWord (hIdx h) 3) (s.partOf (s.targetVf fn)) = false →
              EndsWith (.importHandle fn) s fn 5 (KeptWork s)) ∧
            (s.allowed (s.exportWord (hIdx h) 3) (s.partOf (s.targetVf fn)) = true →
              EndsWith (.importHandle fn) s fn 0 fun t => KeptWork s t ∧ sget 0 t.links.peerHandle k = h ∧
                bits (sget 0 t.links.peerSlot k) 63 62 = 1 ∧
                bits (sget 0 t.links.peerSlot k) 40 0 = bits (s.exportWord (hIdx h) 2) 40 0 ∧
                bits (sget 0 t.links.peerSlot k) 61 59 = bits (s.cmdWord fn 2) 18 16 &&& bits w0 59 57)))) ∧
    (UnderWay s fn 0x12 true [0, 0xFF1F] → (s.slotArg fn = none → EndsWith (.unimport fn) s fn 0x12 (KeptWork s)) ∧
      ∀ k, s.slotArg fn = some k → s.underWay (sget 0 s.links.peerHandle k) (· == k / 256) = false →
        EndsWith (.unimport fn) s fn 0 fun t => KeptWork s t ∧ sget 0 t.links.peerSlot k = 0) ∧
    (UnderWay s fn 0x12 true [0, 0xFF1F] → ∀ k, s.slotArg fn = some k →
      s.underWay (sget 0 s.links.peerHandle k) (· == k / 256) = true → Leads (.unimport fn) s fun t => KeptWork s t ∧
        t.cmdBusy fn = true ∧ t.links = s.links) ∧
    (UnderWay s fn 0x13 true [anyArg] → let h := s.cmdWord fn 1
      let w0 := s.exportWord (hIdx h) 0
      let names := hMod h = s.ownModule ∧ exST w0 ≠ 0 ∧ sget 0 s.links.serial (hIdx h) = hSer h ∧ bits w0 47 32 = hChk h ∧
        s.vfHolds (s.targetVf fn) (exASID w0) = true
      (¬names → EndsWith (.revoke fn) s fn 4 (KeptWork s)) ∧
      (names → (s.underWay h (fun _ => true) = true ∨ s.peerHeld h = true) → Leads (.revoke fn) s fun t => KeptWork s t ∧
        t.cmdBusy fn = true ∧ exST (t.exportWord (hIdx h) 0) = 2) ∧
      (names → s.underWay h (fun _ => true) = false → s.peerHeld h = false → EndsWith (.revoke fn) s fn 0 fun t => KeptWork s t ∧
        (∀ c ∈ t.links.copies, c.2.2 ≠ hIdx h) ∧ h ∈ t.links.revoked ∧
        exST (t.exportWord (hIdx h) 0) = 0 ∧ sget 0 t.links.serial (hIdx h) = (hSer h + 1) % 2 ^ 21 ∧
        ∀ k ∈ s.importers (hIdx h), bits (sget 0 t.links.peerSlot k) 63 62 = 2)) ∧
    (UnderWay s fn 0x14 true [0xFFFFFFFF00000FFF] → let vf := s.targetVf fn
      let slot := bits (s.cmdWord fn 1) 11 0
      let used := fun (t : State) => KeptWork s t ∧ sget {} t.iso.session vf = {}
      (s.ownsSlot vf slot = false → EndsWith (.keyload fn) s fn 2 used) ∧
      (s.ownsSlot vf slot = true → bits (sget 0 s.iso.key slot) 63 62 ≠ 0 → EndsWith (.keyload fn) s fn 3 used) ∧
      (s.ownsSlot vf slot = true → bits (sget 0 s.iso.key slot) 63 62 = 0 →
        (s.freshSession vf = false → EndsWith (.keyload fn) s fn 4 used) ∧
        (s.freshSession vf = true → match (sget {} s.iso.session vf).unwrap (s.mailboxBytes vf 0 0x88) with
          | none => EndsWith (.keyload fn) s fn 1 used
          | some k => (k.1 = k.2 → EndsWith (.keyload fn) s fn 5 used) ∧
            (k.1 ≠ k.2 → EndsWith (.keyload fn) s fn 0 fun t => used t ∧ bits (sget 0 t.iso.key slot) 63 62 = 1 ∧
              bits (sget 0 t.iso.key slot) 47 16 = bits (s.cmdWord fn 1) 63 32 ∧ sget (0, 0) t.iso.keyBits slot = k)))) ∧
    (UnderWay s fn 0x15 true [0xFFF] → (s.ownsSlot (s.targetVf fn) (s.arg fn 1) = false → EndsWith (.keyerase fn) s fn 2 (KeptWork s)) ∧
      (s.ownsSlot (s.targetVf fn) (s.arg fn 1) = true → EndsWith (.keyerase fn) s fn 0 fun t => t.grp = s.grp ∧ t.blk = s.blk ∧
        t.blocks = s.blocks ∧ (∀ pa, t.homeByte pa = s.homeByte pa) ∧
        sget 0 t.iso.key (s.arg fn 1) = 0 ∧ sget (0, 0) t.iso.keyBits (s.arg fn 1) = (0, 0))) ∧
    (UnderWay s fn 0x16 true [] → let vf := s.targetVf fn
      EndsWith (.attest fn) s fn 0 fun t => KeptWork s t ∧ sget {} t.iso.session vf = ⟨s.mgmt.ns + 1, s.tick, s.mailboxBytes vf 0 32⟩ ∧
        (∀ j < (s.attestReport vf).length,
          sget 0 t.mgmt.mailbox (4096 * vf + 0x100 + j) = (s.attestReport vf).getD j 0) ∧
        t.mailboxBytes vf 0x108 32 = s.mailboxBytes vf 0 32 ∧
        ∀ j < 4, sget 0 t.mgmt.mailbox (4096 * vf + 0x104 + j) =
          BitVec.ofNat 8 ((s.partOf vf + vf * 2 ^ 16) / 256 ^ j)) ∧
    (UnderWay s fn 0x18 true [0xFFFF] → (s.contextArg fn = none → EndsWith (.preempt fn) s fn 0x12 (KeptWork s)) ∧
      ∀ a, s.contextArg fn = some a → (s.isSaved a = true → EndsWith (.preempt fn) s fn 0 (KeptWork s)) ∧
        (s.isSaved a = false → (∀ x ∈ s.mgmt.removing, x.1 ≠ a) → (∀ x ∈ s.mgmt.preempt, x.1 ≠ a) → s.unsaved a ≠ [] →
          (∀ bg ∈ s.allGroups, bg.1.asid = a → bg.2.parked = false) → Leads (.preempt fn) s fun t => KeptWork s t ∧
            t.cmdBusy fn = true ∧ t.mgmt.preempt = s.mgmt.preempt ++ [(a, 0x0E)])) ∧
    (UnderWay s fn 0x19 true [0xFFFF] → (s.contextArg fn = none → EndsWith (.restore fn) s fn 0x12 (KeptWork s)) ∧
      ∀ a, s.contextArg fn = some a → (s.validImage a = none → EndsWith (.restore fn) s fn 0x12 (KeptWork s)) ∧
        ∀ v bs, s.validImage a = some (v, bs) → let put := State.placeAll a 0 [] (reloadBlocks s v.blocks (bs.drop 64)) (s.noteImage v)
          (put = none → Leads (.restore fn) s fun t => KeptWork s t ∧ t.cmdBusy fn = true ∧ t.isSaved a = true) ∧
          ∀ t', put = some t' → EndsWith (.restore fn) s fn 0 fun t => t.isSaved a = false ∧ t.blocks = t'.blocks ∧
            (∀ pa cp, t.byteAt (pa, cp) = s.byteAt (pa, cp)) ∧
            sget 0 t.iso.restores a = (sget 0 s.iso.restores a + 1) % 2 ^ 32) ∧
    (UnderWay s fn 0x1A true [0xFFFF] → (s.contextArg fn = none → EndsWith (.remove fn) s fn 0x12 (KeptWork s)) ∧
      ∀ a, s.contextArg fn = some a → (∀ x ∈ s.mgmt.removing, x.1 ≠ a) →
        ((s.mgmt.running.head?).any (·.begun) = false → Leads (.remove fn) s fun t => KeptWork s t ∧ t.cmdRuns fn = true ∧
          (t.mgmt.running.head?).any (·.begun) = true ∧
          t.mgmt.removing = s.mgmt.removing ++ [(a, 0x11, 0)]) ∧
        ((s.mgmt.running.head?).any (·.begun) = true → EndsWith (.remove fn) s fn 0 (KeptWork s))) ∧
    (UnderWay s fn 0x1B true [anyArg, anyArg, 1] →
      let bs := s.census (if s.arg fn 3 == 0 then none else some (s.targetVf fn))
      let n := bs.length
      (s.arg fn 3 = 0 → fn ≠ physicalFn → EndsWith (.census fn) s fn 0xFD (KeptWork s)) ∧
      ((s.arg fn 3 ≠ 0 ∨ fn = physicalFn) → (s.arg fn 2 < n → EndsWith (.census fn) s fn 0x13 fun t => KeptWork s t ∧
          t.blockWord fn 7 = BitVec.ofNat 64 n) ∧
        (n ≤ s.arg fn 2 → fn ≠ physicalFn → s.hostWritable fn (s.arg fn 1) n = false →
          EndsWith (.census fn) s fn 0x11 (KeptWork s)) ∧
        (n ≤ s.arg fn 2 → s.arg fn 1 + n ≤ 2 ^ 50 → (fn = physicalFn ∨ s.hostWritable fn (s.arg fn 1) n = true) →
          (∀ j < n, s.lineHeld none false ((2 ^ 50 + s.arg fn 1 + j) / 64) = false) →
          EndsWith (.census fn) s fn 0 fun t => t.blockWord fn 7 = BitVec.ofNat 64 n ∧
            Written s t (2 ^ 50 + s.arg fn 1) bs)))

end
end

