-- ==== Sys2Proof/Laws/Maps.lean ====
section
/-! SUPPORT. The laws of finite maps: a read after a write, and that a write keeps the one form of a map. -/

namespace Sys2Proof.Machine

variable {α : Type} (dflt : α)

/-! ## Reads after writes -/

@[simp] theorem sget_nil (n : Nat) : sget dflt [] n = dflt := rfl

theorem sget_cons (k : Nat) (v : α) (r : Sparse α) (n : Nat) :
    sget dflt ((k, v) :: r) n = if n = k then v else sget dflt r n := rfl

theorem sget_sput (n : Nat) (v : α) (m : Sparse α) (k : Nat) :
    sget dflt (sput n v m) k = if k = n then v else sget dflt m k := by
  induction m with
  | nil => simp [sput, sget]
  | cons e r ih =>
    obtain ⟨a, u⟩ := e
    unfold sput
    split
    · simp [sget]
    · split
      · subst_vars; simp only [sget]; split <;> rfl
      · simp only [sget, ih]; split <;> split <;> simp_all

theorem sget_serase (m : Sparse α) (n k : Nat) :
    sget dflt (serase m n) k = if k = n then dflt else sget dflt m k := by
  induction m with
  | nil => simp [serase, sget]
  | cons e r ih =>
    obtain ⟨a, u⟩ := e
    unfold serase at ih ⊢
    by_cases h : a = n
    · subst h; simp only [List.filter, bne_self_eq_false, ih, sget]; split <;> simp_all
    · rw [List.filter_cons_of_pos (by simp [h])]
      simp only [sget, ih]
      split <;> split <;> simp_all

/-- A read after a write of a map. -/
theorem sget_sset [DecidableEq α] (m : Sparse α) (n : Nat) (v : α) (k : Nat) :
    sget dflt (sset dflt m n v) k = if k = n then v else sget dflt m k := by
  unfold sset
  split
  · subst_vars; exact sget_serase _ m n k
  · exact sget_sput dflt n v m k

@[simp] theorem sget_sset_self [DecidableEq α] (m : Sparse α) (n : Nat) (v : α) :
    sget dflt (sset dflt m n v) n = v := by simp [sget_sset]

theorem sget_sset_ne [DecidableEq α] (m : Sparse α) {n k : Nat} (v : α) (h : k ≠ n) :
    sget dflt (sset dflt m n v) k = sget dflt m k := by simp [sget_sset, h]

/-! ## The one form of a map -/

theorem mem_sput {n : Nat} {v : α} {m : Sparse α} {e : Nat × α} (h : e ∈ sput n v m) : e = (n, v) ∨ e ∈ m := by
  induction m with
  | nil => simpa [sput] using h
  | cons a r ih =>
    obtain ⟨k, u⟩ := a
    unfold sput at h
    split at h
    · rcases List.mem_cons.1 h with h | h
      · exact .inl h
      · exact .inr h
    · split at h
      · rcases List.mem_cons.1 h with h | h
        · exact .inl h
        · exact .inr (List.mem_cons_of_mem _ h)
      · rcases List.mem_cons.1 h with h | h
        · exact .inr (h ▸ List.mem_cons_self ..)
        · rcases ih h with h | h
          · exact .inl h
          · exact .inr (List.mem_cons_of_mem _ h)

theorem pairwise_sput {n : Nat} {v : α} {m : Sparse α} (h : m.Pairwise (fun a b => a.1 < b.1)) :
    (sput n v m).Pairwise (fun a b => a.1 < b.1) := by
  induction m with
  | nil => simp [sput]
  | cons a r ih =>
    obtain ⟨k, u⟩ := a
    rw [List.pairwise_cons] at h
    unfold sput
    split
    · rename_i hlt
      refine List.pairwise_cons.2 ⟨?_, List.pairwise_cons.2 h⟩
      intro e he
      rcases List.mem_cons.1 he with rfl | he
      · exact hlt
      · exact hlt.trans (h.1 e he)
    · split
      · subst_vars; exact List.pairwise_cons.2 h
      · refine List.pairwise_cons.2 ⟨?_, ih h.2⟩
        intro e he
        rcases mem_sput he with rfl | he
        · simp only; omega
        · exact h.1 e he

/-- A write keeps the one form of a map. -/
theorem canonical_sset [DecidableEq α] {dflt : α} {m : Sparse α} (h : Canonical dflt m) (n : Nat) (v : α) :
    Canonical dflt (sset dflt m n v) := by
  unfold Machine.sset
  split
  · exact ⟨h.1.filter _, fun e he => h.2 e (List.mem_of_mem_filter he)⟩
  · rename_i hv
    refine ⟨pairwise_sput h.1, fun e he => ?_⟩
    rcases mem_sput he with rfl | he
    · exact hv
    · exact h.2 e he

/-- So do any number of writes. -/
theorem canonical_foldl_sset [DecidableEq α] {β : Type} {dflt : α} (key : β → Nat) (val : β → α) :
    ∀ (l : List β) {m : Sparse α}, Canonical dflt m →
      Canonical dflt (l.foldl (fun m x => Machine.sset dflt m (key x) (val x)) m)
  | [], _, h => h
  | x :: r, _, h => canonical_foldl_sset key val r (canonical_sset h (key x) (val x))

theorem canonical_filter [DecidableEq α] {dflt : α} {m : Sparse α} (h : Canonical dflt m) (p : Nat × α → Bool) :
    Canonical dflt (m.filter p) :=
  ⟨h.1.sublist List.filter_sublist, fun e he => h.2 e (List.mem_filter.1 he).1⟩

theorem canonical_nil [DecidableEq α] {dflt : α} : Canonical dflt ([] : Sparse α) := ⟨.nil, by simp⟩

end Sys2Proof.Machine
end

