-- ==== Sys2Proof/Laws/State.lean ====
section
/-! SUPPORT. What each update of the state leaves as it was, field by field. -/

namespace Sys2Proof.Machine

/-! ## `State.setSpl` -/

@[simp] theorem State.setSpl_agenda (s : State) (p : Split) : (s.setSpl p).agenda = s.agenda := rfl
@[simp] theorem State.setSpl_turn (s : State) (p : Split) : (s.setSpl p).turn = s.turn := rfl
@[simp] theorem State.setSpl_tick (s : State) (p : Split) : (s.setSpl p).tick = s.tick := rfl
@[simp] theorem State.setSpl_blk (s : State) (p : Split) : (s.setSpl p).blk = s.blk := rfl
@[simp] theorem State.setSpl_cur (s : State) (p : Split) : (s.setSpl p).cur = s.cur := rfl
@[simp] theorem State.setSpl_blocks (s : State) (p : Split) : (s.setSpl p).blocks = s.blocks := rfl
@[simp] theorem State.setSpl_mem (s : State) (p : Split) : (s.setSpl p).mem = s.mem := rfl
@[simp] theorem State.setSpl_cores (s : State) (p : Split) : (s.setSpl p).cores = s.cores := rfl
@[simp] theorem State.setSpl_hub (s : State) (p : Split) : (s.setSpl p).hub = s.hub := rfl
@[simp] theorem State.setSpl_iso (s : State) (p : Split) : (s.setSpl p).iso = s.iso := rfl
@[simp] theorem State.setSpl_links (s : State) (p : Split) : (s.setSpl p).links = s.links := rfl
@[simp] theorem State.setSpl_mgmt (s : State) (p : Split) : (s.setSpl p).mgmt = s.mgmt := rfl
@[simp] theorem State.setSpl_grp_idx (s : State) (p : Split) : (s.setSpl p).grp.idx = s.grp.idx := rfl
@[simp] theorem State.setSpl_grp_slot (s : State) (p : Split) : (s.setSpl p).grp.slot = s.grp.slot := rfl
@[simp] theorem State.setSpl_grp_regs (s : State) (p : Split) : (s.setSpl p).grp.regs = s.grp.regs := rfl
@[simp] theorem State.setSpl_grp_sp (s : State) (p : Split) : (s.setSpl p).grp.sp = s.grp.sp := rfl
@[simp] theorem State.setSpl_grp_fl (s : State) (p : Split) : (s.setSpl p).grp.fl = s.grp.fl := rfl
@[simp] theorem State.setSpl_grp_ts (s : State) (p : Split) : (s.setSpl p).grp.ts = s.grp.ts := rfl
@[simp] theorem State.setSpl_grp_gs (s : State) (p : Split) : (s.setSpl p).grp.gs = s.grp.gs := rfl
@[simp] theorem State.setSpl_grp_futures (s : State) (p : Split) : (s.setSpl p).grp.futures = s.grp.futures := rfl
@[simp] theorem State.setSpl_grp_lr (s : State) (p : Split) : (s.setSpl p).grp.lr = s.grp.lr := rfl
@[simp] theorem State.setSpl_grp_region (s : State) (p : Split) : (s.setSpl p).grp.region = s.grp.region := rfl
@[simp] theorem State.setSpl_grp_trap (s : State) (p : Split) : (s.setSpl p).grp.trap = s.grp.trap := rfl
@[simp] theorem State.setSpl_grp_ldone (s : State) (p : Split) : (s.setSpl p).grp.ldone = s.grp.ldone := rfl
@[simp] theorem State.setSpl_grp_hscr (s : State) (p : Split) : (s.setSpl p).grp.hscr = s.grp.hscr := rfl
@[simp] theorem State.setSpl_grp_handler (s : State) (p : Split) : (s.setSpl p).grp.handler = s.grp.handler := rfl
@[simp] theorem State.setSpl_grp_arrived (s : State) (p : Split) : (s.setSpl p).grp.arrived = s.grp.arrived := rfl
@[simp] theorem State.setSpl_grp_waitCount (s : State) (p : Split) : (s.setSpl p).grp.waitCount = s.grp.waitCount := rfl
@[simp] theorem State.setSpl_grp_ended (s : State) (p : Split) : (s.setSpl p).grp.ended = s.grp.ended := rfl
@[simp] theorem State.setSpl_grp_saved (s : State) (p : Split) : (s.setSpl p).grp.saved = s.grp.saved := rfl

/-! ## `State.setReg` -/

@[simp] theorem State.setReg_agenda (s : State) (r i : Nat) (v : Word) : (s.setReg r i v).agenda = s.agenda := rfl
@[simp] theorem State.setReg_turn (s : State) (r i : Nat) (v : Word) : (s.setReg r i v).turn = s.turn := rfl
@[simp] theorem State.setReg_tick (s : State) (r i : Nat) (v : Word) : (s.setReg r i v).tick = s.tick := rfl
@[simp] theorem State.setReg_blk (s : State) (r i : Nat) (v : Word) : (s.setReg r i v).blk = s.blk := rfl
@[simp] theorem State.setReg_cur (s : State) (r i : Nat) (v : Word) : (s.setReg r i v).cur = s.cur := rfl
@[simp] theorem State.setReg_blocks (s : State) (r i : Nat) (v : Word) : (s.setReg r i v).blocks = s.blocks := rfl
@[simp] theorem State.setReg_mem (s : State) (r i : Nat) (v : Word) : (s.setReg r i v).mem = s.mem := rfl
@[simp] theorem State.setReg_cores (s : State) (r i : Nat) (v : Word) : (s.setReg r i v).cores = s.cores := rfl
@[simp] theorem State.setReg_hub (s : State) (r i : Nat) (v : Word) : (s.setReg r i v).hub = s.hub := rfl
@[simp] theorem State.setReg_iso (s : State) (r i : Nat) (v : Word) : (s.setReg r i v).iso = s.iso := rfl
@[simp] theorem State.setReg_links (s : State) (r i : Nat) (v : Word) : (s.setReg r i v).links = s.links := rfl
@[simp] theorem State.setReg_mgmt (s : State) (r i : Nat) (v : Word) : (s.setReg r i v).mgmt = s.mgmt := rfl
@[simp] theorem State.setReg_grp_idx (s : State) (r i : Nat) (v : Word) : (s.setReg r i v).grp.idx = s.grp.idx := rfl
@[simp] theorem State.setReg_grp_slot (s : State) (r i : Nat) (v : Word) : (s.setReg r i v).grp.slot = s.grp.slot := rfl
@[simp] theorem State.setReg_grp_splits (s : State) (r i : Nat) (v : Word) : (s.setReg r i v).grp.splits = s.grp.splits := rfl
@[simp] theorem State.setReg_grp_sp (s : State) (r i : Nat) (v : Word) : (s.setReg r i v).grp.sp = s.grp.sp := rfl
@[simp] theorem State.setReg_grp_fl (s : State) (r i : Nat) (v : Word) : (s.setReg r i v).grp.fl = s.grp.fl := rfl
@[simp] theorem State.setReg_grp_ts (s : State) (r i : Nat) (v : Word) : (s.setReg r i v).grp.ts = s.grp.ts := rfl
@[simp] theorem State.setReg_grp_gs (s : State) (r i : Nat) (v : Word) : (s.setReg r i v).grp.gs = s.grp.gs := rfl
@[simp] theorem State.setReg_grp_futures (s : State) (r i : Nat) (v : Word) : (s.setReg r i v).grp.futures = s.grp.futures := rfl
@[simp] theorem State.setReg_grp_lr (s : State) (r i : Nat) (v : Word) : (s.setReg r i v).grp.lr = s.grp.lr := rfl
@[simp] theorem State.setReg_grp_region (s : State) (r i : Nat) (v : Word) : (s.setReg r i v).grp.region = s.grp.region := rfl
@[simp] theorem State.setReg_grp_trap (s : State) (r i : Nat) (v : Word) : (s.setReg r i v).grp.trap = s.grp.trap := rfl
@[simp] theorem State.setReg_grp_ldone (s : State) (r i : Nat) (v : Word) : (s.setReg r i v).grp.ldone = s.grp.ldone := rfl
@[simp] theorem State.setReg_grp_hscr (s : State) (r i : Nat) (v : Word) : (s.setReg r i v).grp.hscr = s.grp.hscr := rfl
@[simp] theorem State.setReg_grp_handler (s : State) (r i : Nat) (v : Word) : (s.setReg r i v).grp.handler = s.grp.handler := rfl
@[simp] theorem State.setReg_grp_arrived (s : State) (r i : Nat) (v : Word) : (s.setReg r i v).grp.arrived = s.grp.arrived := rfl
@[simp] theorem State.setReg_grp_waitCount (s : State) (r i : Nat) (v : Word) : (s.setReg r i v).grp.waitCount = s.grp.waitCount := rfl
@[simp] theorem State.setReg_grp_ended (s : State) (r i : Nat) (v : Word) : (s.setReg r i v).grp.ended = s.grp.ended := rfl
@[simp] theorem State.setReg_grp_saved (s : State) (r i : Nat) (v : Word) : (s.setReg r i v).grp.saved = s.grp.saved := rfl

/-! ## `State.setPair` -/

@[simp] theorem State.setPair_agenda (s : State) (r i : Nat) (v : DWord) : (s.setPair r i v).agenda = s.agenda := rfl
@[simp] theorem State.setPair_turn (s : State) (r i : Nat) (v : DWord) : (s.setPair r i v).turn = s.turn := rfl
@[simp] theorem State.setPair_tick (s : State) (r i : Nat) (v : DWord) : (s.setPair r i v).tick = s.tick := rfl
@[simp] theorem State.setPair_blk (s : State) (r i : Nat) (v : DWord) : (s.setPair r i v).blk = s.blk := rfl
@[simp] theorem State.setPair_cur (s : State) (r i : Nat) (v : DWord) : (s.setPair r i v).cur = s.cur := rfl
@[simp] theorem State.setPair_blocks (s : State) (r i : Nat) (v : DWord) : (s.setPair r i v).blocks = s.blocks := rfl
@[simp] theorem State.setPair_mem (s : State) (r i : Nat) (v : DWord) : (s.setPair r i v).mem = s.mem := rfl
@[simp] theorem State.setPair_cores (s : State) (r i : Nat) (v : DWord) : (s.setPair r i v).cores = s.cores := rfl
@[simp] theorem State.setPair_hub (s : State) (r i : Nat) (v : DWord) : (s.setPair r i v).hub = s.hub := rfl
@[simp] theorem State.setPair_iso (s : State) (r i : Nat) (v : DWord) : (s.setPair r i v).iso = s.iso := rfl
@[simp] theorem State.setPair_links (s : State) (r i : Nat) (v : DWord) : (s.setPair r i v).links = s.links := rfl
@[simp] theorem State.setPair_mgmt (s : State) (r i : Nat) (v : DWord) : (s.setPair r i v).mgmt = s.mgmt := rfl
@[simp] theorem State.setPair_grp_idx (s : State) (r i : Nat) (v : DWord) : (s.setPair r i v).grp.idx = s.grp.idx := rfl
@[simp] theorem State.setPair_grp_slot (s : State) (r i : Nat) (v : DWord) : (s.setPair r i v).grp.slot = s.grp.slot := rfl
@[simp] theorem State.setPair_grp_splits (s : State) (r i : Nat) (v : DWord) : (s.setPair r i v).grp.splits = s.grp.splits := rfl
@[simp] theorem State.setPair_grp_sp (s : State) (r i : Nat) (v : DWord) : (s.setPair r i v).grp.sp = s.grp.sp := rfl
@[simp] theorem State.setPair_grp_fl (s : State) (r i : Nat) (v : DWord) : (s.setPair r i v).grp.fl = s.grp.fl := rfl
@[simp] theorem State.setPair_grp_ts (s : State) (r i : Nat) (v : DWord) : (s.setPair r i v).grp.ts = s.grp.ts := rfl
@[simp] theorem State.setPair_grp_gs (s : State) (r i : Nat) (v : DWord) : (s.setPair r i v).grp.gs = s.grp.gs := rfl
@[simp] theorem State.setPair_grp_futures (s : State) (r i : Nat) (v : DWord) : (s.setPair r i v).grp.futures = s.grp.futures := rfl
@[simp] theorem State.setPair_grp_lr (s : State) (r i : Nat) (v : DWord) : (s.setPair r i v).grp.lr = s.grp.lr := rfl
@[simp] theorem State.setPair_grp_region (s : State) (r i : Nat) (v : DWord) : (s.setPair r i v).grp.region = s.grp.region := rfl
@[simp] theorem State.setPair_grp_trap (s : State) (r i : Nat) (v : DWord) : (s.setPair r i v).grp.trap = s.grp.trap := rfl
@[simp] theorem State.setPair_grp_ldone (s : State) (r i : Nat) (v : DWord) : (s.setPair r i v).grp.ldone = s.grp.ldone := rfl
@[simp] theorem State.setPair_grp_hscr (s : State) (r i : Nat) (v : DWord) : (s.setPair r i v).grp.hscr = s.grp.hscr := rfl
@[simp] theorem State.setPair_grp_handler (s : State) (r i : Nat) (v : DWord) : (s.setPair r i v).grp.handler = s.grp.handler := rfl
@[simp] theorem State.setPair_grp_arrived (s : State) (r i : Nat) (v : DWord) : (s.setPair r i v).grp.arrived = s.grp.arrived := rfl
@[simp] theorem State.setPair_grp_waitCount (s : State) (r i : Nat) (v : DWord) : (s.setPair r i v).grp.waitCount = s.grp.waitCount := rfl
@[simp] theorem State.setPair_grp_ended (s : State) (r i : Nat) (v : DWord) : (s.setPair r i v).grp.ended = s.grp.ended := rfl
@[simp] theorem State.setPair_grp_saved (s : State) (r i : Nat) (v : DWord) : (s.setPair r i v).grp.saved = s.grp.saved := rfl

/-! ## `State.setGm` -/

@[simp] theorem State.setGm_agenda (s : State) (g : DWord) : (s.setGm g).agenda = s.agenda := rfl
@[simp] theorem State.setGm_turn (s : State) (g : DWord) : (s.setGm g).turn = s.turn := rfl
@[simp] theorem State.setGm_tick (s : State) (g : DWord) : (s.setGm g).tick = s.tick := rfl
@[simp] theorem State.setGm_blk (s : State) (g : DWord) : (s.setGm g).blk = s.blk := rfl
@[simp] theorem State.setGm_cur (s : State) (g : DWord) : (s.setGm g).cur = s.cur := rfl
@[simp] theorem State.setGm_blocks (s : State) (g : DWord) : (s.setGm g).blocks = s.blocks := rfl
@[simp] theorem State.setGm_mem (s : State) (g : DWord) : (s.setGm g).mem = s.mem := rfl
@[simp] theorem State.setGm_cores (s : State) (g : DWord) : (s.setGm g).cores = s.cores := rfl
@[simp] theorem State.setGm_hub (s : State) (g : DWord) : (s.setGm g).hub = s.hub := rfl
@[simp] theorem State.setGm_iso (s : State) (g : DWord) : (s.setGm g).iso = s.iso := rfl
@[simp] theorem State.setGm_links (s : State) (g : DWord) : (s.setGm g).links = s.links := rfl
@[simp] theorem State.setGm_mgmt (s : State) (g : DWord) : (s.setGm g).mgmt = s.mgmt := rfl
@[simp] theorem State.setGm_grp_idx (s : State) (g : DWord) : (s.setGm g).grp.idx = s.grp.idx := rfl
@[simp] theorem State.setGm_grp_slot (s : State) (g : DWord) : (s.setGm g).grp.slot = s.grp.slot := rfl
@[simp] theorem State.setGm_grp_regs (s : State) (g : DWord) : (s.setGm g).grp.regs = s.grp.regs := rfl
@[simp] theorem State.setGm_grp_sp (s : State) (g : DWord) : (s.setGm g).grp.sp = s.grp.sp := rfl
@[simp] theorem State.setGm_grp_fl (s : State) (g : DWord) : (s.setGm g).grp.fl = s.grp.fl := rfl
@[simp] theorem State.setGm_grp_ts (s : State) (g : DWord) : (s.setGm g).grp.ts = s.grp.ts := rfl
@[simp] theorem State.setGm_grp_gs (s : State) (g : DWord) : (s.setGm g).grp.gs = s.grp.gs := rfl
@[simp] theorem State.setGm_grp_futures (s : State) (g : DWord) : (s.setGm g).grp.futures = s.grp.futures := rfl
@[simp] theorem State.setGm_grp_lr (s : State) (g : DWord) : (s.setGm g).grp.lr = s.grp.lr := rfl
@[simp] theorem State.setGm_grp_region (s : State) (g : DWord) : (s.setGm g).grp.region = s.grp.region := rfl
@[simp] theorem State.setGm_grp_trap (s : State) (g : DWord) : (s.setGm g).grp.trap = s.grp.trap := rfl
@[simp] theorem State.setGm_grp_ldone (s : State) (g : DWord) : (s.setGm g).grp.ldone = s.grp.ldone := rfl
@[simp] theorem State.setGm_grp_hscr (s : State) (g : DWord) : (s.setGm g).grp.hscr = s.grp.hscr := rfl
@[simp] theorem State.setGm_grp_handler (s : State) (g : DWord) : (s.setGm g).grp.handler = s.grp.handler := rfl
@[simp] theorem State.setGm_grp_arrived (s : State) (g : DWord) : (s.setGm g).grp.arrived = s.grp.arrived := rfl
@[simp] theorem State.setGm_grp_waitCount (s : State) (g : DWord) : (s.setGm g).grp.waitCount = s.grp.waitCount := rfl
@[simp] theorem State.setGm_grp_ended (s : State) (g : DWord) : (s.setGm g).grp.ended = s.grp.ended := rfl
@[simp] theorem State.setGm_grp_saved (s : State) (g : DWord) : (s.setGm g).grp.saved = s.grp.saved := rfl

/-! ## `State.setCtl` -/

@[simp] theorem State.setCtl_agenda (s : State) (d : Reg) (v : Word) : (s.setCtl d v).agenda = s.agenda := rfl
@[simp] theorem State.setCtl_turn (s : State) (d : Reg) (v : Word) : (s.setCtl d v).turn = s.turn := rfl
@[simp] theorem State.setCtl_tick (s : State) (d : Reg) (v : Word) : (s.setCtl d v).tick = s.tick := rfl
@[simp] theorem State.setCtl_blk (s : State) (d : Reg) (v : Word) : (s.setCtl d v).blk = s.blk := rfl
@[simp] theorem State.setCtl_cur (s : State) (d : Reg) (v : Word) : (s.setCtl d v).cur = s.cur := rfl
@[simp] theorem State.setCtl_blocks (s : State) (d : Reg) (v : Word) : (s.setCtl d v).blocks = s.blocks := rfl
@[simp] theorem State.setCtl_mem (s : State) (d : Reg) (v : Word) : (s.setCtl d v).mem = s.mem := rfl
@[simp] theorem State.setCtl_cores (s : State) (d : Reg) (v : Word) : (s.setCtl d v).cores = s.cores := rfl
@[simp] theorem State.setCtl_hub (s : State) (d : Reg) (v : Word) : (s.setCtl d v).hub = s.hub := rfl
@[simp] theorem State.setCtl_iso (s : State) (d : Reg) (v : Word) : (s.setCtl d v).iso = s.iso := rfl
@[simp] theorem State.setCtl_links (s : State) (d : Reg) (v : Word) : (s.setCtl d v).links = s.links := rfl
@[simp] theorem State.setCtl_mgmt (s : State) (d : Reg) (v : Word) : (s.setCtl d v).mgmt = s.mgmt := rfl
@[simp] theorem State.setCtl_grp_idx (s : State) (d : Reg) (v : Word) : (s.setCtl d v).grp.idx = s.grp.idx := rfl
@[simp] theorem State.setCtl_grp_slot (s : State) (d : Reg) (v : Word) : (s.setCtl d v).grp.slot = s.grp.slot := rfl
@[simp] theorem State.setCtl_grp_splits (s : State) (d : Reg) (v : Word) : (s.setCtl d v).grp.splits = s.grp.splits := rfl
@[simp] theorem State.setCtl_grp_sp (s : State) (d : Reg) (v : Word) : (s.setCtl d v).grp.sp = s.grp.sp := rfl
@[simp] theorem State.setCtl_grp_fl (s : State) (d : Reg) (v : Word) : (s.setCtl d v).grp.fl = s.grp.fl := rfl
@[simp] theorem State.setCtl_grp_ts (s : State) (d : Reg) (v : Word) : (s.setCtl d v).grp.ts = s.grp.ts := rfl
@[simp] theorem State.setCtl_grp_gs (s : State) (d : Reg) (v : Word) : (s.setCtl d v).grp.gs = s.grp.gs := rfl
@[simp] theorem State.setCtl_grp_futures (s : State) (d : Reg) (v : Word) : (s.setCtl d v).grp.futures = s.grp.futures := rfl
@[simp] theorem State.setCtl_grp_lr (s : State) (d : Reg) (v : Word) : (s.setCtl d v).grp.lr = s.grp.lr := rfl
@[simp] theorem State.setCtl_grp_region (s : State) (d : Reg) (v : Word) : (s.setCtl d v).grp.region = s.grp.region := rfl
@[simp] theorem State.setCtl_grp_trap (s : State) (d : Reg) (v : Word) : (s.setCtl d v).grp.trap = s.grp.trap := rfl
@[simp] theorem State.setCtl_grp_ldone (s : State) (d : Reg) (v : Word) : (s.setCtl d v).grp.ldone = s.grp.ldone := rfl
@[simp] theorem State.setCtl_grp_hscr (s : State) (d : Reg) (v : Word) : (s.setCtl d v).grp.hscr = s.grp.hscr := rfl
@[simp] theorem State.setCtl_grp_handler (s : State) (d : Reg) (v : Word) : (s.setCtl d v).grp.handler = s.grp.handler := rfl
@[simp] theorem State.setCtl_grp_arrived (s : State) (d : Reg) (v : Word) : (s.setCtl d v).grp.arrived = s.grp.arrived := rfl
@[simp] theorem State.setCtl_grp_waitCount (s : State) (d : Reg) (v : Word) : (s.setCtl d v).grp.waitCount = s.grp.waitCount := rfl
@[simp] theorem State.setCtl_grp_ended (s : State) (d : Reg) (v : Word) : (s.setCtl d v).grp.ended = s.grp.ended := rfl
@[simp] theorem State.setCtl_grp_saved (s : State) (d : Reg) (v : Word) : (s.setCtl d v).grp.saved = s.grp.saved := rfl

/-! ## `State.dropFuture` -/

@[simp] theorem State.dropFuture_agenda (s : State) (r : Nat) : (s.dropFuture r).agenda = s.agenda := rfl
@[simp] theorem State.dropFuture_turn (s : State) (r : Nat) : (s.dropFuture r).turn = s.turn := rfl
@[simp] theorem State.dropFuture_tick (s : State) (r : Nat) : (s.dropFuture r).tick = s.tick := rfl
@[simp] theorem State.dropFuture_blk (s : State) (r : Nat) : (s.dropFuture r).blk = s.blk := rfl
@[simp] theorem State.dropFuture_cur (s : State) (r : Nat) : (s.dropFuture r).cur = s.cur := rfl
@[simp] theorem State.dropFuture_blocks (s : State) (r : Nat) : (s.dropFuture r).blocks = s.blocks := rfl
@[simp] theorem State.dropFuture_mem (s : State) (r : Nat) : (s.dropFuture r).mem = s.mem := rfl
@[simp] theorem State.dropFuture_cores (s : State) (r : Nat) : (s.dropFuture r).cores = s.cores := rfl
@[simp] theorem State.dropFuture_hub (s : State) (r : Nat) : (s.dropFuture r).hub = s.hub := rfl
@[simp] theorem State.dropFuture_iso (s : State) (r : Nat) : (s.dropFuture r).iso = s.iso := rfl
@[simp] theorem State.dropFuture_links (s : State) (r : Nat) : (s.dropFuture r).links = s.links := rfl
@[simp] theorem State.dropFuture_mgmt (s : State) (r : Nat) : (s.dropFuture r).mgmt = s.mgmt := rfl
@[simp] theorem State.dropFuture_grp_idx (s : State) (r : Nat) : (s.dropFuture r).grp.idx = s.grp.idx := rfl
@[simp] theorem State.dropFuture_grp_slot (s : State) (r : Nat) : (s.dropFuture r).grp.slot = s.grp.slot := rfl
@[simp] theorem State.dropFuture_grp_regs (s : State) (r : Nat) : (s.dropFuture r).grp.regs = s.grp.regs := rfl
@[simp] theorem State.dropFuture_grp_splits (s : State) (r : Nat) : (s.dropFuture r).grp.splits = s.grp.splits := rfl
@[simp] theorem State.dropFuture_grp_sp (s : State) (r : Nat) : (s.dropFuture r).grp.sp = s.grp.sp := rfl
@[simp] theorem State.dropFuture_grp_fl (s : State) (r : Nat) : (s.dropFuture r).grp.fl = s.grp.fl := rfl
@[simp] theorem State.dropFuture_grp_ts (s : State) (r : Nat) : (s.dropFuture r).grp.ts = s.grp.ts := rfl
@[simp] theorem State.dropFuture_grp_gs (s : State) (r : Nat) : (s.dropFuture r).grp.gs = s.grp.gs := rfl
@[simp] theorem State.dropFuture_grp_lr (s : State) (r : Nat) : (s.dropFuture r).grp.lr = s.grp.lr := rfl
@[simp] theorem State.dropFuture_grp_region (s : State) (r : Nat) : (s.dropFuture r).grp.region = s.grp.region := rfl
@[simp] theorem State.dropFuture_grp_trap (s : State) (r : Nat) : (s.dropFuture r).grp.trap = s.grp.trap := rfl
@[simp] theorem State.dropFuture_grp_ldone (s : State) (r : Nat) : (s.dropFuture r).grp.ldone = s.grp.ldone := rfl
@[simp] theorem State.dropFuture_grp_hscr (s : State) (r : Nat) : (s.dropFuture r).grp.hscr = s.grp.hscr := rfl
@[simp] theorem State.dropFuture_grp_handler (s : State) (r : Nat) : (s.dropFuture r).grp.handler = s.grp.handler := rfl
@[simp] theorem State.dropFuture_grp_arrived (s : State) (r : Nat) : (s.dropFuture r).grp.arrived = s.grp.arrived := rfl
@[simp] theorem State.dropFuture_grp_waitCount (s : State) (r : Nat) : (s.dropFuture r).grp.waitCount = s.grp.waitCount := rfl
@[simp] theorem State.dropFuture_grp_ended (s : State) (r : Nat) : (s.dropFuture r).grp.ended = s.grp.ended := rfl
@[simp] theorem State.dropFuture_grp_saved (s : State) (r : Nat) : (s.dropFuture r).grp.saved = s.grp.saved := rfl

/-! ## `State.dropL1` -/

@[simp] theorem State.dropL1_agenda (s : State) (c : Nat) : (s.dropL1 c).agenda = s.agenda := rfl
@[simp] theorem State.dropL1_turn (s : State) (c : Nat) : (s.dropL1 c).turn = s.turn := rfl
@[simp] theorem State.dropL1_tick (s : State) (c : Nat) : (s.dropL1 c).tick = s.tick := rfl
@[simp] theorem State.dropL1_blk (s : State) (c : Nat) : (s.dropL1 c).blk = s.blk := rfl
@[simp] theorem State.dropL1_cur (s : State) (c : Nat) : (s.dropL1 c).cur = s.cur := rfl
@[simp] theorem State.dropL1_blocks (s : State) (c : Nat) : (s.dropL1 c).blocks = s.blocks := rfl
@[simp] theorem State.dropL1_cores (s : State) (c : Nat) : (s.dropL1 c).cores = s.cores := rfl
@[simp] theorem State.dropL1_hub (s : State) (c : Nat) : (s.dropL1 c).hub = s.hub := rfl
@[simp] theorem State.dropL1_iso (s : State) (c : Nat) : (s.dropL1 c).iso = s.iso := rfl
@[simp] theorem State.dropL1_links (s : State) (c : Nat) : (s.dropL1 c).links = s.links := rfl
@[simp] theorem State.dropL1_mgmt (s : State) (c : Nat) : (s.dropL1 c).mgmt = s.mgmt := rfl
@[simp] theorem State.dropL1_grp (s : State) (c : Nat) : (s.dropL1 c).grp = s.grp := rfl

/-! ## `State.pass` -/

@[simp] theorem State.pass_agenda (s : State) (die : Nat) : (s.pass die).agenda = s.agenda := rfl
@[simp] theorem State.pass_turn (s : State) (die : Nat) : (s.pass die).turn = s.turn := rfl
@[simp] theorem State.pass_blk (s : State) (die : Nat) : (s.pass die).blk = s.blk := rfl
@[simp] theorem State.pass_cur (s : State) (die : Nat) : (s.pass die).cur = s.cur := rfl
@[simp] theorem State.pass_blocks (s : State) (die : Nat) : (s.pass die).blocks = s.blocks := rfl
@[simp] theorem State.pass_mem (s : State) (die : Nat) : (s.pass die).mem = s.mem := rfl
@[simp] theorem State.pass_hub (s : State) (die : Nat) : (s.pass die).hub = s.hub := rfl
@[simp] theorem State.pass_iso (s : State) (die : Nat) : (s.pass die).iso = s.iso := rfl
@[simp] theorem State.pass_links (s : State) (die : Nat) : (s.pass die).links = s.links := rfl
@[simp] theorem State.pass_grp (s : State) (die : Nat) : (s.pass die).grp = s.grp := rfl

/-! ## `State.waitFor` -/

@[simp] theorem State.waitFor_agenda (s : State) (w : Wait) : (s.waitFor w).agenda = s.agenda := rfl
@[simp] theorem State.waitFor_tick (s : State) (w : Wait) : (s.waitFor w).tick = s.tick := rfl
@[simp] theorem State.waitFor_blk (s : State) (w : Wait) : (s.waitFor w).blk = s.blk := rfl
@[simp] theorem State.waitFor_cur (s : State) (w : Wait) : (s.waitFor w).cur = s.cur := rfl
@[simp] theorem State.waitFor_blocks (s : State) (w : Wait) : (s.waitFor w).blocks = s.blocks := rfl
@[simp] theorem State.waitFor_mem (s : State) (w : Wait) : (s.waitFor w).mem = s.mem := rfl
@[simp] theorem State.waitFor_cores (s : State) (w : Wait) : (s.waitFor w).cores = s.cores := rfl
@[simp] theorem State.waitFor_hub (s : State) (w : Wait) : (s.waitFor w).hub = s.hub := rfl
@[simp] theorem State.waitFor_iso (s : State) (w : Wait) : (s.waitFor w).iso = s.iso := rfl
@[simp] theorem State.waitFor_links (s : State) (w : Wait) : (s.waitFor w).links = s.links := rfl
@[simp] theorem State.waitFor_mgmt (s : State) (w : Wait) : (s.waitFor w).mgmt = s.mgmt := rfl
@[simp] theorem State.waitFor_grp_idx (s : State) (w : Wait) : (s.waitFor w).grp.idx = s.grp.idx := rfl
@[simp] theorem State.waitFor_grp_slot (s : State) (w : Wait) : (s.waitFor w).grp.slot = s.grp.slot := rfl
@[simp] theorem State.waitFor_grp_regs (s : State) (w : Wait) : (s.waitFor w).grp.regs = s.grp.regs := rfl
@[simp] theorem State.waitFor_grp_sp (s : State) (w : Wait) : (s.waitFor w).grp.sp = s.grp.sp := rfl
@[simp] theorem State.waitFor_grp_fl (s : State) (w : Wait) : (s.waitFor w).grp.fl = s.grp.fl := rfl
@[simp] theorem State.waitFor_grp_ts (s : State) (w : Wait) : (s.waitFor w).grp.ts = s.grp.ts := rfl
@[simp] theorem State.waitFor_grp_gs (s : State) (w : Wait) : (s.waitFor w).grp.gs = s.grp.gs := rfl
@[simp] theorem State.waitFor_grp_futures (s : State) (w : Wait) : (s.waitFor w).grp.futures = s.grp.futures := rfl
@[simp] theorem State.waitFor_grp_lr (s : State) (w : Wait) : (s.waitFor w).grp.lr = s.grp.lr := rfl
@[simp] theorem State.waitFor_grp_region (s : State) (w : Wait) : (s.waitFor w).grp.region = s.grp.region := rfl
@[simp] theorem State.waitFor_grp_trap (s : State) (w : Wait) : (s.waitFor w).grp.trap = s.grp.trap := rfl
@[simp] theorem State.waitFor_grp_ldone (s : State) (w : Wait) : (s.waitFor w).grp.ldone = s.grp.ldone := rfl
@[simp] theorem State.waitFor_grp_hscr (s : State) (w : Wait) : (s.waitFor w).grp.hscr = s.grp.hscr := rfl
@[simp] theorem State.waitFor_grp_handler (s : State) (w : Wait) : (s.waitFor w).grp.handler = s.grp.handler := rfl
@[simp] theorem State.waitFor_grp_arrived (s : State) (w : Wait) : (s.waitFor w).grp.arrived = s.grp.arrived := rfl
@[simp] theorem State.waitFor_grp_ended (s : State) (w : Wait) : (s.waitFor w).grp.ended = s.grp.ended := rfl
@[simp] theorem State.waitFor_grp_saved (s : State) (w : Wait) : (s.waitFor w).grp.saved = s.grp.saved := rfl

/-! ## `State.overwrite` -/

@[simp] theorem State.overwrite_agenda (s t : State) (i : Instr) : (s.overwrite i t).agenda = t.agenda := rfl
@[simp] theorem State.overwrite_turn (s t : State) (i : Instr) : (s.overwrite i t).turn = t.turn := rfl
@[simp] theorem State.overwrite_tick (s t : State) (i : Instr) : (s.overwrite i t).tick = t.tick := rfl
@[simp] theorem State.overwrite_blk (s t : State) (i : Instr) : (s.overwrite i t).blk = t.blk := rfl
@[simp] theorem State.overwrite_cur (s t : State) (i : Instr) : (s.overwrite i t).cur = t.cur := rfl
@[simp] theorem State.overwrite_blocks (s t : State) (i : Instr) : (s.overwrite i t).blocks = t.blocks := rfl
@[simp] theorem State.overwrite_cores (s t : State) (i : Instr) : (s.overwrite i t).cores = t.cores := rfl
@[simp] theorem State.overwrite_hub (s t : State) (i : Instr) : (s.overwrite i t).hub = t.hub := rfl
@[simp] theorem State.overwrite_iso (s t : State) (i : Instr) : (s.overwrite i t).iso = t.iso := rfl
@[simp] theorem State.overwrite_links (s t : State) (i : Instr) : (s.overwrite i t).links = t.links := rfl
@[simp] theorem State.overwrite_mgmt (s t : State) (i : Instr) : (s.overwrite i t).mgmt = t.mgmt := rfl
@[simp] theorem State.overwrite_grp_idx (s t : State) (i : Instr) : (s.overwrite i t).grp.idx = t.grp.idx := rfl
@[simp] theorem State.overwrite_grp_slot (s t : State) (i : Instr) : (s.overwrite i t).grp.slot = t.grp.slot := rfl
@[simp] theorem State.overwrite_grp_regs (s t : State) (i : Instr) : (s.overwrite i t).grp.regs = t.grp.regs := rfl
@[simp] theorem State.overwrite_grp_splits (s t : State) (i : Instr) : (s.overwrite i t).grp.splits = t.grp.splits := rfl
@[simp] theorem State.overwrite_grp_sp (s t : State) (i : Instr) : (s.overwrite i t).grp.sp = t.grp.sp := rfl
@[simp] theorem State.overwrite_grp_fl (s t : State) (i : Instr) : (s.overwrite i t).grp.fl = t.grp.fl := rfl
@[simp] theorem State.overwrite_grp_ts (s t : State) (i : Instr) : (s.overwrite i t).grp.ts = t.grp.ts := rfl
@[simp] theorem State.overwrite_grp_gs (s t : State) (i : Instr) : (s.overwrite i t).grp.gs = t.grp.gs := rfl
@[simp] theorem State.overwrite_grp_lr (s t : State) (i : Instr) : (s.overwrite i t).grp.lr = t.grp.lr := rfl
@[simp] theorem State.overwrite_grp_region (s t : State) (i : Instr) : (s.overwrite i t).grp.region = t.grp.region := rfl
@[simp] theorem State.overwrite_grp_trap (s t : State) (i : Instr) : (s.overwrite i t).grp.trap = t.grp.trap := rfl
@[simp] theorem State.overwrite_grp_ldone (s t : State) (i : Instr) : (s.overwrite i t).grp.ldone = t.grp.ldone := rfl
@[simp] theorem State.overwrite_grp_hscr (s t : State) (i : Instr) : (s.overwrite i t).grp.hscr = t.grp.hscr := rfl
@[simp] theorem State.overwrite_grp_handler (s t : State) (i : Instr) : (s.overwrite i t).grp.handler = t.grp.handler := rfl
@[simp] theorem State.overwrite_grp_arrived (s t : State) (i : Instr) : (s.overwrite i t).grp.arrived = t.grp.arrived := rfl
@[simp] theorem State.overwrite_grp_waitCount (s t : State) (i : Instr) : (s.overwrite i t).grp.waitCount = t.grp.waitCount := rfl
@[simp] theorem State.overwrite_grp_ended (s t : State) (i : Instr) : (s.overwrite i t).grp.ended = t.grp.ended := rfl
@[simp] theorem State.overwrite_grp_saved (s t : State) (i : Instr) : (s.overwrite i t).grp.saved = t.grp.saved := rfl
@[simp] theorem State.overwrite_bytes (s t : State) (i : Instr) : (s.overwrite i t).mem.bytes = t.mem.bytes := rfl
@[simp] theorem State.overwrite_lineKey (s t : State) (i : Instr) : (s.overwrite i t).mem.lineKey = t.mem.lineKey := rfl

/-! ## `State.closeWindows` -/

@[simp] theorem State.closeWindows_agenda (s : State) : s.closeWindows.agenda = s.agenda := by unfold State.closeWindows; dsimp only; split <;> rfl
@[simp] theorem State.closeWindows_turn (s : State) : s.closeWindows.turn = s.turn := by unfold State.closeWindows; dsimp only; split <;> rfl
@[simp] theorem State.closeWindows_tick (s : State) : s.closeWindows.tick = s.tick := by unfold State.closeWindows; dsimp only; split <;> rfl
@[simp] theorem State.closeWindows_blk (s : State) : s.closeWindows.blk = s.blk := by unfold State.closeWindows; dsimp only; split <;> rfl
@[simp] theorem State.closeWindows_cur (s : State) : s.closeWindows.cur = s.cur := by unfold State.closeWindows; dsimp only; split <;> rfl
@[simp] theorem State.closeWindows_blocks (s : State) : s.closeWindows.blocks = s.blocks := by unfold State.closeWindows; dsimp only; split <;> rfl
@[simp] theorem State.closeWindows_mem (s : State) : s.closeWindows.mem = s.mem := by unfold State.closeWindows; dsimp only; split <;> rfl
@[simp] theorem State.closeWindows_cores (s : State) : s.closeWindows.cores = s.cores := by unfold State.closeWindows; dsimp only; split <;> rfl
@[simp] theorem State.closeWindows_hub (s : State) : s.closeWindows.hub = s.hub := by unfold State.closeWindows; dsimp only; split <;> rfl
@[simp] theorem State.closeWindows_iso (s : State) : s.closeWindows.iso = s.iso := by unfold State.closeWindows; dsimp only; split <;> rfl
@[simp] theorem State.closeWindows_links (s : State) : s.closeWindows.links = s.links := by unfold State.closeWindows; dsimp only; split <;> rfl
@[simp] theorem State.closeWindows_mgmt (s : State) : s.closeWindows.mgmt = s.mgmt := by unfold State.closeWindows; dsimp only; split <;> rfl
@[simp] theorem State.closeWindows_grp_idx (s : State) : s.closeWindows.grp.idx = s.grp.idx := by
  unfold State.closeWindows; dsimp only; split <;> rfl
@[simp] theorem State.closeWindows_grp_slot (s : State) : s.closeWindows.grp.slot = s.grp.slot := by
  unfold State.closeWindows; dsimp only; split <;> rfl
@[simp] theorem State.closeWindows_grp_regs (s : State) : s.closeWindows.grp.regs = s.grp.regs := by
  unfold State.closeWindows; dsimp only; split <;> rfl
@[simp] theorem State.closeWindows_grp_sp (s : State) : s.closeWindows.grp.sp = s.grp.sp := by
  unfold State.closeWindows; dsimp only; split <;> rfl
@[simp] theorem State.closeWindows_grp_ts (s : State) : s.closeWindows.grp.ts = s.grp.ts := by
  unfold State.closeWindows; dsimp only; split <;> rfl
@[simp] theorem State.closeWindows_grp_gs (s : State) : s.closeWindows.grp.gs = s.grp.gs := by
  unfold State.closeWindows; dsimp only; split <;> rfl
@[simp] theorem State.closeWindows_grp_futures (s : State) : s.closeWindows.grp.futures = s.grp.futures := by
  unfold State.closeWindows; dsimp only; split <;> rfl
@[simp] theorem State.closeWindows_grp_lr (s : State) : s.closeWindows.grp.lr = s.grp.lr := by
  unfold State.closeWindows; dsimp only; split <;> rfl
@[simp] theorem State.closeWindows_grp_region (s : State) : s.closeWindows.grp.region = s.grp.region := by
  unfold State.closeWindows; dsimp only; split <;> rfl
@[simp] theorem State.closeWindows_grp_trap (s : State) : s.closeWindows.grp.trap = s.grp.trap := by
  unfold State.closeWindows; dsimp only; split <;> rfl
@[simp] theorem State.closeWindows_grp_ldone (s : State) : s.closeWindows.grp.ldone = s.grp.ldone := by
  unfold State.closeWindows; dsimp only; split <;> rfl
@[simp] theorem State.closeWindows_grp_hscr (s : State) : s.closeWindows.grp.hscr = s.grp.hscr := by
  unfold State.closeWindows; dsimp only; split <;> rfl
@[simp] theorem State.closeWindows_grp_handler (s : State) : s.closeWindows.grp.handler = s.grp.handler := by
  unfold State.closeWindows; dsimp only; split <;> rfl
@[simp] theorem State.closeWindows_grp_arrived (s : State) : s.closeWindows.grp.arrived = s.grp.arrived := by
  unfold State.closeWindows; dsimp only; split <;> rfl
@[simp] theorem State.closeWindows_grp_waitCount (s : State) : s.closeWindows.grp.waitCount = s.grp.waitCount := by
  unfold State.closeWindows; dsimp only; split <;> rfl
@[simp] theorem State.closeWindows_grp_ended (s : State) : s.closeWindows.grp.ended = s.grp.ended := by
  unfold State.closeWindows; dsimp only; split <;> rfl
@[simp] theorem State.closeWindows_grp_saved (s : State) : s.closeWindows.grp.saved = s.grp.saved := by
  unfold State.closeWindows; dsimp only; split <;> rfl
@[simp] theorem State.closeWindows_grp_fl (s : State) : s.closeWindows.grp.fl = s.grp.fl := by
  unfold State.closeWindows; dsimp only; split <;> rfl

/-! ## `State.hideFlags` -/

@[simp] theorem State.hideFlags_agenda (s : State) : s.hideFlags.agenda = s.agenda := by unfold State.hideFlags; dsimp only; split <;> rfl
@[simp] theorem State.hideFlags_turn (s : State) : s.hideFlags.turn = s.turn := by unfold State.hideFlags; dsimp only; split <;> rfl
@[simp] theorem State.hideFlags_tick (s : State) : s.hideFlags.tick = s.tick := by unfold State.hideFlags; dsimp only; split <;> rfl
@[simp] theorem State.hideFlags_blk (s : State) : s.hideFlags.blk = s.blk := by unfold State.hideFlags; dsimp only; split <;> rfl
@[simp] theorem State.hideFlags_cur (s : State) : s.hideFlags.cur = s.cur := by unfold State.hideFlags; dsimp only; split <;> rfl
@[simp] theorem State.hideFlags_blocks (s : State) : s.hideFlags.blocks = s.blocks := by unfold State.hideFlags; dsimp only; split <;> rfl
@[simp] theorem State.hideFlags_mem (s : State) : s.hideFlags.mem = s.mem := by unfold State.hideFlags; dsimp only; split <;> rfl
@[simp] theorem State.hideFlags_cores (s : State) : s.hideFlags.cores = s.cores := by unfold State.hideFlags; dsimp only; split <;> rfl
@[simp] theorem State.hideFlags_hub (s : State) : s.hideFlags.hub = s.hub := by unfold State.hideFlags; dsimp only; split <;> rfl
@[simp] theorem State.hideFlags_iso (s : State) : s.hideFlags.iso = s.iso := by unfold State.hideFlags; dsimp only; split <;> rfl
@[simp] theorem State.hideFlags_links (s : State) : s.hideFlags.links = s.links := by unfold State.hideFlags; dsimp only; split <;> rfl
@[simp] theorem State.hideFlags_mgmt (s : State) : s.hideFlags.mgmt = s.mgmt := by unfold State.hideFlags; dsimp only; split <;> rfl
@[simp] theorem State.hideFlags_grp_idx (s : State) : s.hideFlags.grp.idx = s.grp.idx := by
  unfold State.hideFlags; dsimp only; split <;> rfl
@[simp] theorem State.hideFlags_grp_slot (s : State) : s.hideFlags.grp.slot = s.grp.slot := by
  unfold State.hideFlags; dsimp only; split <;> rfl
@[simp] theorem State.hideFlags_grp_regs (s : State) : s.hideFlags.grp.regs = s.grp.regs := by
  unfold State.hideFlags; dsimp only; split <;> rfl
@[simp] theorem State.hideFlags_grp_sp (s : State) : s.hideFlags.grp.sp = s.grp.sp := by
  unfold State.hideFlags; dsimp only; split <;> rfl
@[simp] theorem State.hideFlags_grp_ts (s : State) : s.hideFlags.grp.ts = s.grp.ts := by
  unfold State.hideFlags; dsimp only; split <;> rfl
@[simp] theorem State.hideFlags_grp_gs (s : State) : s.hideFlags.grp.gs = s.grp.gs := by
  unfold State.hideFlags; dsimp only; split <;> rfl
@[simp] theorem State.hideFlags_grp_futures (s : State) : s.hideFlags.grp.futures = s.grp.futures := by
  unfold State.hideFlags; dsimp only; split <;> rfl
@[simp] theorem State.hideFlags_grp_lr (s : State) : s.hideFlags.grp.lr = s.grp.lr := by
  unfold State.hideFlags; dsimp only; split <;> rfl
@[simp] theorem State.hideFlags_grp_region (s : State) : s.hideFlags.grp.region = s.grp.region := by
  unfold State.hideFlags; dsimp only; split <;> rfl
@[simp] theorem State.hideFlags_grp_trap (s : State) : s.hideFlags.grp.trap = s.grp.trap := by
  unfold State.hideFlags; dsimp only; split <;> rfl
@[simp] theorem State.hideFlags_grp_ldone (s : State) : s.hideFlags.grp.ldone = s.grp.ldone := by
  unfold State.hideFlags; dsimp only; split <;> rfl
@[simp] theorem State.hideFlags_grp_hscr (s : State) : s.hideFlags.grp.hscr = s.grp.hscr := by
  unfold State.hideFlags; dsimp only; split <;> rfl
@[simp] theorem State.hideFlags_grp_handler (s : State) : s.hideFlags.grp.handler = s.grp.handler := by
  unfold State.hideFlags; dsimp only; split <;> rfl
@[simp] theorem State.hideFlags_grp_arrived (s : State) : s.hideFlags.grp.arrived = s.grp.arrived := by
  unfold State.hideFlags; dsimp only; split <;> rfl
@[simp] theorem State.hideFlags_grp_waitCount (s : State) : s.hideFlags.grp.waitCount = s.grp.waitCount := by
  unfold State.hideFlags; dsimp only; split <;> rfl
@[simp] theorem State.hideFlags_grp_ended (s : State) : s.hideFlags.grp.ended = s.grp.ended := by
  unfold State.hideFlags; dsimp only; split <;> rfl
@[simp] theorem State.hideFlags_grp_saved (s : State) : s.hideFlags.grp.saved = s.grp.saved := by
  unfold State.hideFlags; dsimp only; split <;> rfl

/-! ## `State.landFlags` -/

@[simp] theorem State.landFlags_agenda (s : State) : s.landFlags.agenda = s.agenda := by unfold State.landFlags; dsimp only; split <;> rfl
@[simp] theorem State.landFlags_turn (s : State) : s.landFlags.turn = s.turn := by unfold State.landFlags; dsimp only; split <;> rfl
@[simp] theorem State.landFlags_tick (s : State) : s.landFlags.tick = s.tick := by unfold State.landFlags; dsimp only; split <;> rfl
@[simp] theorem State.landFlags_blk (s : State) : s.landFlags.blk = s.blk := by unfold State.landFlags; dsimp only; split <;> rfl
@[simp] theorem State.landFlags_cur (s : State) : s.landFlags.cur = s.cur := by unfold State.landFlags; dsimp only; split <;> rfl
@[simp] theorem State.landFlags_blocks (s : State) : s.landFlags.blocks = s.blocks := by unfold State.landFlags; dsimp only; split <;> rfl
@[simp] theorem State.landFlags_mem (s : State) : s.landFlags.mem = s.mem := by unfold State.landFlags; dsimp only; split <;> rfl
@[simp] theorem State.landFlags_cores (s : State) : s.landFlags.cores = s.cores := by unfold State.landFlags; dsimp only; split <;> rfl
@[simp] theorem State.landFlags_hub (s : State) : s.landFlags.hub = s.hub := by unfold State.landFlags; dsimp only; split <;> rfl
@[simp] theorem State.landFlags_iso (s : State) : s.landFlags.iso = s.iso := by unfold State.landFlags; dsimp only; split <;> rfl
@[simp] theorem State.landFlags_links (s : State) : s.landFlags.links = s.links := by unfold State.landFlags; dsimp only; split <;> rfl
@[simp] theorem State.landFlags_mgmt (s : State) : s.landFlags.mgmt = s.mgmt := by unfold State.landFlags; dsimp only; split <;> rfl
@[simp] theorem State.landFlags_grp_idx (s : State) : s.landFlags.grp.idx = s.grp.idx := by
  unfold State.landFlags; dsimp only; split <;> rfl
@[simp] theorem State.landFlags_grp_slot (s : State) : s.landFlags.grp.slot = s.grp.slot := by
  unfold State.landFlags; dsimp only; split <;> rfl
@[simp] theorem State.landFlags_grp_regs (s : State) : s.landFlags.grp.regs = s.grp.regs := by
  unfold State.landFlags; dsimp only; split <;> rfl
@[simp] theorem State.landFlags_grp_sp (s : State) : s.landFlags.grp.sp = s.grp.sp := by
  unfold State.landFlags; dsimp only; split <;> rfl
@[simp] theorem State.landFlags_grp_ts (s : State) : s.landFlags.grp.ts = s.grp.ts := by
  unfold State.landFlags; dsimp only; split <;> rfl
@[simp] theorem State.landFlags_grp_gs (s : State) : s.landFlags.grp.gs = s.grp.gs := by
  unfold State.landFlags; dsimp only; split <;> rfl
@[simp] theorem State.landFlags_grp_futures (s : State) : s.landFlags.grp.futures = s.grp.futures := by
  unfold State.landFlags; dsimp only; split <;> rfl
@[simp] theorem State.landFlags_grp_lr (s : State) : s.landFlags.grp.lr = s.grp.lr := by
  unfold State.landFlags; dsimp only; split <;> rfl
@[simp] theorem State.landFlags_grp_region (s : State) : s.landFlags.grp.region = s.grp.region := by
  unfold State.landFlags; dsimp only; split <;> rfl
@[simp] theorem State.landFlags_grp_trap (s : State) : s.landFlags.grp.trap = s.grp.trap := by
  unfold State.landFlags; dsimp only; split <;> rfl
@[simp] theorem State.landFlags_grp_ldone (s : State) : s.landFlags.grp.ldone = s.grp.ldone := by
  unfold State.landFlags; dsimp only; split <;> rfl
@[simp] theorem State.landFlags_grp_hscr (s : State) : s.landFlags.grp.hscr = s.grp.hscr := by
  unfold State.landFlags; dsimp only; split <;> rfl
@[simp] theorem State.landFlags_grp_handler (s : State) : s.landFlags.grp.handler = s.grp.handler := by
  unfold State.landFlags; dsimp only; split <;> rfl
@[simp] theorem State.landFlags_grp_arrived (s : State) : s.landFlags.grp.arrived = s.grp.arrived := by
  unfold State.landFlags; dsimp only; split <;> rfl
@[simp] theorem State.landFlags_grp_waitCount (s : State) : s.landFlags.grp.waitCount = s.grp.waitCount := by
  unfold State.landFlags; dsimp only; split <;> rfl
@[simp] theorem State.landFlags_grp_ended (s : State) : s.landFlags.grp.ended = s.grp.ended := by
  unfold State.landFlags; dsimp only; split <;> rfl
@[simp] theorem State.landFlags_grp_saved (s : State) : s.landFlags.grp.saved = s.grp.saved := by
  unfold State.landFlags; dsimp only; split <;> rfl

/-! ## Energy -/

@[simp] theorem State.event_agenda (s : State) (fn code : Nat) (tag : Word) (a b : DWord) :
    (s.event fn code tag a b).agenda = s.agenda := by unfold State.event; dsimp only; split <;> rfl
@[simp] theorem State.event_turn (s : State) (fn code : Nat) (tag : Word) (a b : DWord) :
    (s.event fn code tag a b).turn = s.turn := by unfold State.event; dsimp only; split <;> rfl
@[simp] theorem State.event_tick (s : State) (fn code : Nat) (tag : Word) (a b : DWord) :
    (s.event fn code tag a b).tick = s.tick := by unfold State.event; dsimp only; split <;> rfl
@[simp] theorem State.event_blk (s : State) (fn code : Nat) (tag : Word) (a b : DWord) :
    (s.event fn code tag a b).blk = s.blk := by unfold State.event; dsimp only; split <;> rfl
@[simp] theorem State.event_grp (s : State) (fn code : Nat) (tag : Word) (a b : DWord) :
    (s.event fn code tag a b).grp = s.grp := by unfold State.event; dsimp only; split <;> rfl
@[simp] theorem State.event_cur (s : State) (fn code : Nat) (tag : Word) (a b : DWord) :
    (s.event fn code tag a b).cur = s.cur := by unfold State.event; dsimp only; split <;> rfl
@[simp] theorem State.event_blocks (s : State) (fn code : Nat) (tag : Word) (a b : DWord) :
    (s.event fn code tag a b).blocks = s.blocks := by unfold State.event; dsimp only; split <;> rfl
@[simp] theorem State.event_mem (s : State) (fn code : Nat) (tag : Word) (a b : DWord) :
    (s.event fn code tag a b).mem = s.mem := by unfold State.event; dsimp only; split <;> rfl
@[simp] theorem State.event_cores (s : State) (fn code : Nat) (tag : Word) (a b : DWord) :
    (s.event fn code tag a b).cores = s.cores := by unfold State.event; dsimp only; split <;> rfl
@[simp] theorem State.event_hub (s : State) (fn code : Nat) (tag : Word) (a b : DWord) :
    (s.event fn code tag a b).hub = s.hub := by unfold State.event; dsimp only; split <;> rfl
@[simp] theorem State.event_links (s : State) (fn code : Nat) (tag : Word) (a b : DWord) :
    (s.event fn code tag a b).links = s.links := by unfold State.event; dsimp only; split <;> rfl
@[simp] theorem State.event_iso (s : State) (fn code : Nat) (tag : Word) (a b : DWord) :
    (s.event fn code tag a b).iso = s.iso := by unfold State.event; dsimp only; split <;> rfl
@[simp] theorem State.chargeVf_agenda (s : State) (vf : Nat) (tag : Word) (g : Nat) : (s.chargeVf vf tag g).agenda = s.agenda := rfl
@[simp] theorem State.chargeGrains_agenda (s : State) (a g : Nat) : (s.chargeGrains a g).agenda = s.agenda := rfl
@[simp] theorem State.charge_agenda (s : State) (a d c u : Nat) : (s.charge a d c u).agenda = s.agenda := rfl
@[simp] theorem State.chargeInstr_agenda (s : State) (i : Instr) (t : State) : (s.chargeInstr i t).agenda = s.agenda := rfl
@[simp] theorem State.chargeVf_turn (s : State) (vf : Nat) (tag : Word) (g : Nat) : (s.chargeVf vf tag g).turn = s.turn := rfl
@[simp] theorem State.chargeGrains_turn (s : State) (a g : Nat) : (s.chargeGrains a g).turn = s.turn := rfl
@[simp] theorem State.charge_turn (s : State) (a d c u : Nat) : (s.charge a d c u).turn = s.turn := rfl
@[simp] theorem State.chargeInstr_turn (s : State) (i : Instr) (t : State) : (s.chargeInstr i t).turn = s.turn := rfl
@[simp] theorem State.chargeVf_tick (s : State) (vf : Nat) (tag : Word) (g : Nat) : (s.chargeVf vf tag g).tick = s.tick := rfl
@[simp] theorem State.chargeGrains_tick (s : State) (a g : Nat) : (s.chargeGrains a g).tick = s.tick := rfl
@[simp] theorem State.charge_tick (s : State) (a d c u : Nat) : (s.charge a d c u).tick = s.tick := rfl
@[simp] theorem State.chargeInstr_tick (s : State) (i : Instr) (t : State) : (s.chargeInstr i t).tick = s.tick := rfl
@[simp] theorem State.chargeVf_blk (s : State) (vf : Nat) (tag : Word) (g : Nat) : (s.chargeVf vf tag g).blk = s.blk := rfl
@[simp] theorem State.chargeGrains_blk (s : State) (a g : Nat) : (s.chargeGrains a g).blk = s.blk := rfl
@[simp] theorem State.charge_blk (s : State) (a d c u : Nat) : (s.charge a d c u).blk = s.blk := rfl
@[simp] theorem State.chargeInstr_blk (s : State) (i : Instr) (t : State) : (s.chargeInstr i t).blk = s.blk := rfl
@[simp] theorem State.chargeVf_grp (s : State) (vf : Nat) (tag : Word) (g : Nat) : (s.chargeVf vf tag g).grp = s.grp := rfl
@[simp] theorem State.chargeGrains_grp (s : State) (a g : Nat) : (s.chargeGrains a g).grp = s.grp := rfl
@[simp] theorem State.charge_grp (s : State) (a d c u : Nat) : (s.charge a d c u).grp = s.grp := rfl
@[simp] theorem State.chargeInstr_grp (s : State) (i : Instr) (t : State) : (s.chargeInstr i t).grp = s.grp := rfl
@[simp] theorem State.chargeVf_cur (s : State) (vf : Nat) (tag : Word) (g : Nat) : (s.chargeVf vf tag g).cur = s.cur := rfl
@[simp] theorem State.chargeGrains_cur (s : State) (a g : Nat) : (s.chargeGrains a g).cur = s.cur := rfl
@[simp] theorem State.charge_cur (s : State) (a d c u : Nat) : (s.charge a d c u).cur = s.cur := rfl
@[simp] theorem State.chargeInstr_cur (s : State) (i : Instr) (t : State) : (s.chargeInstr i t).cur = s.cur := rfl
@[simp] theorem State.chargeVf_blocks (s : State) (vf : Nat) (tag : Word) (g : Nat) : (s.chargeVf vf tag g).blocks = s.blocks := rfl
@[simp] theorem State.chargeGrains_blocks (s : State) (a g : Nat) : (s.chargeGrains a g).blocks = s.blocks := rfl
@[simp] theorem State.charge_blocks (s : State) (a d c u : Nat) : (s.charge a d c u).blocks = s.blocks := rfl
@[simp] theorem State.chargeInstr_blocks (s : State) (i : Instr) (t : State) : (s.chargeInstr i t).blocks = s.blocks := rfl
@[simp] theorem State.chargeVf_mem (s : State) (vf : Nat) (tag : Word) (g : Nat) : (s.chargeVf vf tag g).mem = s.mem := rfl
@[simp] theorem State.chargeGrains_mem (s : State) (a g : Nat) : (s.chargeGrains a g).mem = s.mem := rfl
@[simp] theorem State.charge_mem (s : State) (a d c u : Nat) : (s.charge a d c u).mem = s.mem := rfl
@[simp] theorem State.chargeInstr_mem (s : State) (i : Instr) (t : State) : (s.chargeInstr i t).mem = s.mem := rfl
@[simp] theorem State.chargeVf_cores (s : State) (vf : Nat) (tag : Word) (g : Nat) : (s.chargeVf vf tag g).cores = s.cores := rfl
@[simp] theorem State.chargeGrains_cores (s : State) (a g : Nat) : (s.chargeGrains a g).cores = s.cores := rfl
@[simp] theorem State.charge_cores (s : State) (a d c u : Nat) : (s.charge a d c u).cores = s.cores := rfl
@[simp] theorem State.chargeInstr_cores (s : State) (i : Instr) (t : State) : (s.chargeInstr i t).cores = s.cores := rfl
@[simp] theorem State.chargeVf_hub (s : State) (vf : Nat) (tag : Word) (g : Nat) : (s.chargeVf vf tag g).hub = s.hub := rfl
@[simp] theorem State.chargeGrains_hub (s : State) (a g : Nat) : (s.chargeGrains a g).hub = s.hub := rfl
@[simp] theorem State.charge_hub (s : State) (a d c u : Nat) : (s.charge a d c u).hub = s.hub := rfl
@[simp] theorem State.chargeInstr_hub (s : State) (i : Instr) (t : State) : (s.chargeInstr i t).hub = s.hub := rfl
@[simp] theorem State.chargeVf_links (s : State) (vf : Nat) (tag : Word) (g : Nat) : (s.chargeVf vf tag g).links = s.links := rfl
@[simp] theorem State.chargeGrains_links (s : State) (a g : Nat) : (s.chargeGrains a g).links = s.links := rfl
@[simp] theorem State.charge_links (s : State) (a d c u : Nat) : (s.charge a d c u).links = s.links := rfl
@[simp] theorem State.chargeInstr_links (s : State) (i : Instr) (t : State) : (s.chargeInstr i t).links = s.links := rfl
@[simp] theorem State.chargeVf_iso_partition (s : State) (vf : Nat) (tag : Word) (g : Nat) :
    (s.chargeVf vf tag g).iso.partition = s.iso.partition := rfl
@[simp] theorem State.chargeGrains_iso_partition (s : State) (a g : Nat) :
    (s.chargeGrains a g).iso.partition = s.iso.partition := rfl
@[simp] theorem State.chargeInstr_iso_partition (s : State) (i : Instr) (t : State) :
    (s.chargeInstr i t).iso.partition = s.iso.partition := rfl
@[simp] theorem State.chargeVf_iso_granule (s : State) (vf : Nat) (tag : Word) (g : Nat) :
    (s.chargeVf vf tag g).iso.granule = s.iso.granule := rfl
@[simp] theorem State.chargeGrains_iso_granule (s : State) (a g : Nat) :
    (s.chargeGrains a g).iso.granule = s.iso.granule := rfl
@[simp] theorem State.chargeInstr_iso_granule (s : State) (i : Instr) (t : State) :
    (s.chargeInstr i t).iso.granule = s.iso.granule := rfl
@[simp] theorem State.chargeVf_iso_hostRange (s : State) (vf : Nat) (tag : Word) (g : Nat) :
    (s.chargeVf vf tag g).iso.hostRange = s.iso.hostRange := rfl
@[simp] theorem State.chargeGrains_iso_hostRange (s : State) (a g : Nat) :
    (s.chargeGrains a g).iso.hostRange = s.iso.hostRange := rfl
@[simp] theorem State.chargeInstr_iso_hostRange (s : State) (i : Instr) (t : State) :
    (s.chargeInstr i t).iso.hostRange = s.iso.hostRange := rfl
@[simp] theorem State.chargeVf_iso_space (s : State) (vf : Nat) (tag : Word) (g : Nat) :
    (s.chargeVf vf tag g).iso.space = s.iso.space := rfl
@[simp] theorem State.chargeGrains_iso_space (s : State) (a g : Nat) :
    (s.chargeGrains a g).iso.space = s.iso.space := rfl
@[simp] theorem State.chargeInstr_iso_space (s : State) (i : Instr) (t : State) :
    (s.chargeInstr i t).iso.space = s.iso.space := rfl
@[simp] theorem State.chargeVf_iso_tvec (s : State) (vf : Nat) (tag : Word) (g : Nat) :
    (s.chargeVf vf tag g).iso.tvec = s.iso.tvec := rfl
@[simp] theorem State.chargeGrains_iso_tvec (s : State) (a g : Nat) :
    (s.chargeGrains a g).iso.tvec = s.iso.tvec := rfl
@[simp] theorem State.chargeInstr_iso_tvec (s : State) (i : Instr) (t : State) :
    (s.chargeInstr i t).iso.tvec = s.iso.tvec := rfl
@[simp] theorem State.chargeVf_iso_saveva (s : State) (vf : Nat) (tag : Word) (g : Nat) :
    (s.chargeVf vf tag g).iso.saveva = s.iso.saveva := rfl
@[simp] theorem State.chargeGrains_iso_saveva (s : State) (a g : Nat) :
    (s.chargeGrains a g).iso.saveva = s.iso.saveva := rfl
@[simp] theorem State.chargeInstr_iso_saveva (s : State) (i : Instr) (t : State) :
    (s.chargeInstr i t).iso.saveva = s.iso.saveva := rfl
@[simp] theorem State.chargeVf_iso_restores (s : State) (vf : Nat) (tag : Word) (g : Nat) :
    (s.chargeVf vf tag g).iso.restores = s.iso.restores := rfl
@[simp] theorem State.chargeGrains_iso_restores (s : State) (a g : Nat) :
    (s.chargeGrains a g).iso.restores = s.iso.restores := rfl
@[simp] theorem State.chargeInstr_iso_restores (s : State) (i : Instr) (t : State) :
    (s.chargeInstr i t).iso.restores = s.iso.restores := rfl
@[simp] theorem State.chargeVf_iso_key (s : State) (vf : Nat) (tag : Word) (g : Nat) :
    (s.chargeVf vf tag g).iso.key = s.iso.key := rfl
@[simp] theorem State.chargeGrains_iso_key (s : State) (a g : Nat) :
    (s.chargeGrains a g).iso.key = s.iso.key := rfl
@[simp] theorem State.chargeInstr_iso_key (s : State) (i : Instr) (t : State) :
    (s.chargeInstr i t).iso.key = s.iso.key := rfl
@[simp] theorem State.chargeVf_iso_keyBits (s : State) (vf : Nat) (tag : Word) (g : Nat) :
    (s.chargeVf vf tag g).iso.keyBits = s.iso.keyBits := rfl
@[simp] theorem State.chargeGrains_iso_keyBits (s : State) (a g : Nat) :
    (s.chargeGrains a g).iso.keyBits = s.iso.keyBits := rfl
@[simp] theorem State.chargeInstr_iso_keyBits (s : State) (i : Instr) (t : State) :
    (s.chargeInstr i t).iso.keyBits = s.iso.keyBits := rfl
@[simp] theorem State.chargeVf_iso_session (s : State) (vf : Nat) (tag : Word) (g : Nat) :
    (s.chargeVf vf tag g).iso.session = s.iso.session := rfl
@[simp] theorem State.chargeGrains_iso_session (s : State) (a g : Nat) :
    (s.chargeGrains a g).iso.session = s.iso.session := rfl
@[simp] theorem State.chargeInstr_iso_session (s : State) (i : Instr) (t : State) :
    (s.chargeInstr i t).iso.session = s.iso.session := rfl
@[simp] theorem State.chargeVf_iso_systemAccount (s : State) (vf : Nat) (tag : Word) (g : Nat) :
    (s.chargeVf vf tag g).iso.systemAccount = s.iso.systemAccount := rfl
@[simp] theorem State.chargeGrains_iso_systemAccount (s : State) (a g : Nat) :
    (s.chargeGrains a g).iso.systemAccount = s.iso.systemAccount := rfl
@[simp] theorem State.chargeInstr_iso_systemAccount (s : State) (i : Instr) (t : State) :
    (s.chargeInstr i t).iso.systemAccount = s.iso.systemAccount := rfl
@[simp] theorem State.chargeVf_iso_violations (s : State) (vf : Nat) (tag : Word) (g : Nat) :
    (s.chargeVf vf tag g).iso.violations = s.iso.violations := rfl
@[simp] theorem State.chargeGrains_iso_violations (s : State) (a g : Nat) :
    (s.chargeGrains a g).iso.violations = s.iso.violations := rfl
@[simp] theorem State.chargeInstr_iso_violations (s : State) (i : Instr) (t : State) :
    (s.chargeInstr i t).iso.violations = s.iso.violations := rfl
@[simp] theorem State.chargeVf_iso_fallback (s : State) (vf : Nat) (tag : Word) (g : Nat) :
    (s.chargeVf vf tag g).iso.fallback = s.iso.fallback := rfl
@[simp] theorem State.chargeGrains_iso_fallback (s : State) (a g : Nat) :
    (s.chargeGrains a g).iso.fallback = s.iso.fallback := rfl
@[simp] theorem State.chargeInstr_iso_fallback (s : State) (i : Instr) (t : State) :
    (s.chargeInstr i t).iso.fallback = s.iso.fallback := rfl
@[simp] theorem State.chargeVf_iso_calibration (s : State) (vf : Nat) (tag : Word) (g : Nat) :
    (s.chargeVf vf tag g).iso.calibration = s.iso.calibration := rfl
@[simp] theorem State.chargeGrains_iso_calibration (s : State) (a g : Nat) :
    (s.chargeGrains a g).iso.calibration = s.iso.calibration := rfl
@[simp] theorem State.chargeInstr_iso_calibration (s : State) (i : Instr) (t : State) :
    (s.chargeInstr i t).iso.calibration = s.iso.calibration := rfl
@[simp] theorem State.chargeVf_iso_recal (s : State) (vf : Nat) (tag : Word) (g : Nat) :
    (s.chargeVf vf tag g).iso.recal = s.iso.recal := rfl
@[simp] theorem State.chargeGrains_iso_recal (s : State) (a g : Nat) :
    (s.chargeGrains a g).iso.recal = s.iso.recal := rfl
@[simp] theorem State.chargeInstr_iso_recal (s : State) (i : Instr) (t : State) :
    (s.chargeInstr i t).iso.recal = s.iso.recal := rfl
@[simp] theorem State.pass_acc (s : State) (die : Nat) : (s.pass die).cores.acc = s.cores.acc := rfl

/-! ## Accesses on their way: lines taken back, translations cached, links, flits -/

theorem mem_of_mem_distinct {x : Nat} : ∀ {l : List Nat}, x ∈ distinct l → x ∈ l
  | a :: r, h => by
    rcases List.mem_cons.mp h with rfl | h
    · exact List.mem_cons_self ..
    · exact List.mem_cons_of_mem _ (mem_of_mem_distinct (List.mem_filter.mp h).1)

theorem State.recall_eq (s : State) (ls : List Nat) :
    s.recall ls = { s with mem := { s.mem with hostLines := (s.recall ls).mem.hostLines } } := by
  unfold State.recall; split <;> rfl

theorem State.fillTlb_eq (s : State) (u : Unit') (a va : Nat) :
    s.fillTlb u a va = { s with mem := { s.mem with
      hostLines := (s.fillTlb u a va).mem.hostLines, tlb := (s.fillTlb u a va).mem.tlb } } := by
  unfold State.fillTlb; dsimp only
  split
  · rfl
  · rw [State.recall_eq]; repeat' split
    all_goals rfl

theorem State.reach_eq (s : State) (u : Unit') (a va n : Nat) :
    (s.reach u a va n).1 = { s with mem := { s.mem with
      hostLines := (s.reach u a va n).1.mem.hostLines, tlb := (s.reach u a va n).1.mem.tlb } } := by
  unfold State.reach; dsimp only
  by_cases h : va < aliasBase
  · rw [if_pos h, State.fillTlb_eq]; split
    · rw [State.recall_eq]
    · rfl
  · rw [if_neg h]; split
    · rw [State.recall_eq]
    · rfl

theorem State.sendFlit_eq (s : State) (a pa : Nat) :
    s.sendFlit a pa = { s with links := { s.links with
      txSeq := (s.sendFlit a pa).links.txSeq, replay := (s.sendFlit a pa).links.replay } } := by
  unfold State.sendFlit; split <;> rfl

theorem State.sendFlits_eq (s : State) (a : Nat) (pas : List Nat) :
    s.sendFlits a pas = { s with links := { s.links with
      txSeq := (s.sendFlits a pas).links.txSeq, replay := (s.sendFlits a pas).links.replay } } := by
  have h : ∀ (l : List Nat) (s : State), ∃ x y, l.foldl (fun (t : State) k => t.sendFlit a (64 * k)) s =
      { s with links := { s.links with txSeq := x, replay := y } } := by
    intro l
    induction l with
    | nil => exact fun s => ⟨_, _, rfl⟩
    | cons k r ih =>
      intro s
      obtain ⟨x, y, h⟩ := ih (s.sendFlit a (64 * k))
      exact ⟨x, y, by rw [List.foldl_cons, h, State.sendFlit_eq]⟩
  obtain ⟨x, y, h⟩ := h (distinct (pas.map fun pa => pa / 64)) s
  unfold State.sendFlits; rw [h]

/-- Nothing is sent for places of the module itself. -/
theorem State.sendFlits_near (s : State) (a : Nat) {pas : List Nat} (h : ∀ pa ∈ pas, pa < 2 ^ 58) : s.sendFlits a pas = s := by
  unfold State.sendFlits
  have hd : ∀ l ∈ distinct (pas.map fun pa => pa / 64), 64 * l < 2 ^ 58 := by
    intro l hl
    have : l ∈ pas.map fun pa => pa / 64 := mem_of_mem_distinct hl
    obtain ⟨pa, hp, rfl⟩ := List.mem_map.mp this
    have := h pa hp; omega
  generalize distinct (pas.map fun pa => pa / 64) = l at hd
  induction l with
  | nil => rfl
  | cons x r ih =>
    have hx : s.sendFlit a (64 * x) = s := by unfold State.sendFlit; rw [if_pos (hd x (List.mem_cons_self ..))]
    rw [List.foldl_cons, hx]; exact ih fun l hl => hd l (List.mem_cons_of_mem _ hl)

theorem State.wakeWay_eq (s : State) (a core pa : Nat) :
    s.wakeWay a core pa = { s with links := { s.links with
      state := (s.wakeWay a core pa).links.state, deadTimer := (s.wakeWay a core pa).links.deadTimer } } := by
  have h : ∀ (l : List Nat) (s : State), ∃ x y, l.foldl (fun (t : State) k => if t.linkST k = 3 then t.setLink k 4 else t) s =
      { s with links := { s.links with state := x, deadTimer := y } } := by
    intro l
    induction l with
    | nil => exact fun s => ⟨_, _, rfl⟩
    | cons k r ih =>
      intro s
      rw [List.foldl_cons]
      split
      · obtain ⟨x, y, h⟩ := ih (s.setLink k 4); exact ⟨x, y, h⟩
      · exact ih s
  obtain ⟨x, y, h⟩ := h (s.route a core pa) s
  unfold State.wakeWay; rw [h]

@[simp] theorem State.recall_agenda (s : State) (ls : List Nat) : (s.recall ls).agenda = s.agenda := by rw [State.recall_eq]
@[simp] theorem State.recall_turn (s : State) (ls : List Nat) : (s.recall ls).turn = s.turn := by rw [State.recall_eq]
@[simp] theorem State.recall_tick (s : State) (ls : List Nat) : (s.recall ls).tick = s.tick := by rw [State.recall_eq]
@[simp] theorem State.recall_blk (s : State) (ls : List Nat) : (s.recall ls).blk = s.blk := by rw [State.recall_eq]
@[simp] theorem State.recall_grp (s : State) (ls : List Nat) : (s.recall ls).grp = s.grp := by rw [State.recall_eq]
@[simp] theorem State.recall_cur (s : State) (ls : List Nat) : (s.recall ls).cur = s.cur := by rw [State.recall_eq]
@[simp] theorem State.recall_blocks (s : State) (ls : List Nat) : (s.recall ls).blocks = s.blocks := by rw [State.recall_eq]
@[simp] theorem State.recall_cores (s : State) (ls : List Nat) : (s.recall ls).cores = s.cores := by rw [State.recall_eq]
@[simp] theorem State.recall_hub (s : State) (ls : List Nat) : (s.recall ls).hub = s.hub := by rw [State.recall_eq]
@[simp] theorem State.recall_iso (s : State) (ls : List Nat) : (s.recall ls).iso = s.iso := by rw [State.recall_eq]
@[simp] theorem State.recall_links (s : State) (ls : List Nat) : (s.recall ls).links = s.links := by rw [State.recall_eq]
@[simp] theorem State.recall_mgmt (s : State) (ls : List Nat) : (s.recall ls).mgmt = s.mgmt := by rw [State.recall_eq]
@[simp] theorem State.recall_mem_bytes (s : State) (ls : List Nat) : (s.recall ls).mem.bytes = s.mem.bytes := by rw [State.recall_eq]
@[simp] theorem State.recall_mem_l1 (s : State) (ls : List Nat) : (s.recall ls).mem.l1 = s.mem.l1 := by rw [State.recall_eq]
@[simp] theorem State.recall_mem_l1i (s : State) (ls : List Nat) : (s.recall ls).mem.l1i = s.mem.l1i := by rw [State.recall_eq]
@[simp] theorem State.recall_mem_tlb (s : State) (ls : List Nat) : (s.recall ls).mem.tlb = s.mem.tlb := by rw [State.recall_eq]
@[simp] theorem State.recall_mem_requests (s : State) (ls : List Nat) : (s.recall ls).mem.requests = s.mem.requests := by rw [State.recall_eq]
@[simp] theorem State.recall_mem_reductions (s : State) (ls : List Nat) : (s.recall ls).mem.reductions = s.mem.reductions := by rw [State.recall_eq]
@[simp] theorem State.recall_mem_l2 (s : State) (ls : List Nat) : (s.recall ls).mem.l2 = s.mem.l2 := by rw [State.recall_eq]
@[simp] theorem State.recall_mem_stale (s : State) (ls : List Nat) : (s.recall ls).mem.stale = s.mem.stale := by rw [State.recall_eq]
@[simp] theorem State.recall_mem_compressed (s : State) (ls : List Nat) : (s.recall ls).mem.compressed = s.mem.compressed := by rw [State.recall_eq]
@[simp] theorem State.recall_mem_lineKey (s : State) (ls : List Nat) : (s.recall ls).mem.lineKey = s.mem.lineKey := by rw [State.recall_eq]
@[simp] theorem State.recall_mem_past (s : State) (ls : List Nat) : (s.recall ls).mem.past = s.mem.past := by rw [State.recall_eq]
@[simp] theorem State.recall_mem_upsets (s : State) (ls : List Nat) : (s.recall ls).mem.upsets = s.mem.upsets := by rw [State.recall_eq]
@[simp] theorem State.recall_mem_bindings (s : State) (ls : List Nat) : (s.recall ls).mem.bindings = s.mem.bindings := by rw [State.recall_eq]
@[simp] theorem State.recall_mem_held (s : State) (ls : List Nat) : (s.recall ls).mem.held = s.mem.held := by rw [State.recall_eq]

@[simp] theorem State.fillTlb_agenda (s : State) (u : Unit') (a va : Nat) : (s.fillTlb u a va).agenda = s.agenda := by rw [State.fillTlb_eq]
@[simp] theorem State.fillTlb_turn (s : State) (u : Unit') (a va : Nat) : (s.fillTlb u a va).turn = s.turn := by rw [State.fillTlb_eq]
@[simp] theorem State.fillTlb_tick (s : State) (u : Unit') (a va : Nat) : (s.fillTlb u a va).tick = s.tick := by rw [State.fillTlb_eq]
@[simp] theorem State.fillTlb_blk (s : State) (u : Unit') (a va : Nat) : (s.fillTlb u a va).blk = s.blk := by rw [State.fillTlb_eq]
@[simp] theorem State.fillTlb_grp (s : State) (u : Unit') (a va : Nat) : (s.fillTlb u a va).grp = s.grp := by rw [State.fillTlb_eq]
@[simp] theorem State.fillTlb_cur (s : State) (u : Unit') (a va : Nat) : (s.fillTlb u a va).cur = s.cur := by rw [State.fillTlb_eq]
@[simp] theorem State.fillTlb_blocks (s : State) (u : Unit') (a va : Nat) : (s.fillTlb u a va).blocks = s.blocks := by rw [State.fillTlb_eq]
@[simp] theorem State.fillTlb_cores (s : State) (u : Unit') (a va : Nat) : (s.fillTlb u a va).cores = s.cores := by rw [State.fillTlb_eq]
@[simp] theorem State.fillTlb_hub (s : State) (u : Unit') (a va : Nat) : (s.fillTlb u a va).hub = s.hub := by rw [State.fillTlb_eq]
@[simp] theorem State.fillTlb_iso (s : State) (u : Unit') (a va : Nat) : (s.fillTlb u a va).iso = s.iso := by rw [State.fillTlb_eq]
@[simp] theorem State.fillTlb_links (s : State) (u : Unit') (a va : Nat) : (s.fillTlb u a va).links = s.links := by rw [State.fillTlb_eq]
@[simp] theorem State.fillTlb_mgmt (s : State) (u : Unit') (a va : Nat) : (s.fillTlb u a va).mgmt = s.mgmt := by rw [State.fillTlb_eq]
@[simp] theorem State.fillTlb_mem_bytes (s : State) (u : Unit') (a va : Nat) : (s.fillTlb u a va).mem.bytes = s.mem.bytes := by rw [State.fillTlb_eq]
@[simp] theorem State.fillTlb_mem_l1 (s : State) (u : Unit') (a va : Nat) : (s.fillTlb u a va).mem.l1 = s.mem.l1 := by rw [State.fillTlb_eq]
@[simp] theorem State.fillTlb_mem_l1i (s : State) (u : Unit') (a va : Nat) : (s.fillTlb u a va).mem.l1i = s.mem.l1i := by rw [State.fillTlb_eq]
@[simp] theorem State.fillTlb_mem_requests (s : State) (u : Unit') (a va : Nat) : (s.fillTlb u a va).mem.requests = s.mem.requests := by rw [State.fillTlb_eq]
@[simp] theorem State.fillTlb_mem_reductions (s : State) (u : Unit') (a va : Nat) : (s.fillTlb u a va).mem.reductions = s.mem.reductions := by rw [State.fillTlb_eq]
@[simp] theorem State.fillTlb_mem_l2 (s : State) (u : Unit') (a va : Nat) : (s.fillTlb u a va).mem.l2 = s.mem.l2 := by rw [State.fillTlb_eq]
@[simp] theorem State.fillTlb_mem_stale (s : State) (u : Unit') (a va : Nat) : (s.fillTlb u a va).mem.stale = s.mem.stale := by rw [State.fillTlb_eq]
@[simp] theorem State.fillTlb_mem_compressed (s : State) (u : Unit') (a va : Nat) : (s.fillTlb u a va).mem.compressed = s.mem.compressed := by rw [State.fillTlb_eq]
@[simp] theorem State.fillTlb_mem_lineKey (s : State) (u : Unit') (a va : Nat) : (s.fillTlb u a va).mem.lineKey = s.mem.lineKey := by rw [State.fillTlb_eq]
@[simp] theorem State.fillTlb_mem_past (s : State) (u : Unit') (a va : Nat) : (s.fillTlb u a va).mem.past = s.mem.past := by rw [State.fillTlb_eq]
@[simp] theorem State.fillTlb_mem_upsets (s : State) (u : Unit') (a va : Nat) : (s.fillTlb u a va).mem.upsets = s.mem.upsets := by rw [State.fillTlb_eq]
@[simp] theorem State.fillTlb_mem_bindings (s : State) (u : Unit') (a va : Nat) : (s.fillTlb u a va).mem.bindings = s.mem.bindings := by rw [State.fillTlb_eq]
@[simp] theorem State.fillTlb_mem_held (s : State) (u : Unit') (a va : Nat) : (s.fillTlb u a va).mem.held = s.mem.held := by rw [State.fillTlb_eq]

@[simp] theorem State.reach_agenda (s : State) (u : Unit') (a va n : Nat) : (s.reach u a va n).1.agenda = s.agenda := by rw [State.reach_eq]
@[simp] theorem State.reach_turn (s : State) (u : Unit') (a va n : Nat) : (s.reach u a va n).1.turn = s.turn := by rw [State.reach_eq]
@[simp] theorem State.reach_tick (s : State) (u : Unit') (a va n : Nat) : (s.reach u a va n).1.tick = s.tick := by rw [State.reach_eq]
@[simp] theorem State.reach_blk (s : State) (u : Unit') (a va n : Nat) : (s.reach u a va n).1.blk = s.blk := by rw [State.reach_eq]
@[simp] theorem State.reach_grp (s : State) (u : Unit') (a va n : Nat) : (s.reach u a va n).1.grp = s.grp := by rw [State.reach_eq]
@[simp] theorem State.reach_cur (s : State) (u : Unit') (a va n : Nat) : (s.reach u a va n).1.cur = s.cur := by rw [State.reach_eq]
@[simp] theorem State.reach_blocks (s : State) (u : Unit') (a va n : Nat) : (s.reach u a va n).1.blocks = s.blocks := by rw [State.reach_eq]
@[simp] theorem State.reach_cores (s : State) (u : Unit') (a va n : Nat) : (s.reach u a va n).1.cores = s.cores := by rw [State.reach_eq]
@[simp] theorem State.reach_hub (s : State) (u : Unit') (a va n : Nat) : (s.reach u a va n).1.hub = s.hub := by rw [State.reach_eq]
@[simp] theorem State.reach_iso (s : State) (u : Unit') (a va n : Nat) : (s.reach u a va n).1.iso = s.iso := by rw [State.reach_eq]
@[simp] theorem State.reach_links (s : State) (u : Unit') (a va n : Nat) : (s.reach u a va n).1.links = s.links := by rw [State.reach_eq]
@[simp] theorem State.reach_mgmt (s : State) (u : Unit') (a va n : Nat) : (s.reach u a va n).1.mgmt = s.mgmt := by rw [State.reach_eq]
@[simp] theorem State.reach_mem_bytes (s : State) (u : Unit') (a va n : Nat) : (s.reach u a va n).1.mem.bytes = s.mem.bytes := by rw [State.reach_eq]
@[simp] theorem State.reach_mem_l1 (s : State) (u : Unit') (a va n : Nat) : (s.reach u a va n).1.mem.l1 = s.mem.l1 := by rw [State.reach_eq]
@[simp] theorem State.reach_mem_l1i (s : State) (u : Unit') (a va n : Nat) : (s.reach u a va n).1.mem.l1i = s.mem.l1i := by rw [State.reach_eq]
@[simp] theorem State.reach_mem_requests (s : State) (u : Unit') (a va n : Nat) : (s.reach u a va n).1.mem.requests = s.mem.requests := by rw [State.reach_eq]
@[simp] theorem State.reach_mem_reductions (s : State) (u : Unit') (a va n : Nat) : (s.reach u a va n).1.mem.reductions = s.mem.reductions := by rw [State.reach_eq]
@[simp] theorem State.reach_mem_l2 (s : State) (u : Unit') (a va n : Nat) : (s.reach u a va n).1.mem.l2 = s.mem.l2 := by rw [State.reach_eq]
@[simp] theorem State.reach_mem_stale (s : State) (u : Unit') (a va n : Nat) : (s.reach u a va n).1.mem.stale = s.mem.stale := by rw [State.reach_eq]
@[simp] theorem State.reach_mem_compressed (s : State) (u : Unit') (a va n : Nat) : (s.reach u a va n).1.mem.compressed = s.mem.compressed := by rw [State.reach_eq]
@[simp] theorem State.reach_mem_lineKey (s : State) (u : Unit') (a va n : Nat) : (s.reach u a va n).1.mem.lineKey = s.mem.lineKey := by rw [State.reach_eq]
@[simp] theorem State.reach_mem_past (s : State) (u : Unit') (a va n : Nat) : (s.reach u a va n).1.mem.past = s.mem.past := by rw [State.reach_eq]
@[simp] theorem State.reach_mem_upsets (s : State) (u : Unit') (a va n : Nat) : (s.reach u a va n).1.mem.upsets = s.mem.upsets := by rw [State.reach_eq]
@[simp] theorem State.reach_mem_bindings (s : State) (u : Unit') (a va n : Nat) : (s.reach u a va n).1.mem.bindings = s.mem.bindings := by rw [State.reach_eq]
@[simp] theorem State.reach_mem_held (s : State) (u : Unit') (a va n : Nat) : (s.reach u a va n).1.mem.held = s.mem.held := by rw [State.reach_eq]

@[simp] theorem State.sendFlits_agenda (s : State) (a : Nat) (pas : List Nat) : (s.sendFlits a pas).agenda = s.agenda := by rw [State.sendFlits_eq]
@[simp] theorem State.sendFlits_turn (s : State) (a : Nat) (pas : List Nat) : (s.sendFlits a pas).turn = s.turn := by rw [State.sendFlits_eq]
@[simp] theorem State.sendFlits_tick (s : State) (a : Nat) (pas : List Nat) : (s.sendFlits a pas).tick = s.tick := by rw [State.sendFlits_eq]
@[simp] theorem State.sendFlits_blk (s : State) (a : Nat) (pas : List Nat) : (s.sendFlits a pas).blk = s.blk := by rw [State.sendFlits_eq]
@[simp] theorem State.sendFlits_grp (s : State) (a : Nat) (pas : List Nat) : (s.sendFlits a pas).grp = s.grp := by rw [State.sendFlits_eq]
@[simp] theorem State.sendFlits_cur (s : State) (a : Nat) (pas : List Nat) : (s.sendFlits a pas).cur = s.cur := by rw [State.sendFlits_eq]
@[simp] theorem State.sendFlits_blocks (s : State) (a : Nat) (pas : List Nat) : (s.sendFlits a pas).blocks = s.blocks := by rw [State.sendFlits_eq]
@[simp] theorem State.sendFlits_mem (s : State) (a : Nat) (pas : List Nat) : (s.sendFlits a pas).mem = s.mem := by rw [State.sendFlits_eq]
@[simp] theorem State.sendFlits_cores (s : State) (a : Nat) (pas : List Nat) : (s.sendFlits a pas).cores = s.cores := by rw [State.sendFlits_eq]
@[simp] theorem State.sendFlits_hub (s : State) (a : Nat) (pas : List Nat) : (s.sendFlits a pas).hub = s.hub := by rw [State.sendFlits_eq]
@[simp] theorem State.sendFlits_iso (s : State) (a : Nat) (pas : List Nat) : (s.sendFlits a pas).iso = s.iso := by rw [State.sendFlits_eq]
@[simp] theorem State.sendFlits_mgmt (s : State) (a : Nat) (pas : List Nat) : (s.sendFlits a pas).mgmt = s.mgmt := by rw [State.sendFlits_eq]
@[simp] theorem State.sendFlits_links_exports (s : State) (a : Nat) (pas : List Nat) : (s.sendFlits a pas).links.exports = s.links.exports := by rw [State.sendFlits_eq]
@[simp] theorem State.sendFlits_links_serial (s : State) (a : Nat) (pas : List Nat) : (s.sendFlits a pas).links.serial = s.links.serial := by rw [State.sendFlits_eq]
@[simp] theorem State.sendFlits_links_peerSlot (s : State) (a : Nat) (pas : List Nat) : (s.sendFlits a pas).links.peerSlot = s.links.peerSlot := by rw [State.sendFlits_eq]
@[simp] theorem State.sendFlits_links_peerHandle (s : State) (a : Nat) (pas : List Nat) : (s.sendFlits a pas).links.peerHandle = s.links.peerHandle := by rw [State.sendFlits_eq]
@[simp] theorem State.sendFlits_links_state (s : State) (a : Nat) (pas : List Nat) : (s.sendFlits a pas).links.state = s.links.state := by rw [State.sendFlits_eq]
@[simp] theorem State.sendFlits_links_rxSeq (s : State) (a : Nat) (pas : List Nat) : (s.sendFlits a pas).links.rxSeq = s.links.rxSeq := by rw [State.sendFlits_eq]
@[simp] theorem State.sendFlits_links_fails (s : State) (a : Nat) (pas : List Nat) : (s.sendFlits a pas).links.fails = s.links.fails := by rw [State.sendFlits_eq]
@[simp] theorem State.sendFlits_links_retrains (s : State) (a : Nat) (pas : List Nat) : (s.sendFlits a pas).links.retrains = s.links.retrains := by rw [State.sendFlits_eq]
@[simp] theorem State.sendFlits_links_txAck (s : State) (a : Nat) (pas : List Nat) : (s.sendFlits a pas).links.txAck = s.links.txAck := by rw [State.sendFlits_eq]
@[simp] theorem State.sendFlits_links_deadTimer (s : State) (a : Nat) (pas : List Nat) : (s.sendFlits a pas).links.deadTimer = s.links.deadTimer := by rw [State.sendFlits_eq]
@[simp] theorem State.sendFlits_links_snoops (s : State) (a : Nat) (pas : List Nat) : (s.sendFlits a pas).links.snoops = s.links.snoops := by rw [State.sendFlits_eq]
@[simp] theorem State.sendFlits_links_snoopLog (s : State) (a : Nat) (pas : List Nat) : (s.sendFlits a pas).links.snoopLog = s.links.snoopLog := by rw [State.sendFlits_eq]
@[simp] theorem State.sendFlits_links_routes (s : State) (a : Nat) (pas : List Nat) : (s.sendFlits a pas).links.routes = s.links.routes := by rw [State.sendFlits_eq]
@[simp] theorem State.sendFlits_links_taps (s : State) (a : Nat) (pas : List Nat) : (s.sendFlits a pas).links.taps = s.links.taps := by rw [State.sendFlits_eq]
@[simp] theorem State.sendFlits_links_credits (s : State) (a : Nat) (pas : List Nat) : (s.sendFlits a pas).links.credits = s.links.credits := by rw [State.sendFlits_eq]
@[simp] theorem State.sendFlits_links_staged (s : State) (a : Nat) (pas : List Nat) : (s.sendFlits a pas).links.staged = s.links.staged := by rw [State.sendFlits_eq]
@[simp] theorem State.sendFlits_links_naked (s : State) (a : Nat) (pas : List Nat) : (s.sendFlits a pas).links.naked = s.links.naked := by rw [State.sendFlits_eq]
@[simp] theorem State.sendFlits_links_copies (s : State) (a : Nat) (pas : List Nat) : (s.sendFlits a pas).links.copies = s.links.copies := by rw [State.sendFlits_eq]
@[simp] theorem State.sendFlits_links_revoked (s : State) (a : Nat) (pas : List Nat) : (s.sendFlits a pas).links.revoked = s.links.revoked := by rw [State.sendFlits_eq]
@[simp] theorem State.sendFlits_links_hostReply (s : State) (a : Nat) (pas : List Nat) : (s.sendFlits a pas).links.hostReply = s.links.hostReply := by rw [State.sendFlits_eq]

@[simp] theorem State.wakeWay_agenda (s : State) (a core pa : Nat) : (s.wakeWay a core pa).agenda = s.agenda := by rw [State.wakeWay_eq]
@[simp] theorem State.wakeWay_turn (s : State) (a core pa : Nat) : (s.wakeWay a core pa).turn = s.turn := by rw [State.wakeWay_eq]
@[simp] theorem State.wakeWay_tick (s : State) (a core pa : Nat) : (s.wakeWay a core pa).tick = s.tick := by rw [State.wakeWay_eq]
@[simp] theorem State.wakeWay_blk (s : State) (a core pa : Nat) : (s.wakeWay a core pa).blk = s.blk := by rw [State.wakeWay_eq]
@[simp] theorem State.wakeWay_grp (s : State) (a core pa : Nat) : (s.wakeWay a core pa).grp = s.grp := by rw [State.wakeWay_eq]
@[simp] theorem State.wakeWay_cur (s : State) (a core pa : Nat) : (s.wakeWay a core pa).cur = s.cur := by rw [State.wakeWay_eq]
@[simp] theorem State.wakeWay_blocks (s : State) (a core pa : Nat) : (s.wakeWay a core pa).blocks = s.blocks := by rw [State.wakeWay_eq]
@[simp] theorem State.wakeWay_mem (s : State) (a core pa : Nat) : (s.wakeWay a core pa).mem = s.mem := by rw [State.wakeWay_eq]
@[simp] theorem State.wakeWay_cores (s : State) (a core pa : Nat) : (s.wakeWay a core pa).cores = s.cores := by rw [State.wakeWay_eq]
@[simp] theorem State.wakeWay_hub (s : State) (a core pa : Nat) : (s.wakeWay a core pa).hub = s.hub := by rw [State.wakeWay_eq]
@[simp] theorem State.wakeWay_iso (s : State) (a core pa : Nat) : (s.wakeWay a core pa).iso = s.iso := by rw [State.wakeWay_eq]
@[simp] theorem State.wakeWay_mgmt (s : State) (a core pa : Nat) : (s.wakeWay a core pa).mgmt = s.mgmt := by rw [State.wakeWay_eq]
@[simp] theorem State.wakeWay_links_exports (s : State) (a core pa : Nat) : (s.wakeWay a core pa).links.exports = s.links.exports := by rw [State.wakeWay_eq]
@[simp] theorem State.wakeWay_links_serial (s : State) (a core pa : Nat) : (s.wakeWay a core pa).links.serial = s.links.serial := by rw [State.wakeWay_eq]
@[simp] theorem State.wakeWay_links_peerSlot (s : State) (a core pa : Nat) : (s.wakeWay a core pa).links.peerSlot = s.links.peerSlot := by rw [State.wakeWay_eq]
@[simp] theorem State.wakeWay_links_peerHandle (s : State) (a core pa : Nat) : (s.wakeWay a core pa).links.peerHandle = s.links.peerHandle := by rw [State.wakeWay_eq]
@[simp] theorem State.wakeWay_links_rxSeq (s : State) (a core pa : Nat) : (s.wakeWay a core pa).links.rxSeq = s.links.rxSeq := by rw [State.wakeWay_eq]
@[simp] theorem State.wakeWay_links_fails (s : State) (a core pa : Nat) : (s.wakeWay a core pa).links.fails = s.links.fails := by rw [State.wakeWay_eq]
@[simp] theorem State.wakeWay_links_retrains (s : State) (a core pa : Nat) : (s.wakeWay a core pa).links.retrains = s.links.retrains := by rw [State.wakeWay_eq]
@[simp] theorem State.wakeWay_links_txAck (s : State) (a core pa : Nat) : (s.wakeWay a core pa).links.txAck = s.links.txAck := by rw [State.wakeWay_eq]
@[simp] theorem State.wakeWay_links_txSeq (s : State) (a core pa : Nat) : (s.wakeWay a core pa).links.txSeq = s.links.txSeq := by rw [State.wakeWay_eq]
@[simp] theorem State.wakeWay_links_replay (s : State) (a core pa : Nat) : (s.wakeWay a core pa).links.replay = s.links.replay := by rw [State.wakeWay_eq]
@[simp] theorem State.wakeWay_links_snoops (s : State) (a core pa : Nat) : (s.wakeWay a core pa).links.snoops = s.links.snoops := by rw [State.wakeWay_eq]
@[simp] theorem State.wakeWay_links_snoopLog (s : State) (a core pa : Nat) : (s.wakeWay a core pa).links.snoopLog = s.links.snoopLog := by rw [State.wakeWay_eq]
@[simp] theorem State.wakeWay_links_routes (s : State) (a core pa : Nat) : (s.wakeWay a core pa).links.routes = s.links.routes := by rw [State.wakeWay_eq]
@[simp] theorem State.wakeWay_links_taps (s : State) (a core pa : Nat) : (s.wakeWay a core pa).links.taps = s.links.taps := by rw [State.wakeWay_eq]
@[simp] theorem State.wakeWay_links_credits (s : State) (a core pa : Nat) : (s.wakeWay a core pa).links.credits = s.links.credits := by rw [State.wakeWay_eq]
@[simp] theorem State.wakeWay_links_staged (s : State) (a core pa : Nat) : (s.wakeWay a core pa).links.staged = s.links.staged := by rw [State.wakeWay_eq]
@[simp] theorem State.wakeWay_links_naked (s : State) (a core pa : Nat) : (s.wakeWay a core pa).links.naked = s.links.naked := by rw [State.wakeWay_eq]
@[simp] theorem State.wakeWay_links_copies (s : State) (a core pa : Nat) : (s.wakeWay a core pa).links.copies = s.links.copies := by rw [State.wakeWay_eq]
@[simp] theorem State.wakeWay_links_revoked (s : State) (a core pa : Nat) : (s.wakeWay a core pa).links.revoked = s.links.revoked := by rw [State.wakeWay_eq]
@[simp] theorem State.wakeWay_links_hostReply (s : State) (a core pa : Nat) : (s.wakeWay a core pa).links.hostReply = s.links.hostReply := by rw [State.wakeWay_eq]

end Sys2Proof.Machine
end

