-- ==== Sys2Proof/Laws/Memory.lean ====
section
/-! SUPPORT. Memory: a read after a write, what a write at its home leaves alone, and that every operation over memory
keeps its one form. -/

namespace Sys2Proof.Machine

/-! ## Contents -/

/-- Does a byte written at a place go to HBM beneath a line of the L2 slice (R197)? -/
def State.under (s : State) (at_ : Nat × Nat) : Bool := uncached at_.2 && (s.l2Entry (at_.1 / 64)).isSome

/-- A read of a home after a write of one byte. -/
theorem homeByte_pokeByte (s : State) (core : Nat) (at_ : Nat × Nat) (v : Byte) (a : Nat) :
    (s.pokeByte core at_ v).homeByte a = if a = at_.1 ∧ s.under at_ = false then v else s.homeByte a := by
  unfold State.homeByte State.pokeByte State.under
  dsimp only
  cases h : uncached at_.2 && (s.l2Entry (at_.1 / 64)).isSome
  · simp [sget_sset]
  · simp

theorem homeByte_of_bytes {s t : State} (h : t.mem.bytes = s.mem.bytes) (a : Nat) : t.homeByte a = s.homeByte a := by
  unfold State.homeByte; rw [h]

/-- Writes leave every byte alone at whose place none goes. -/
theorem homeByte_pokeBytes (core : Nat) : ∀ (ws : List ((Nat × Nat) × Byte)) (s : State) (a : Nat),
    (∀ w ∈ ws, w.1.1 ≠ a) → (s.pokeBytes core ws).homeByte a = s.homeByte a
  | [], _, _, _ => rfl
  | (p, v) :: rest, s, a, h => by
    show ((s.pokeByte core p v).pokeBytes core rest).homeByte a = _
    rw [homeByte_pokeBytes core rest _ a fun w hw => h w (List.mem_cons_of_mem _ hw), homeByte_pokeByte, if_neg]
    exact fun e => h (p, v) (List.mem_cons_self ..) e.1.symm

/-! ## Lines (R196, R346) -/

@[simp] theorem State.tagLine_bytes (s : State) (line : Nat) (c : Bool) (bs : List Byte) :
    (s.tagLine line c bs).mem.bytes = s.mem.bytes := rfl
@[simp] theorem State.tagLine_l2 (s : State) (line : Nat) (c : Bool) (bs : List Byte) :
    (s.tagLine line c bs).mem.l2 = s.mem.l2 := rfl
@[simp] theorem State.writeBackLine_bytes (s : State) (e : L2Line) : (s.writeBackLine e).mem.bytes = s.mem.bytes := rfl
@[simp] theorem State.setL2_bytes (s : State) (e : L2Line) : (s.setL2 e).mem.bytes = s.mem.bytes := rfl
@[simp] theorem State.rekey_bytes (s : State) (line mark : Nat) : (s.rekey line mark).mem.bytes = s.mem.bytes := by
  unfold State.rekey; dsimp only; split <;> rfl
@[simp] theorem State.rekey_l2 (s : State) (line mark : Nat) : (s.rekey line mark).mem.l2 = s.mem.l2 := by
  unfold State.rekey; dsimp only; split <;> rfl

@[simp] theorem State.dropStale_bytes (s : State) (line : Nat) : (s.dropStale line).mem.bytes = s.mem.bytes := rfl
@[simp] theorem State.keepStale_bytes (s : State) (mark line : Nat) : (s.keepStale mark line).mem.bytes = s.mem.bytes := by
  unfold State.keepStale; split <;> rfl

@[simp] theorem State.openLine_bytes (s : State) (mark cp line : Nat) : (s.openLine mark cp line).mem.bytes = s.mem.bytes := by
  unfold State.openLine
  split
  · rfl
  · split
    · split
      · rfl
      · dsimp only; split <;> simp
    · split
      · simp
      · split <;> simp

@[simp] theorem State.sealLine_bytes (s : State) (cp line : Nat) : (s.sealLine cp line).mem.bytes = s.mem.bytes := by
  unfold State.sealLine
  split
  · rfl
  · split
    · split <;> rfl
    · rfl

/-- A fold of operations each of which leaves something leaves it. -/
theorem foldl_keeps {α β γ : Type} (p : α → γ) (f : α → β → α) (hf : ∀ a b, p (f a b) = p a) : ∀ (l : List β) (a : α),
    p (l.foldl f a) = p a
  | [], _ => rfl
  | b :: l, a => (foldl_keeps p f hf l (f a b)).trans (hf a b)

@[simp] theorem State.clean_bytes (s : State) (named : Nat → Bool) : (s.clean named).mem.bytes = s.mem.bytes :=
  foldl_keeps (fun t : State => t.mem.bytes) State.writeBackLine (fun _ _ => rfl) (s.mem.l2.filter fun e => named e.line) s

/-! ## Telling the watchers -/

/-- Telling the agents that watch a line leaves memory alone. -/
@[simp] theorem State.notify_mem (s : State) (who : Who) (spad : Bool) (line : Nat) : (s.notify who spad line).mem = s.mem := by
  unfold State.notify; dsimp only; split <;> rfl

@[simp] theorem State.dropCopies_bytes (s : State) (die line : Nat) : (s.dropCopies die line).mem.bytes = s.mem.bytes := rfl

@[simp] theorem State.endSnoops_bytes (s : State) (l code : Nat) : (s.endSnoops l code).mem.bytes = s.mem.bytes :=
  foldl_keeps (fun t : State => t.mem.bytes) (fun (u : State) (x : Nat × Nat × Nat) => if l < 40 then u.dropCopies l x.2.1 else u)
    (fun t x => by split <;> rfl) (s.links.snoops.filter (·.1 == l)) s

@[simp] theorem State.snoop_bytes (s : State) (link line m : Nat) : (s.snoop link line m).mem.bytes = s.mem.bytes := by
  unfold State.snoop; dsimp only; split
  · simp
  · rfl
  · rfl

@[simp] theorem State.snoopOthers_bytes (s : State) (core line : Nat) : (s.snoopOthers core line).mem.bytes = s.mem.bytes := by
  unfold State.snoopOthers State.snoopAway
  dsimp only
  refine (foldl_keeps (fun t : State => t.mem.bytes) _ (fun t d => ?_) _ _).trans ?_
  · split
    · rfl
    · exact State.snoop_bytes ..
  · exact foldl_keeps (fun t : State => t.mem.bytes) _ (fun t d => State.snoop_bytes t d line 0) _ s

theorem bytes_pokeBytes_congr (core : Nat) : ∀ (ws : List ((Nat × Nat) × Byte)) {s t : State},
    s.mem.bytes = t.mem.bytes → s.mem.l2 = t.mem.l2 → (s.pokeBytes core ws).mem.bytes = (t.pokeBytes core ws).mem.bytes
  | [], _, _, h, _ => h
  | (p, v) :: rest, s, t, h, h2 => bytes_pokeBytes_congr core rest
      (by unfold State.pokeByte State.l2Entry; dsimp only; rw [h, h2])
      (by unfold State.pokeByte State.l2Entry; dsimp only; rw [h2])

/-- A write performed at its home is its bytes poked, once its lines are open. -/
theorem bytes_perform (s : State) (who : Who) (asid core : Nat) (ws : List ((Nat × Nat) × Byte)) :
    ∃ t : State, t.mem.bytes = s.mem.bytes ∧ (s.perform who asid core ws).mem.bytes = (t.pokeBytes core ws).mem.bytes := by
  unfold State.perform
  extract_lets ls whole s1 m1 s2 s3
  refine ⟨s2, ?_, ?_⟩
  · exact foldl_keeps (fun t : State => t.mem.bytes) _ (fun t x => State.openLine_bytes ..) _ s
  · refine (foldl_keeps (fun t : State => t.mem.bytes) _ (fun t l => ?_) _ s3).trans ?_
    · simp
    · exact foldl_keeps (fun t : State => t.mem.bytes) _ (fun t x => State.sealLine_bytes ..) _ _

/-- A write performed at its home leaves every byte alone at whose place it writes none. -/
theorem homeByte_perform (s : State) (who : Who) (asid core : Nat) (ws : List ((Nat × Nat) × Byte)) (a : Nat)
    (h : ∀ w ∈ ws, w.1.1 ≠ a) : (s.perform who asid core ws).homeByte a = s.homeByte a := by
  obtain ⟨t, h1, h2⟩ := bytes_perform s who asid core ws
  rw [homeByte_of_bytes h2, homeByte_pokeBytes core ws t a h, homeByte_of_bytes h1]

/-- A scratchpad write leaves memory's contents alone. -/
@[simp] theorem State.performSpad_bytes (s : State) (who : Who) (ws : List (Nat × Byte)) :
    (s.performSpad who ws).mem.bytes = s.mem.bytes := by
  unfold State.performSpad
  dsimp only
  exact foldl_keeps (fun t : State => t.mem.bytes) _ (fun t l => by simp) _ _

/-! ## The one form of memory -/

theorem wf_of_bytes {s t : State} (h : t.mem.bytes = s.mem.bytes) (hs : s.mem.wf) : t.mem.wf := by
  unfold Memory.wf at *; rwa [h]

theorem wf_pokeByte {s : State} (h : s.mem.wf) (core : Nat) (at_ : Nat × Nat) (v : Byte) : (s.pokeByte core at_ v).mem.wf := by
  unfold State.pokeByte Memory.wf
  dsimp only
  split
  · exact h
  · exact canonical_sset h _ v

theorem wf_pokeBytes (core : Nat) : ∀ (ws : List ((Nat × Nat) × Byte)) {s : State}, s.mem.wf →
    (s.pokeBytes core ws).mem.wf
  | [], _, h => h
  | (p, v) :: rest, _, h => wf_pokeBytes core rest (wf_pokeByte h core p v)

theorem wf_perform {s : State} (h : s.mem.wf) (who : Who) (asid core : Nat) (ws : List ((Nat × Nat) × Byte)) :
    (s.perform who asid core ws).mem.wf := by
  obtain ⟨t, h1, h2⟩ := bytes_perform s who asid core ws
  exact wf_of_bytes h2 (wf_pokeBytes core ws (wf_of_bytes h1 h))

theorem wf_performSpad {s : State} (h : s.mem.wf) (who : Who) (ws : List (Nat × Byte)) : (s.performSpad who ws).mem.wf :=
  wf_of_bytes (by simp) h

theorem wf_clean {s : State} (h : s.mem.wf) (named : Nat → Bool) : (s.clean named).mem.wf := wf_of_bytes (by simp) h

/-- A fold of operations each of which keeps the form keeps it. -/
theorem wf_foldl {β : Type} (f : State → β → State) (hf : ∀ s b, s.mem.wf → (f s b).mem.wf) :
    ∀ (l : List β) {s : State}, s.mem.wf → (l.foldl f s).mem.wf
  | [], _, h => h
  | b :: l, _, h => wf_foldl f hf l (hf _ b h)

theorem wf_performHeld {s : State} (h : s.mem.wf) (who : Who) (asid core : Nat) (hs : List HeldByte) :
    (s.performHeld who asid core hs).mem.wf := by
  unfold State.performHeld
  extract_lets sp mm s1
  have h1 : s1.mem.wf := by
    show (ite _ s (s.performSpad who sp)).mem.wf
    split
    · exact h
    · exact wf_performSpad h ..
  split
  · exact h1
  · exact wf_perform h1 ..

/-- A change of focus moves groups alone. -/
theorem mem_unfocus (s : State) : s.unfocus.mem = s.mem := rfl

theorem mem_focus {s t : State} {core slot spl : Nat} (h : s.focus core slot spl = some t) : t.mem = s.mem := by
  unfold State.focus at h
  dsimp only at h
  split at h
  · cases h
  · split at h <;> cases h
    rfl

/-- Work done at another group's place keeps the form if it does there. -/
theorem wf_atGroup {s : State} (h : s.mem.wf) (core slot spl : Nat) (f : State → State)
    (hf : ∀ t : State, t.mem.wf → (f t).mem.wf) : (s.atGroup core slot spl f).mem.wf := by
  unfold State.atGroup
  split
  · exact h
  · rename_i t ht
    have h1 : (f t).mem.wf := hf t (by rw [mem_focus ht]; exact h)
    dsimp only
    split
    · rw [mem_unfocus]; exact h1
    · cases hg : (f t).focus s.blk.core s.grp.slot s.cur with
      | none => exact h1
      | some u => show u.mem.wf; rw [mem_focus hg]; exact h1

theorem mem_updGroup (s : State) (core slot : Nat) (f : Group → Group) : (s.updGroup core slot f).mem = s.mem := by
  unfold State.updGroup; dsimp only; split <;> rfl

theorem wf_failRequest {s : State} (h : s.mem.wf) (q : Request) (t : TrapInfo) : (s.failRequest q t).mem.wf := by
  unfold State.failRequest; dsimp only
  split
  · unfold State.remove; split <;> exact h
  · rw [mem_updGroup]; exact h

theorem wf_landSpad {s : State} (h : s.mem.wf) (k : Nat) (r : Request) : (s.landSpad k r).mem.wf := by
  refine wf_atGroup h _ _ _ _ fun t ht => ?_
  split
  · exact ht
  · split
    · exact wf_failRequest ht ..
    · exact wf_of_bytes (State.performSpad_bytes ..) ht

theorem wf_acceptRed {s : State} (h : s.mem.wf) (r : Request) : (s.acceptRed r).mem.wf := by
  unfold State.acceptRed; dsimp only
  split
  · exact h
  · rw [mem_updGroup]; exact h

/-- A request at its home keeps the form, whatever becomes of it. -/
theorem wf_arriveHome {s : State} (h : s.mem.wf) (k : Nat) : (s.arriveHome k).mem.wf := by
  unfold State.arriveHome
  split
  · exact h
  · rename_i r _
    extract_lets mine
    split
    · exact h
    · split
      · exact wf_landSpad h ..
      · split
        · exact h
        · split
          · split <;> exact h
          · split
            · exact h
            · have h1 : ∀ (t : State) a pa, t.mem.wf → (t.sendFlit a pa).mem.wf := by
                intro t a pa ht; rw [State.sendFlit_eq]; exact ht
              have h2 := h1 { s with mem := { s.mem with requests := s.mem.requests.eraseIdx k } } r.asid r.pa h
              split
              · exact wf_acceptRed h2 r
              · split
                · exact h
                · exact wf_perform h2 ..

theorem wf_saveWrite {s : State} (h : s.mem.wf) (asid va : Nat) (bs : List Byte) : (s.saveWrite asid va bs).mem.wf := by
  unfold State.saveWrite
  refine wf_foldl _ (fun t x ht => ?_) _ h
  split
  · exact wf_perform ht ..
  · exact ht

theorem wf_writePhys {s : State} (h : s.mem.wf) (asid pa : Nat) (bs : List Byte) : (s.writePhys asid pa bs).mem.wf :=
  wf_perform h ..

theorem wf_outsideWrite {s : State} (h : s.mem.wf) (i : Instr) (asid cp pa : Nat) (data : List (BitVec 8)) :
    (s.outsideWrite i asid cp pa data).mem.wf := by
  unfold State.outsideWrite
  dsimp only
  split
  · exact h
  · split
    · exact h
    · exact wf_perform h ..

/-- A line lost with its slice keeps the form: the bytes that HBM holds below it are put back one by one. -/
theorem wf_loseLine {s : State} (h : s.mem.wf) (e : L2Line) : (s.loseLine e).mem.wf :=
  canonical_foldl_sset (fun j => 64 * e.line + j) (fun j => e.below.getD j 0) _ h

theorem wf_resetSlices {s : State} (h : s.mem.wf) (m : Nat) : (s.resetSlices m).mem.wf := by
  unfold State.resetSlices
  exact wf_clean (wf_foldl _ (fun t e ht => wf_loseLine ht e) _ h) _

/-- Placing a word keeps the form. -/
theorem wf_withWordAt {s : State} (h : s.mem.wf) (w : Word) : (s.withWordAt w).mem.wf :=
  canonical_foldl_sset (fun x : Nat × Byte => x.1) (fun x => x.2) _ h

theorem wf_coldReset {s : State} (h : s.mem.wf) : s.coldReset.mem.wf := by
  unfold State.coldReset
  dsimp only
  split <;> exact canonical_filter h _

end Sys2Proof.Machine
end

