-- ==== Sys2Proof/Laws/Device.lean ====
section
/-! SUPPORT. What the updates of links, of the management controller's records and of the counters leave as they were, and how
a move of the device's own keeps the work of every group. -/

namespace Sys2Proof.Machine

/-! ## Updates of links and of the controller's records -/

theorem State.withLinks_agenda (s : State) (l : Links) : ({ s with links := l } : State).agenda = s.agenda := rfl
theorem State.withLinks_turn (s : State) (l : Links) : ({ s with links := l } : State).turn = s.turn := rfl
theorem State.withLinks_tick (s : State) (l : Links) : ({ s with links := l } : State).tick = s.tick := rfl
theorem State.withLinks_blk (s : State) (l : Links) : ({ s with links := l } : State).blk = s.blk := rfl
theorem State.withLinks_grp (s : State) (l : Links) : ({ s with links := l } : State).grp = s.grp := rfl
theorem State.withLinks_cur (s : State) (l : Links) : ({ s with links := l } : State).cur = s.cur := rfl
theorem State.withLinks_blocks (s : State) (l : Links) : ({ s with links := l } : State).blocks = s.blocks := rfl
theorem State.withLinks_mem (s : State) (l : Links) : ({ s with links := l } : State).mem = s.mem := rfl
theorem State.withLinks_cores (s : State) (l : Links) : ({ s with links := l } : State).cores = s.cores := rfl
theorem State.withLinks_hub (s : State) (l : Links) : ({ s with links := l } : State).hub = s.hub := rfl
theorem State.withLinks_iso (s : State) (l : Links) : ({ s with links := l } : State).iso = s.iso := rfl
theorem State.withLinks_mgmt (s : State) (l : Links) : ({ s with links := l } : State).mgmt = s.mgmt := rfl
theorem State.withMgmt_agenda (s : State) (m : Management) : ({ s with mgmt := m } : State).agenda = s.agenda := rfl
theorem State.withMgmt_turn (s : State) (m : Management) : ({ s with mgmt := m } : State).turn = s.turn := rfl
theorem State.withMgmt_tick (s : State) (m : Management) : ({ s with mgmt := m } : State).tick = s.tick := rfl
theorem State.withMgmt_blk (s : State) (m : Management) : ({ s with mgmt := m } : State).blk = s.blk := rfl
theorem State.withMgmt_grp (s : State) (m : Management) : ({ s with mgmt := m } : State).grp = s.grp := rfl
theorem State.withMgmt_cur (s : State) (m : Management) : ({ s with mgmt := m } : State).cur = s.cur := rfl
theorem State.withMgmt_blocks (s : State) (m : Management) : ({ s with mgmt := m } : State).blocks = s.blocks := rfl
theorem State.withMgmt_mem (s : State) (m : Management) : ({ s with mgmt := m } : State).mem = s.mem := rfl
theorem State.withMgmt_cores (s : State) (m : Management) : ({ s with mgmt := m } : State).cores = s.cores := rfl
theorem State.withMgmt_hub (s : State) (m : Management) : ({ s with mgmt := m } : State).hub = s.hub := rfl
theorem State.withMgmt_iso (s : State) (m : Management) : ({ s with mgmt := m } : State).iso = s.iso := rfl
theorem State.withMgmt_links (s : State) (m : Management) : ({ s with mgmt := m } : State).links = s.links := rfl

@[simp] theorem State.setLink_agenda (s : State) (l st : Nat) : (s.setLink l st).agenda = s.agenda := rfl
@[simp] theorem State.setLink_turn (s : State) (l st : Nat) : (s.setLink l st).turn = s.turn := rfl
@[simp] theorem State.setLink_tick (s : State) (l st : Nat) : (s.setLink l st).tick = s.tick := rfl
@[simp] theorem State.setLink_blk (s : State) (l st : Nat) : (s.setLink l st).blk = s.blk := rfl
@[simp] theorem State.setLink_grp (s : State) (l st : Nat) : (s.setLink l st).grp = s.grp := rfl
@[simp] theorem State.setLink_cur (s : State) (l st : Nat) : (s.setLink l st).cur = s.cur := rfl
@[simp] theorem State.setLink_blocks (s : State) (l st : Nat) : (s.setLink l st).blocks = s.blocks := rfl
@[simp] theorem State.setLink_mem (s : State) (l st : Nat) : (s.setLink l st).mem = s.mem := rfl
@[simp] theorem State.setLink_cores (s : State) (l st : Nat) : (s.setLink l st).cores = s.cores := rfl
@[simp] theorem State.setLink_hub (s : State) (l st : Nat) : (s.setLink l st).hub = s.hub := rfl
@[simp] theorem State.setLink_iso (s : State) (l st : Nat) : (s.setLink l st).iso = s.iso := rfl
@[simp] theorem State.setLink_mgmt (s : State) (l st : Nat) : (s.setLink l st).mgmt = s.mgmt := rfl

@[simp] theorem State.retrain_agenda (s : State) (l : Nat) : (s.retrain l).agenda = s.agenda := rfl
@[simp] theorem State.retrain_turn (s : State) (l : Nat) : (s.retrain l).turn = s.turn := rfl
@[simp] theorem State.retrain_tick (s : State) (l : Nat) : (s.retrain l).tick = s.tick := rfl
@[simp] theorem State.retrain_blk (s : State) (l : Nat) : (s.retrain l).blk = s.blk := rfl
@[simp] theorem State.retrain_grp (s : State) (l : Nat) : (s.retrain l).grp = s.grp := rfl
@[simp] theorem State.retrain_cur (s : State) (l : Nat) : (s.retrain l).cur = s.cur := rfl
@[simp] theorem State.retrain_blocks (s : State) (l : Nat) : (s.retrain l).blocks = s.blocks := rfl
@[simp] theorem State.retrain_mem (s : State) (l : Nat) : (s.retrain l).mem = s.mem := rfl
@[simp] theorem State.retrain_cores (s : State) (l : Nat) : (s.retrain l).cores = s.cores := rfl
@[simp] theorem State.retrain_hub (s : State) (l : Nat) : (s.retrain l).hub = s.hub := rfl
@[simp] theorem State.retrain_iso (s : State) (l : Nat) : (s.retrain l).iso = s.iso := rfl
@[simp] theorem State.retrain_mgmt (s : State) (l : Nat) : (s.retrain l).mgmt = s.mgmt := rfl

@[simp] theorem State.countPre_agenda (s : State) (k : Nat) : (s.countPre k).agenda = s.agenda := State.withLinks_agenda s _
@[simp] theorem State.countPre_turn (s : State) (k : Nat) : (s.countPre k).turn = s.turn := State.withLinks_turn s _
@[simp] theorem State.countPre_tick (s : State) (k : Nat) : (s.countPre k).tick = s.tick := State.withLinks_tick s _
@[simp] theorem State.countPre_blk (s : State) (k : Nat) : (s.countPre k).blk = s.blk := State.withLinks_blk s _
@[simp] theorem State.countPre_grp (s : State) (k : Nat) : (s.countPre k).grp = s.grp := State.withLinks_grp s _
@[simp] theorem State.countPre_cur (s : State) (k : Nat) : (s.countPre k).cur = s.cur := State.withLinks_cur s _
@[simp] theorem State.countPre_blocks (s : State) (k : Nat) : (s.countPre k).blocks = s.blocks := State.withLinks_blocks s _
@[simp] theorem State.countPre_mem (s : State) (k : Nat) : (s.countPre k).mem = s.mem := State.withLinks_mem s _
@[simp] theorem State.countPre_cores (s : State) (k : Nat) : (s.countPre k).cores = s.cores := State.withLinks_cores s _
@[simp] theorem State.countPre_hub (s : State) (k : Nat) : (s.countPre k).hub = s.hub := State.withLinks_hub s _
@[simp] theorem State.countPre_iso (s : State) (k : Nat) : (s.countPre k).iso = s.iso := State.withLinks_iso s _
@[simp] theorem State.countPre_mgmt (s : State) (k : Nat) : (s.countPre k).mgmt = s.mgmt := State.withLinks_mgmt s _

@[simp] theorem State.countError_agenda (s : State) (str : Nat) (bad : Bool) : (s.countError str bad).agenda = s.agenda := rfl
@[simp] theorem State.countError_turn (s : State) (str : Nat) (bad : Bool) : (s.countError str bad).turn = s.turn := rfl
@[simp] theorem State.countError_tick (s : State) (str : Nat) (bad : Bool) : (s.countError str bad).tick = s.tick := rfl
@[simp] theorem State.countError_blk (s : State) (str : Nat) (bad : Bool) : (s.countError str bad).blk = s.blk := rfl
@[simp] theorem State.countError_grp (s : State) (str : Nat) (bad : Bool) : (s.countError str bad).grp = s.grp := rfl
@[simp] theorem State.countError_cur (s : State) (str : Nat) (bad : Bool) : (s.countError str bad).cur = s.cur := rfl
@[simp] theorem State.countError_blocks (s : State) (str : Nat) (bad : Bool) : (s.countError str bad).blocks = s.blocks := rfl
@[simp] theorem State.countError_mem (s : State) (str : Nat) (bad : Bool) : (s.countError str bad).mem = s.mem := rfl
@[simp] theorem State.countError_cores (s : State) (str : Nat) (bad : Bool) : (s.countError str bad).cores = s.cores := rfl
@[simp] theorem State.countError_hub (s : State) (str : Nat) (bad : Bool) : (s.countError str bad).hub = s.hub := rfl
@[simp] theorem State.countError_iso (s : State) (str : Nat) (bad : Bool) : (s.countError str bad).iso = s.iso := rfl
@[simp] theorem State.countError_links (s : State) (str : Nat) (bad : Bool) : (s.countError str bad).links = s.links := rfl

@[simp] theorem State.setPoint_agenda (s : State) (die mhz reason : Nat) : (s.setPoint die mhz reason).agenda = s.agenda := State.withMgmt_agenda s _
@[simp] theorem State.setPoint_turn (s : State) (die mhz reason : Nat) : (s.setPoint die mhz reason).turn = s.turn := State.withMgmt_turn s _
@[simp] theorem State.setPoint_tick (s : State) (die mhz reason : Nat) : (s.setPoint die mhz reason).tick = s.tick := State.withMgmt_tick s _
@[simp] theorem State.setPoint_blk (s : State) (die mhz reason : Nat) : (s.setPoint die mhz reason).blk = s.blk := State.withMgmt_blk s _
@[simp] theorem State.setPoint_grp (s : State) (die mhz reason : Nat) : (s.setPoint die mhz reason).grp = s.grp := State.withMgmt_grp s _
@[simp] theorem State.setPoint_cur (s : State) (die mhz reason : Nat) : (s.setPoint die mhz reason).cur = s.cur := State.withMgmt_cur s _
@[simp] theorem State.setPoint_blocks (s : State) (die mhz reason : Nat) : (s.setPoint die mhz reason).blocks = s.blocks := State.withMgmt_blocks s _
@[simp] theorem State.setPoint_mem (s : State) (die mhz reason : Nat) : (s.setPoint die mhz reason).mem = s.mem := State.withMgmt_mem s _
@[simp] theorem State.setPoint_cores (s : State) (die mhz reason : Nat) : (s.setPoint die mhz reason).cores = s.cores := State.withMgmt_cores s _
@[simp] theorem State.setPoint_hub (s : State) (die mhz reason : Nat) : (s.setPoint die mhz reason).hub = s.hub := State.withMgmt_hub s _
@[simp] theorem State.setPoint_iso (s : State) (die mhz reason : Nat) : (s.setPoint die mhz reason).iso = s.iso := State.withMgmt_iso s _
@[simp] theorem State.setPoint_links (s : State) (die mhz reason : Nat) : (s.setPoint die mhz reason).links = s.links := State.withMgmt_links s _

@[simp] theorem State.setTemp_agenda (s : State) (die temp : Nat) : (s.setTemp die temp).agenda = s.agenda := State.withMgmt_agenda s _
@[simp] theorem State.setTemp_turn (s : State) (die temp : Nat) : (s.setTemp die temp).turn = s.turn := State.withMgmt_turn s _
@[simp] theorem State.setTemp_tick (s : State) (die temp : Nat) : (s.setTemp die temp).tick = s.tick := State.withMgmt_tick s _
@[simp] theorem State.setTemp_blk (s : State) (die temp : Nat) : (s.setTemp die temp).blk = s.blk := State.withMgmt_blk s _
@[simp] theorem State.setTemp_grp (s : State) (die temp : Nat) : (s.setTemp die temp).grp = s.grp := State.withMgmt_grp s _
@[simp] theorem State.setTemp_cur (s : State) (die temp : Nat) : (s.setTemp die temp).cur = s.cur := State.withMgmt_cur s _
@[simp] theorem State.setTemp_blocks (s : State) (die temp : Nat) : (s.setTemp die temp).blocks = s.blocks := State.withMgmt_blocks s _
@[simp] theorem State.setTemp_mem (s : State) (die temp : Nat) : (s.setTemp die temp).mem = s.mem := State.withMgmt_mem s _
@[simp] theorem State.setTemp_cores (s : State) (die temp : Nat) : (s.setTemp die temp).cores = s.cores := State.withMgmt_cores s _
@[simp] theorem State.setTemp_hub (s : State) (die temp : Nat) : (s.setTemp die temp).hub = s.hub := State.withMgmt_hub s _
@[simp] theorem State.setTemp_iso (s : State) (die temp : Nat) : (s.setTemp die temp).iso = s.iso := State.withMgmt_iso s _
@[simp] theorem State.setTemp_links (s : State) (die temp : Nat) : (s.setTemp die temp).links = s.links := State.withMgmt_links s _

@[simp] theorem State.takeFlit_agenda (s : State) (port : Nat) (flit : List Byte) : (s.takeFlit port flit).agenda = s.agenda := rfl
@[simp] theorem State.takeFlit_turn (s : State) (port : Nat) (flit : List Byte) : (s.takeFlit port flit).turn = s.turn := rfl
@[simp] theorem State.takeFlit_tick (s : State) (port : Nat) (flit : List Byte) : (s.takeFlit port flit).tick = s.tick := rfl
@[simp] theorem State.takeFlit_blk (s : State) (port : Nat) (flit : List Byte) : (s.takeFlit port flit).blk = s.blk := rfl
@[simp] theorem State.takeFlit_grp (s : State) (port : Nat) (flit : List Byte) : (s.takeFlit port flit).grp = s.grp := rfl
@[simp] theorem State.takeFlit_cur (s : State) (port : Nat) (flit : List Byte) : (s.takeFlit port flit).cur = s.cur := rfl
@[simp] theorem State.takeFlit_blocks (s : State) (port : Nat) (flit : List Byte) : (s.takeFlit port flit).blocks = s.blocks := rfl
@[simp] theorem State.takeFlit_mem (s : State) (port : Nat) (flit : List Byte) : (s.takeFlit port flit).mem = s.mem := rfl
@[simp] theorem State.takeFlit_cores (s : State) (port : Nat) (flit : List Byte) : (s.takeFlit port flit).cores = s.cores := rfl
@[simp] theorem State.takeFlit_hub (s : State) (port : Nat) (flit : List Byte) : (s.takeFlit port flit).hub = s.hub := rfl
@[simp] theorem State.takeFlit_iso (s : State) (port : Nat) (flit : List Byte) : (s.takeFlit port flit).iso = s.iso := rfl
@[simp] theorem State.takeFlit_mgmt (s : State) (port : Nat) (flit : List Byte) : (s.takeFlit port flit).mgmt = s.mgmt := rfl

@[simp] theorem State.replayFrom_agenda (s : State) (port ack : Nat) : (s.replayFrom port ack).agenda = s.agenda := rfl
@[simp] theorem State.replayFrom_turn (s : State) (port ack : Nat) : (s.replayFrom port ack).turn = s.turn := rfl
@[simp] theorem State.replayFrom_tick (s : State) (port ack : Nat) : (s.replayFrom port ack).tick = s.tick := rfl
@[simp] theorem State.replayFrom_blk (s : State) (port ack : Nat) : (s.replayFrom port ack).blk = s.blk := rfl
@[simp] theorem State.replayFrom_grp (s : State) (port ack : Nat) : (s.replayFrom port ack).grp = s.grp := rfl
@[simp] theorem State.replayFrom_cur (s : State) (port ack : Nat) : (s.replayFrom port ack).cur = s.cur := rfl
@[simp] theorem State.replayFrom_blocks (s : State) (port ack : Nat) : (s.replayFrom port ack).blocks = s.blocks := rfl
@[simp] theorem State.replayFrom_mem (s : State) (port ack : Nat) : (s.replayFrom port ack).mem = s.mem := rfl
@[simp] theorem State.replayFrom_cores (s : State) (port ack : Nat) : (s.replayFrom port ack).cores = s.cores := rfl
@[simp] theorem State.replayFrom_hub (s : State) (port ack : Nat) : (s.replayFrom port ack).hub = s.hub := rfl
@[simp] theorem State.replayFrom_iso (s : State) (port ack : Nat) : (s.replayFrom port ack).iso = s.iso := rfl
@[simp] theorem State.replayFrom_mgmt (s : State) (port ack : Nat) : (s.replayFrom port ack).mgmt = s.mgmt := rfl

@[simp] theorem State.answerHost_agenda (s : State) (bs : List Byte) (poison : Bool) : (s.answerHost bs poison).agenda = s.agenda := rfl
@[simp] theorem State.answerHost_turn (s : State) (bs : List Byte) (poison : Bool) : (s.answerHost bs poison).turn = s.turn := rfl
@[simp] theorem State.answerHost_tick (s : State) (bs : List Byte) (poison : Bool) : (s.answerHost bs poison).tick = s.tick := rfl
@[simp] theorem State.answerHost_blk (s : State) (bs : List Byte) (poison : Bool) : (s.answerHost bs poison).blk = s.blk := rfl
@[simp] theorem State.answerHost_grp (s : State) (bs : List Byte) (poison : Bool) : (s.answerHost bs poison).grp = s.grp := rfl
@[simp] theorem State.answerHost_cur (s : State) (bs : List Byte) (poison : Bool) : (s.answerHost bs poison).cur = s.cur := rfl
@[simp] theorem State.answerHost_blocks (s : State) (bs : List Byte) (poison : Bool) : (s.answerHost bs poison).blocks = s.blocks := rfl
@[simp] theorem State.answerHost_mem (s : State) (bs : List Byte) (poison : Bool) : (s.answerHost bs poison).mem = s.mem := rfl
@[simp] theorem State.answerHost_cores (s : State) (bs : List Byte) (poison : Bool) : (s.answerHost bs poison).cores = s.cores := rfl
@[simp] theorem State.answerHost_hub (s : State) (bs : List Byte) (poison : Bool) : (s.answerHost bs poison).hub = s.hub := rfl
@[simp] theorem State.answerHost_iso (s : State) (bs : List Byte) (poison : Bool) : (s.answerHost bs poison).iso = s.iso := rfl
@[simp] theorem State.answerHost_mgmt (s : State) (bs : List Byte) (poison : Bool) : (s.answerHost bs poison).mgmt = s.mgmt := rfl

@[simp] theorem State.endCmd_agenda (s : State) (fn code : Nat) (res : DWord) : (s.endCmd fn code res).agenda = s.agenda := rfl
@[simp] theorem State.endCmd_turn (s : State) (fn code : Nat) (res : DWord) : (s.endCmd fn code res).turn = s.turn := rfl
@[simp] theorem State.endCmd_tick (s : State) (fn code : Nat) (res : DWord) : (s.endCmd fn code res).tick = s.tick := rfl
@[simp] theorem State.endCmd_blk (s : State) (fn code : Nat) (res : DWord) : (s.endCmd fn code res).blk = s.blk := rfl
@[simp] theorem State.endCmd_grp (s : State) (fn code : Nat) (res : DWord) : (s.endCmd fn code res).grp = s.grp := rfl
@[simp] theorem State.endCmd_cur (s : State) (fn code : Nat) (res : DWord) : (s.endCmd fn code res).cur = s.cur := rfl
@[simp] theorem State.endCmd_blocks (s : State) (fn code : Nat) (res : DWord) : (s.endCmd fn code res).blocks = s.blocks := rfl
@[simp] theorem State.endCmd_mem (s : State) (fn code : Nat) (res : DWord) : (s.endCmd fn code res).mem = s.mem := rfl
@[simp] theorem State.endCmd_cores (s : State) (fn code : Nat) (res : DWord) : (s.endCmd fn code res).cores = s.cores := rfl
@[simp] theorem State.endCmd_hub (s : State) (fn code : Nat) (res : DWord) : (s.endCmd fn code res).hub = s.hub := rfl
@[simp] theorem State.endCmd_iso (s : State) (fn code : Nat) (res : DWord) : (s.endCmd fn code res).iso = s.iso := rfl
@[simp] theorem State.endCmd_links (s : State) (fn code : Nat) (res : DWord) : (s.endCmd fn code res).links = s.links := rfl

@[simp] theorem State.setExport_agenda (s : State) (idx : Nat) (ws : List DWord) : (s.setExport idx ws).agenda = s.agenda := rfl
@[simp] theorem State.setExport_turn (s : State) (idx : Nat) (ws : List DWord) : (s.setExport idx ws).turn = s.turn := rfl
@[simp] theorem State.setExport_tick (s : State) (idx : Nat) (ws : List DWord) : (s.setExport idx ws).tick = s.tick := rfl
@[simp] theorem State.setExport_blk (s : State) (idx : Nat) (ws : List DWord) : (s.setExport idx ws).blk = s.blk := rfl
@[simp] theorem State.setExport_grp (s : State) (idx : Nat) (ws : List DWord) : (s.setExport idx ws).grp = s.grp := rfl
@[simp] theorem State.setExport_cur (s : State) (idx : Nat) (ws : List DWord) : (s.setExport idx ws).cur = s.cur := rfl
@[simp] theorem State.setExport_blocks (s : State) (idx : Nat) (ws : List DWord) : (s.setExport idx ws).blocks = s.blocks := rfl
@[simp] theorem State.setExport_mem (s : State) (idx : Nat) (ws : List DWord) : (s.setExport idx ws).mem = s.mem := rfl
@[simp] theorem State.setExport_cores (s : State) (idx : Nat) (ws : List DWord) : (s.setExport idx ws).cores = s.cores := rfl
@[simp] theorem State.setExport_hub (s : State) (idx : Nat) (ws : List DWord) : (s.setExport idx ws).hub = s.hub := rfl
@[simp] theorem State.setExport_iso (s : State) (idx : Nat) (ws : List DWord) : (s.setExport idx ws).iso = s.iso := rfl
@[simp] theorem State.setExport_mgmt (s : State) (idx : Nat) (ws : List DWord) : (s.setExport idx ws).mgmt = s.mgmt := rfl

@[simp] theorem State.failedImport_agenda (s : State) (idx : Nat) : (s.failedImport idx).agenda = s.agenda := rfl
@[simp] theorem State.failedImport_turn (s : State) (idx : Nat) : (s.failedImport idx).turn = s.turn := rfl
@[simp] theorem State.failedImport_tick (s : State) (idx : Nat) : (s.failedImport idx).tick = s.tick := rfl
@[simp] theorem State.failedImport_blk (s : State) (idx : Nat) : (s.failedImport idx).blk = s.blk := rfl
@[simp] theorem State.failedImport_grp (s : State) (idx : Nat) : (s.failedImport idx).grp = s.grp := rfl
@[simp] theorem State.failedImport_cur (s : State) (idx : Nat) : (s.failedImport idx).cur = s.cur := rfl
@[simp] theorem State.failedImport_blocks (s : State) (idx : Nat) : (s.failedImport idx).blocks = s.blocks := rfl
@[simp] theorem State.failedImport_mem (s : State) (idx : Nat) : (s.failedImport idx).mem = s.mem := rfl
@[simp] theorem State.failedImport_cores (s : State) (idx : Nat) : (s.failedImport idx).cores = s.cores := rfl
@[simp] theorem State.failedImport_hub (s : State) (idx : Nat) : (s.failedImport idx).hub = s.hub := rfl
@[simp] theorem State.failedImport_iso (s : State) (idx : Nat) : (s.failedImport idx).iso = s.iso := rfl
@[simp] theorem State.failedImport_mgmt (s : State) (idx : Nat) : (s.failedImport idx).mgmt = s.mgmt := rfl

@[simp] theorem State.doorbell_agenda (s : State) (fn : Nat) : (s.doorbell fn).agenda = s.agenda := by
  unfold State.doorbell; split <;> rfl
@[simp] theorem State.doorbell_turn (s : State) (fn : Nat) : (s.doorbell fn).turn = s.turn := by
  unfold State.doorbell; split <;> rfl
@[simp] theorem State.doorbell_tick (s : State) (fn : Nat) : (s.doorbell fn).tick = s.tick := by
  unfold State.doorbell; split <;> rfl
@[simp] theorem State.doorbell_blk (s : State) (fn : Nat) : (s.doorbell fn).blk = s.blk := by
  unfold State.doorbell; split <;> rfl
@[simp] theorem State.doorbell_grp (s : State) (fn : Nat) : (s.doorbell fn).grp = s.grp := by
  unfold State.doorbell; split <;> rfl
@[simp] theorem State.doorbell_cur (s : State) (fn : Nat) : (s.doorbell fn).cur = s.cur := by
  unfold State.doorbell; split <;> rfl
@[simp] theorem State.doorbell_blocks (s : State) (fn : Nat) : (s.doorbell fn).blocks = s.blocks := by
  unfold State.doorbell; split <;> rfl
@[simp] theorem State.doorbell_mem (s : State) (fn : Nat) : (s.doorbell fn).mem = s.mem := by
  unfold State.doorbell; split <;> rfl
@[simp] theorem State.doorbell_cores (s : State) (fn : Nat) : (s.doorbell fn).cores = s.cores := by
  unfold State.doorbell; split <;> rfl
@[simp] theorem State.doorbell_hub (s : State) (fn : Nat) : (s.doorbell fn).hub = s.hub := by
  unfold State.doorbell; split <;> rfl
@[simp] theorem State.doorbell_iso (s : State) (fn : Nat) : (s.doorbell fn).iso = s.iso := by
  unfold State.doorbell; split <;> rfl
@[simp] theorem State.doorbell_links (s : State) (fn : Nat) : (s.doorbell fn).links = s.links := by
  unfold State.doorbell; split <;> rfl

@[simp] theorem State.remove_agenda (s : State) (a c : Nat) : (s.remove a c).agenda = s.agenda := by
  unfold State.remove; split <;> rfl
@[simp] theorem State.remove_turn (s : State) (a c : Nat) : (s.remove a c).turn = s.turn := by
  unfold State.remove; split <;> rfl
@[simp] theorem State.remove_tick (s : State) (a c : Nat) : (s.remove a c).tick = s.tick := by
  unfold State.remove; split <;> rfl
@[simp] theorem State.remove_blk (s : State) (a c : Nat) : (s.remove a c).blk = s.blk := by
  unfold State.remove; split <;> rfl
@[simp] theorem State.remove_grp (s : State) (a c : Nat) : (s.remove a c).grp = s.grp := by
  unfold State.remove; split <;> rfl
@[simp] theorem State.remove_cur (s : State) (a c : Nat) : (s.remove a c).cur = s.cur := by
  unfold State.remove; split <;> rfl
@[simp] theorem State.remove_blocks (s : State) (a c : Nat) : (s.remove a c).blocks = s.blocks := by
  unfold State.remove; split <;> rfl
@[simp] theorem State.remove_mem (s : State) (a c : Nat) : (s.remove a c).mem = s.mem := by
  unfold State.remove; split <;> rfl
@[simp] theorem State.remove_cores (s : State) (a c : Nat) : (s.remove a c).cores = s.cores := by
  unfold State.remove; split <;> rfl
@[simp] theorem State.remove_hub (s : State) (a c : Nat) : (s.remove a c).hub = s.hub := by
  unfold State.remove; split <;> rfl
@[simp] theorem State.remove_iso (s : State) (a c : Nat) : (s.remove a c).iso = s.iso := by
  unfold State.remove; split <;> rfl
@[simp] theorem State.remove_links (s : State) (a c : Nat) : (s.remove a c).links = s.links := by
  unfold State.remove; split <;> rfl

@[simp] theorem State.leavePort_agenda (s : State) (p : Nat) : (s.leavePort p).agenda = s.agenda := rfl
@[simp] theorem State.leavePort_turn (s : State) (p : Nat) : (s.leavePort p).turn = s.turn := rfl
@[simp] theorem State.leavePort_tick (s : State) (p : Nat) : (s.leavePort p).tick = s.tick := rfl
@[simp] theorem State.leavePort_blk (s : State) (p : Nat) : (s.leavePort p).blk = s.blk := rfl
@[simp] theorem State.leavePort_grp (s : State) (p : Nat) : (s.leavePort p).grp = s.grp := rfl
@[simp] theorem State.leavePort_cur (s : State) (p : Nat) : (s.leavePort p).cur = s.cur := rfl
@[simp] theorem State.leavePort_blocks (s : State) (p : Nat) : (s.leavePort p).blocks = s.blocks := rfl
@[simp] theorem State.leavePort_cores (s : State) (p : Nat) : (s.leavePort p).cores = s.cores := rfl
@[simp] theorem State.leavePort_hub (s : State) (p : Nat) : (s.leavePort p).hub = s.hub := rfl
@[simp] theorem State.leavePort_iso (s : State) (p : Nat) : (s.leavePort p).iso = s.iso := rfl
@[simp] theorem State.leavePort_links (s : State) (p : Nat) : (s.leavePort p).links = s.links := rfl
@[simp] theorem State.leavePort_mgmt (s : State) (p : Nat) : (s.leavePort p).mgmt = s.mgmt := rfl
@[simp] theorem State.leavePort_mem_bytes (s : State) (p : Nat) : (s.leavePort p).mem.bytes = s.mem.bytes := rfl
@[simp] theorem State.leavePort_mem_l1 (s : State) (p : Nat) : (s.leavePort p).mem.l1 = s.mem.l1 := rfl
@[simp] theorem State.leavePort_mem_l1i (s : State) (p : Nat) : (s.leavePort p).mem.l1i = s.mem.l1i := rfl
@[simp] theorem State.leavePort_mem_tlb (s : State) (p : Nat) : (s.leavePort p).mem.tlb = s.mem.tlb := rfl
@[simp] theorem State.leavePort_mem_l2 (s : State) (p : Nat) : (s.leavePort p).mem.l2 = s.mem.l2 := rfl
@[simp] theorem State.leavePort_mem_stale (s : State) (p : Nat) : (s.leavePort p).mem.stale = s.mem.stale := rfl
@[simp] theorem State.leavePort_mem_compressed (s : State) (p : Nat) : (s.leavePort p).mem.compressed = s.mem.compressed := rfl
@[simp] theorem State.leavePort_mem_lineKey (s : State) (p : Nat) : (s.leavePort p).mem.lineKey = s.mem.lineKey := rfl
@[simp] theorem State.leavePort_mem_past (s : State) (p : Nat) : (s.leavePort p).mem.past = s.mem.past := rfl
@[simp] theorem State.leavePort_mem_upsets (s : State) (p : Nat) : (s.leavePort p).mem.upsets = s.mem.upsets := rfl
@[simp] theorem State.leavePort_mem_bindings (s : State) (p : Nat) : (s.leavePort p).mem.bindings = s.mem.bindings := rfl
@[simp] theorem State.leavePort_mem_hostLines (s : State) (p : Nat) : (s.leavePort p).mem.hostLines = s.mem.hostLines := rfl
@[simp] theorem State.leavePort_mem_held (s : State) (p : Nat) : (s.leavePort p).mem.held = s.mem.held := rfl

@[simp] theorem State.linkFails_agenda (s : State) (l : Nat) : (s.linkFails l).agenda = s.agenda := by
  unfold State.linkFails State.linkDown; dsimp only; split <;> simp
@[simp] theorem State.linkFails_turn (s : State) (l : Nat) : (s.linkFails l).turn = s.turn := by
  unfold State.linkFails State.linkDown; dsimp only; split <;> simp
@[simp] theorem State.linkFails_tick (s : State) (l : Nat) : (s.linkFails l).tick = s.tick := by
  unfold State.linkFails State.linkDown; dsimp only; split <;> simp
@[simp] theorem State.linkFails_blk (s : State) (l : Nat) : (s.linkFails l).blk = s.blk := by
  unfold State.linkFails State.linkDown; dsimp only; split <;> simp
@[simp] theorem State.linkFails_grp (s : State) (l : Nat) : (s.linkFails l).grp = s.grp := by
  unfold State.linkFails State.linkDown; dsimp only; split <;> simp
@[simp] theorem State.linkFails_cur (s : State) (l : Nat) : (s.linkFails l).cur = s.cur := by
  unfold State.linkFails State.linkDown; dsimp only; split <;> simp
@[simp] theorem State.linkFails_blocks (s : State) (l : Nat) : (s.linkFails l).blocks = s.blocks := by
  unfold State.linkFails State.linkDown; dsimp only; split <;> simp
@[simp] theorem State.linkFails_cores (s : State) (l : Nat) : (s.linkFails l).cores = s.cores := by
  unfold State.linkFails State.linkDown; dsimp only; split <;> simp
@[simp] theorem State.linkFails_hub (s : State) (l : Nat) : (s.linkFails l).hub = s.hub := by
  unfold State.linkFails State.linkDown; dsimp only; split <;> simp
@[simp] theorem State.linkFails_iso (s : State) (l : Nat) : (s.linkFails l).iso = s.iso := by
  unfold State.linkFails State.linkDown; dsimp only; split <;> simp
@[simp] theorem State.linkFails_mem_bytes (s : State) (l : Nat) : (s.linkFails l).mem.bytes = s.mem.bytes := by
  unfold State.linkFails State.linkDown; dsimp only; split <;> simp
@[simp] theorem State.linkFails_mem_l1 (s : State) (l : Nat) : (s.linkFails l).mem.l1 = s.mem.l1 := by
  unfold State.linkFails State.linkDown; dsimp only; split <;> simp
@[simp] theorem State.linkFails_mem_l1i (s : State) (l : Nat) : (s.linkFails l).mem.l1i = s.mem.l1i := by
  unfold State.linkFails State.linkDown; dsimp only; split <;> simp
@[simp] theorem State.linkFails_mem_tlb (s : State) (l : Nat) : (s.linkFails l).mem.tlb = s.mem.tlb := by
  unfold State.linkFails State.linkDown; dsimp only; split <;> simp
@[simp] theorem State.linkFails_mem_l2 (s : State) (l : Nat) : (s.linkFails l).mem.l2 = s.mem.l2 := by
  unfold State.linkFails State.linkDown; dsimp only; split <;> simp
@[simp] theorem State.linkFails_mem_stale (s : State) (l : Nat) : (s.linkFails l).mem.stale = s.mem.stale := by
  unfold State.linkFails State.linkDown; dsimp only; split <;> simp
@[simp] theorem State.linkFails_mem_compressed (s : State) (l : Nat) : (s.linkFails l).mem.compressed = s.mem.compressed := by
  unfold State.linkFails State.linkDown; dsimp only; split <;> simp
@[simp] theorem State.linkFails_mem_lineKey (s : State) (l : Nat) : (s.linkFails l).mem.lineKey = s.mem.lineKey := by
  unfold State.linkFails State.linkDown; dsimp only; split <;> simp
@[simp] theorem State.linkFails_mem_past (s : State) (l : Nat) : (s.linkFails l).mem.past = s.mem.past := by
  unfold State.linkFails State.linkDown; dsimp only; split <;> simp
@[simp] theorem State.linkFails_mem_upsets (s : State) (l : Nat) : (s.linkFails l).mem.upsets = s.mem.upsets := by
  unfold State.linkFails State.linkDown; dsimp only; split <;> simp
@[simp] theorem State.linkFails_mem_bindings (s : State) (l : Nat) : (s.linkFails l).mem.bindings = s.mem.bindings := by
  unfold State.linkFails State.linkDown; dsimp only; split <;> simp
@[simp] theorem State.linkFails_mem_hostLines (s : State) (l : Nat) : (s.linkFails l).mem.hostLines = s.mem.hostLines := by
  unfold State.linkFails State.linkDown; dsimp only; split <;> simp
@[simp] theorem State.linkFails_mem_held (s : State) (l : Nat) : (s.linkFails l).mem.held = s.mem.held := by
  unfold State.linkFails State.linkDown; dsimp only; split <;> simp

theorem bits_setLow {w : DWord} (st : Nat) (h : st < 16) : bits (setBits w 3 0 st) 3 0 = st := by
  have hw := w.isLt
  simp only [bits, setBits, BitVec.toNat_ofNat, Nat.pow_zero, Nat.div_one, Nat.mul_one, Nat.sub_zero, Nat.reduceAdd,
    Nat.reducePow] at hw ⊢
  omega

/-- The state that a link enters (R374). -/
theorem State.linkST_setLink (s : State) (l st : Nat) (h : st < 16) : (s.setLink l st).linkST l = st := by
  unfold State.linkST State.linkWord State.setLink
  dsimp only
  rw [sget_sset, if_pos rfl]
  exact bits_setLow st h

/-- The state of every other link stays. -/
theorem State.linkST_setLink_of_ne (s : State) {l k : Nat} (st : Nat) (h : k ≠ l) : (s.setLink l st).linkST k = s.linkST k := by
  unfold State.linkST State.linkWord State.setLink
  dsimp only
  rw [sget_sset, if_neg h]

/-! ## Moves -/

/-- A move answers the next state, a tick later. -/
theorem leads_move {i : Instr} {s u : State} {P : State → Prop} (h : exec i s = move u)
    (p : P { u with tick := u.tick + 1, mgmt := { u.mgmt with ns := u.mgmt.ns + Config.nsStep u.tick } }) : Leads i s P :=
  ⟨_, h, p⟩

/-- A move that changes neither groups nor blocks nor memory's bytes and L2 lines keeps every group's work. -/
theorem keptWork_move {s u : State} (hg : u.grp = s.grp) (hc : u.cur = s.cur) (hb : u.blk = s.blk) (hs : u.blocks = s.blocks)
    (hm : u.mem.bytes = s.mem.bytes) (hl : u.mem.l2 = s.mem.l2) :
    KeptWork s { u with tick := u.tick + 1, mgmt := { u.mgmt with ns := u.mgmt.ns + Config.nsStep u.tick } } := by
  refine ⟨⟨hg, hc⟩, ⟨hb, hs⟩, fun pa cp => ?_⟩
  unfold State.byteAt State.l2Entry State.homeByte
  dsimp only
  rw [hm, hl]

end Sys2Proof.Machine
end

