-- ==== Sys2Proof/Laws/Registers.lean ====
section
/-! SUPPORT. What the operations that write registers leave in every lane of every register. -/

namespace Sys2Proof.Machine

theorem State.reg_setReg (s : State) {r i r' i' : Nat} (v : Word) (hi : i < 32) (hi' : i' < 32) :
    (s.setReg r i v).reg r' i' = if r' = r ∧ i' = i then v else s.reg r' i' := by
  simp only [State.reg, Group.reg, State.setReg, Group.setReg, sget_sset]
  by_cases h : r' = r ∧ i' = i
  · obtain ⟨rfl, rfl⟩ := h; simp
  · have : ¬(32 * r' + i' = 32 * r + i) := by omega
    simp [h, this]

@[simp] theorem State.reg_setSpl (s : State) (p : Split) (r i : Nat) : (s.setSpl p).reg r i = s.reg r i := rfl

@[simp] theorem State.reg_raise (s : State) (k : Nat) (f : BitVec 6) (r i : Nat) : (s.raise k f).reg r i = s.reg r i := by
  unfold State.raise; split
  · rfl
  · split <;> rfl

@[simp] theorem State.reg_draw (s : State) (k r i : Nat) : (s.draw k).1.reg r i = s.reg r i := rfl

/-- Two states alike in all but registers. -/
def SameButRegs (s t : State) : Prop := t = { s with grp := { s.grp with regs := t.grp.regs } }

theorem sameButRegs_refl (s : State) : SameButRegs s s := rfl

theorem SameButRegs.trans {s t u : State} (h : SameButRegs s t) (k : SameButRegs t u) : SameButRegs s u := by
  unfold SameButRegs at *; rw [k, h]

theorem sameButRegs_setReg (s : State) (r i : Nat) (v : Word) : SameButRegs s (s.setReg r i v) := rfl

theorem sameButRegs_setPair (s : State) (r i : Nat) (v : DWord) : SameButRegs s (s.setPair r i v) := rfl

theorem sameButRegs_setLanes (r : Nat) : ∀ (vs : List (Nat × Word)) (s : State), SameButRegs s (s.setLanes r vs)
  | [], s => sameButRegs_refl s
  | (i, v) :: rest, s => (sameButRegs_setReg s r i v).trans (sameButRegs_setLanes r rest _)

/-- The lanes of a list written, the last value of a lane standing; other registers and lanes as they were. -/
theorem State.reg_setLanes_of_notMem (r : Nat) : ∀ (vs : List (Nat × Word)) (s : State) {r' i' : Nat},
    i' < 32 → (∀ e ∈ vs, e.1 < 32) → (r' ≠ r ∨ i' ∉ vs.map (·.1)) → (s.setLanes r vs).reg r' i' = s.reg r' i'
  | [], _, _, _, _, _, _ => rfl
  | (i, v) :: rest, s, r', i', hi', hlt, h => by
    have hi : i < 32 := hlt (i, v) (List.mem_cons_self ..)
    rw [State.setLanes, State.reg_setLanes_of_notMem r rest _ hi' (fun e he => hlt e (List.mem_cons_of_mem _ he)),
      State.reg_setReg _ _ hi hi', if_neg]
    · rintro ⟨rfl, rfl⟩; simp at h
    · rcases h with h | h
      · exact .inl h
      · exact .inr fun hm => h (by simp only [List.map_cons, List.mem_cons]; exact .inr hm)

/-- A function of the lane written to the lanes of a list. -/
theorem State.reg_setLanes_map (r : Nat) (f : Nat → Word) : ∀ (ls : List Nat) (s : State) {r' i' : Nat},
    i' < 32 → (∀ i ∈ ls, i < 32) →
      (s.setLanes r (ls.map fun i => (i, f i))).reg r' i' = if r' = r ∧ i' ∈ ls then f i' else s.reg r' i'
  | [], _, _, _, _, _ => by simp [State.setLanes]
  | i :: rest, s, r', i', hi', hlt => by
    have hi : i < 32 := hlt i (List.mem_cons_self ..)
    rw [List.map_cons, State.setLanes, State.reg_setLanes_map r f rest _ hi'
      (fun k hk => hlt k (List.mem_cons_of_mem _ hk)), State.reg_setReg _ _ hi hi']
    by_cases hr : r' = r <;> by_cases h1 : i' = i <;> by_cases h2 : i' ∈ rest <;> simp [hr, h1, h2, List.mem_cons]

theorem lanesOf_lt {m : Word} {i : Nat} (h : i ∈ lanesOf m) : i < 32 := by
  have : i ∈ lanes := List.mem_of_mem_filter h
  simpa [lanes] using this

theorem mem_lanesOf {m : Word} {i : Nat} : i ∈ lanesOf m ↔ i < 32 ∧ m.getLsbD i = true := by
  simp [lanesOf, lanes, List.mem_filter]

theorem active_lt {s : State} {i : Nat} (h : i ∈ s.active) : i < 32 := lanesOf_lt h

/-- A value per active lane (R53). -/
theorem State.reg_mapLanes (s : State) (d : Reg) (f : Nat → Word) {r k : Nat} (hk : k < 32) :
    (s.mapLanes d f).reg r k = (inLanes s d f r k).getD (s.reg r k) := by
  rw [State.mapLanes, State.reg_setLanes_map _ _ _ _ hk fun i hi => active_lt hi]
  unfold inLanes; split <;> simp_all

theorem lowLane_lt (m : Word) : lowLane m < 32 := by
  unfold lowLane
  cases h : lanes.find? m.getLsbD with
  | none => simp
  | some k => simpa [lanes] using List.mem_of_find?_eq_some h

theorem ctl_lt (s : State) : s.ctl < 32 := lowLane_lt _

/-- A scalar result (R23). -/
theorem State.reg_setCtl (s : State) (d : Reg) (v : Word) {r k : Nat} (hk : k < 32) :
    (s.setCtl d v).reg r k = (inCtl s d v r k).getD (s.reg r k) := by
  rw [State.setCtl, State.reg_setReg _ _ (ctl_lt s) hk]
  unfold inCtl; split <;> simp_all

theorem State.reg_setPair (s : State) {r i r' i' : Nat} (v : DWord) (hi : i < 32) (hi' : i' < 32) :
    (s.setPair r i v).reg r' i' =
      if i' = i then (if r' = r then low32 v else if r' = r + 1 then high32 v else s.reg r' i') else s.reg r' i' := by
  rw [State.setPair, State.reg_setReg _ _ hi hi', State.reg_setReg _ _ hi hi']
  by_cases h : i' = i
  · by_cases h1 : r' = r
    · subst h1; simp [h]
    · by_cases h2 : r' = r + 1 <;> simp [h, h1, h2]
  · simp [h]

theorem sameButRegs_foldPairs (d : Nat) : ∀ (vs : List (Nat × DWord)) (s : State),
    SameButRegs s (vs.foldl (fun t v => t.setPair d v.1 v.2) s)
  | [], s => sameButRegs_refl s
  | (i, v) :: rest, s => (sameButRegs_setPair s d i v).trans (sameButRegs_foldPairs d rest _)

theorem reg_foldPairs (d : Nat) (f : Nat → DWord) : ∀ (ls : List Nat) (s : State) {r k : Nat}, k < 32 → (∀ i ∈ ls, i < 32) →
    ((ls.map fun i => (i, f i)).foldl (fun (t : State) v => t.setPair d v.1 v.2) s).reg r k =
      if k ∈ ls then (if r = d then low32 (f k) else if r = d + 1 then high32 (f k) else s.reg r k) else s.reg r k
  | [], _, _, _, _, _ => by simp
  | i :: rest, s, r, k, hk, hlt => by
    have hi : i < 32 := hlt i (List.mem_cons_self ..)
    rw [List.map_cons, List.foldl_cons, reg_foldPairs d f rest _ hk (fun j hj => hlt j (List.mem_cons_of_mem _ hj)),
      State.reg_setPair _ _ hi hk]
    by_cases h1 : k = i
    · subst h1; by_cases h2 : k ∈ rest <;> by_cases h3 : r = d <;> by_cases h4 : r = d + 1 <;> simp [h2, h3, h4]
    · by_cases h2 : k ∈ rest <;> by_cases h3 : r = d <;> by_cases h4 : r = d + 1 <;> simp [h1, h2, h3, h4]

/-- A 64-bit value per active lane (R30). -/
theorem State.reg_mapPairs (s : State) (d : Reg) (f : Nat → DWord) {r k : Nat} (hk : k < 32) :
    (s.mapPairs d f).reg r k = (inPairs s d f r k).getD (s.reg r k) := by
  rw [State.mapPairs, reg_foldPairs _ _ _ _ hk fun i hi => active_lt hi]
  unfold inPairs; split <;> (try split) <;> (try split) <;> simp_all

theorem getLsbD_or_ctl (s : State) {k : Nat} (hk : k < 32) :
    k ∈ lanesOf (s.activeMask ||| (1#32 <<< s.ctl)) ↔ k ∈ s.active ∨ k = s.ctl := by
  have := ctl_lt s
  simp only [mem_lanesOf, State.active, BitVec.getLsbD_or, BitVec.getLsbD_shiftLeft, Bool.or_eq_true]
  constructor
  · rintro ⟨h, h1 | h1⟩
    · exact .inl ⟨h, h1⟩
    · right
      simp only [Bool.and_eq_true, Bool.not_eq_true', decide_eq_true_eq, decide_eq_false_iff_not] at h1
      have h2 := h1.2
      rw [BitVec.getLsbD_one] at h2
      simp at h2; omega
  · rintro (h | h)
    · exact ⟨hk, .inl h.2⟩
    · subst h; exact ⟨hk, .inr (by simp [hk])⟩

/-- A value for the active lanes and the control lane (R305). -/
theorem State.reg_mapUniform (s : State) (d : Reg) (f : Nat → Word) {r k : Nat} (hk : k < 32) :
    (s.mapUniform d f).reg r k = (inUniform s d f r k).getD (s.reg r k) := by
  rw [State.mapUniform, State.reg_setLanes_map _ _ _ _ hk fun i hi => lanesOf_lt hi]
  unfold inUniform
  have h := getLsbD_or_ctl s hk
  split <;> split <;> simp_all

end Sys2Proof.Machine
end

