-- ==== Sys2Proof/Laws/Issue.lean ====
section
/-! SUPPORT. Issuing an instruction: what the gate, retiring, the end of futures and the move of an agent do, and the
shapes of completion that the meanings of the register instructions come to. -/

namespace Sys2Proof.Machine

/-! ## The gate -/

/-- An instruction that nothing stops has its effect in the state in which its operands are read. -/
theorem gate_runs {i : Instr} {s : State} (h : Runs i s) (f : State → Res) :
    gate i s f = .next (s.settle i (f (s.ready i))) := by
  obtain ⟨h1, h2⟩ := h
  simp [gate, h1, h2]

theorem gate_next {i : Instr} {s u : State} {f : State → Res} (h : Runs i s) (hu : f (s.ready i) = .next u) :
    gate i s f = .next (s.retire i u none) := by rw [gate_runs h, hu]; rfl

theorem gate_jump {i : Instr} {s u : State} {pc : Addr} {f : State → Res} (h : Runs i s)
    (hu : f (s.ready i) = .jump u pc) : gate i s f = .next (s.retire i u (some pc)) := by rw [gate_runs h, hu]; rfl

/-- Where the trap of an instruction may be taken at once, it need wait only for what the instruction itself has set going. -/
theorem trapWaits_atOnce {s : State} (h : AtOnce s) {i : Instr} (hf : s.foundLate i = false) (u : State) :
    s.trapWaits i u = u.outstanding := by
  unfold State.trapWaits
  rcases hh : s.grp.handler with _ | k
  · simp [h.fence, h.settled, h.others, hf, h.first hh]
  · simp [h.fence, h.settled, h.others, hf]

/-- A trap that need not wait is taken at once, with the flags of the split's windows landed. -/
theorem gate_trap {i : Instr} {s u : State} {x : TrapInfo} {f : State → Res} (h : Runs i s)
    (hu : f (s.ready i) = .trap u x) (h1 : AtOnce s) (hf : s.foundLate i = false) (hq : u.outstanding = false) :
    gate i s f = .next { ((((u.countRoute x.code x.str).landFlags.trapHere x).chargeInstr i s).pass (dieOf s.blk.core)) with
      turn := false } := by
  rw [gate_runs h, hu]
  simp [State.settle, State.endTrap, trapWaits_atOnce h1 hf, hq, State.trapWhenQuiet, h1.fence, h1.settled, h1.others]

/-- A trap of a listed instruction that must wait is kept until it can be delivered (R60, R377, R378). -/
theorem gate_trap_kept {i : Instr} {s u : State} {x : TrapInfo} {f : State → Res} (h : Runs i s)
    (hu : f (s.ready i) = .trap u x) (hl : x.listed = true) (hr : s.grp.region = none) (hw : s.trapWaits i u = true) :
    gate i s f = .next (s.keepTrap i (u.countRoute x.code x.str).landFlags x) := by
  rw [gate_runs h, hu]; simp [State.settle, State.endTrap, hl, hr, hw]

/-- A fault of a whole group is found at once (R378). -/
theorem foundLate_whole {s : State} (h : s.grp.isSplit = false) (i : Instr) : s.foundLate i = false := by simp [State.foundLate, h]

/-- Only a fault for want of a port is counted (R373, R393). -/
theorem countRoute_of_ne (s : State) {code : Nat} (h : code ≠ tECC) (str : Nat) : s.countRoute code str = s := by
  simp [State.countRoute, h]

/-- While a split issues, every instruction meaning answers a next state. -/
theorem gate_answers {i : Instr} {s : State} (h : s.issuing = true) (f : State → Res) : ∃ t, gate i s f = .next t := by
  simp [gate, h]

/-- A move answers its state with the time gone on. -/
theorem move_eq (s : State) :
    move s = .next { s with tick := s.tick + 1, mgmt := { s.mgmt with ns := s.mgmt.ns + Config.nsStep s.tick } } := rfl

/-! ## The checks of R67 -/

theorem lowLane_self (m : Word) : lowLane m < 32 := lowLane_lt m

/-- From a calm state an instruction that suits the split runs (R67). -/
theorem runs_of_calm {i : Instr} {s : State} (c : Calm s) (h : Suits i s) : Runs i s := by
  refine ⟨c.issuing, ?_⟩
  have h1 : checkForm i s = none := by simp [checkForm, h.legal, h.core, h.form, h.gm]
  have h2 : checkRegion i s = none := by simp [checkRegion, c.region]
  have h3 : checkLevel i s = none := by simp [checkLevel, h.level]
  have h4 : checkWindows i s = none := by
    simp [checkWindows, c.windows, c.slot, c.onWay, c.accepted, State.outstandingCount, c.fence, distinct]
  have h5 : checkLanes i s = none := by
    unfold checkLanes
    by_cases hm : i.isMatrix = true
    · obtain ⟨ha, hb⟩ := h.lanes hm; simp [ha, hb]
    · simp [hm]
  have h6 : checkFence i s = none := by simp [checkFence, c.fence]
  have h7 : checkFutures i s = none := by simp [checkFutures, Group.futureOf, c.futures]
  have h8 : checkUpset i s = none := by simp [checkUpset, c.readable]
  simp [State.stopped, firstStop, h1, h2, h3, h4, h5, h6, h7, h8]

theorem ready_of_noFutures {i : Instr} {s : State} (h : s.grp.futures = []) (hw : s.spl.windows = []) : s.ready i = s := by
  simp [State.ready, State.endFutures, State.closeWindows, State.hideFlags, h, hw]

theorem ready_of_calm {i : Instr} {s : State} (c : Calm s) : s.ready i = s := ready_of_noFutures c.futures c.windows

/-! ## The end of futures (R256) -/

/-- A denial changes counts and events only (R341). -/
theorem grp_denied (s : State) (asid addr r : Nat) : (s.denied asid addr r).grp = s.grp := by
  simp [State.denied, State.deniedBy]

theorem cur_denied (s : State) (asid addr r : Nat) : (s.denied asid addr r).cur = s.cur := by
  simp [State.denied, State.deniedBy]

theorem grp_noteFault (s : State) (u : Unit') (asid va r : Nat) :
    (s.noteFault u asid va r).grp = s.grp ∧ (s.noteFault u asid va r).cur = s.cur := by
  have hd : ∀ a b c, (s.denied a b c).grp = s.grp ∧ (s.denied a b c).cur = s.cur := fun _ _ _ => ⟨grp_denied .., cur_denied ..⟩
  have he : ∀ i o, (s.noteExportDenial i o).grp = s.grp ∧ (s.noteExportDenial i o).cur = s.cur := by
    intro i o
    unfold State.noteExportDenial; dsimp only
    split
    · split <;> exact hd _ _ _
    · exact ⟨rfl, rfl⟩
  unfold State.noteFault; dsimp only
  split
  · exact ⟨rfl, rfl⟩
  · split
    · exact hd _ _ _
    · repeat' split
      all_goals first | exact he _ _ | exact hd _ _ _

theorem grp_noteDeniedAt (s : State) (u : Unit') (asid va n : Nat) (k : Kind) (r : Nat) :
    (s.noteDeniedAt u asid va n k r).grp = s.grp ∧ (s.noteDeniedAt u asid va n k r).cur = s.cur := by
  unfold State.noteDeniedAt
  split
  · exact grp_noteFault ..
  · exact ⟨rfl, rfl⟩

theorem spl_resolveFuture (s : State) (r : Nat) (f : Future) : (s.resolveFuture r f).spl = s.spl := by
  obtain ⟨h1, h2⟩ := grp_noteDeniedAt s (s.engineOf f.die (f.qn % 256)) (s.cqAsid f.die (f.qn % 256))
    (s.ringSlot f.die (f.qn % 256) f.seq + 48) 12 .load 1
  unfold State.resolveFuture State.spl
  simp only [State.dropL1_grp, State.dropL1_cur, State.dropFuture_cur, State.setReg_cur, State.dropFuture_grp_splits,
    State.setReg_grp_splits, State.noteStatus, State.reach_grp, State.reach_cur, h1, h2]

/-- One register's future, if a lane is read and it bears one. -/
theorem spl_endFuture (s : State) (x : Nat × Word) : (match s.grp.futureOf x.1 with
    | some f => if x.2 == 0#32 then s else s.resolveFuture x.1 f
    | none => s).spl = s.spl := by
  split
  · split
    · rfl
    · exact spl_resolveFuture ..
  · rfl

theorem spl_endFutures (s : State) (i : Instr) : (s.endFutures i).spl = s.spl := by
  unfold State.endFutures
  split
  · rfl
  · rename_i h
    clear h
    generalize readsAll i s = l
    generalize hs : s.spl = p
    induction l generalizing s with
    | nil => exact hs
    | cons x r ih => exact ih _ ((spl_endFuture s x).trans hs)

/-! ## Windows (R57, R59) -/

theorem spl_setReg (s : State) (r k : Nat) (v : Word) : (s.setReg r k v).spl = s.spl := by
  unfold State.spl
  rw [State.setReg_cur, State.setReg_grp_splits]

theorem spl_setRegs (s : State) (l : List (Nat × Word)) :
    (l.foldl (fun (t : State) e => t.setReg (e.1 / 32) (e.1 % 32) e.2) s).spl = s.spl := by
  induction l generalizing s with
  | nil => rfl
  | cons x r ih => rw [List.foldl_cons, ih, spl_setReg]

theorem spl_setSpl (s : State) (p : Split) : (s.setSpl p).spl = p := sget_sset_self ..

/-- The state `t` is `s` but for registers, fl and the windows of the issuing split. -/
structure WindowsAside (s t : State) : Prop where
  rest : t = { s with grp := { s.grp with regs := t.grp.regs, splits := t.grp.splits, fl := t.grp.fl } }
  own : ∃ ws, t.spl = { s.spl with windows := ws }
  others : ∀ k, k ≠ s.cur → t.grp.splitAt k = s.grp.splitAt k

theorem WindowsAside.refl (s : State) : WindowsAside s s := ⟨rfl, ⟨_, rfl⟩, fun _ _ => rfl⟩

theorem WindowsAside.trans {s t u : State} (h : WindowsAside s t) (k : WindowsAside t u) : WindowsAside s u where
  rest := by rw [k.rest, h.rest]
  own := by
    obtain ⟨_, a⟩ := h.own; obtain ⟨ws, b⟩ := k.own
    exact ⟨ws, by rw [b, a]⟩
  others j hj := by
    have hc : t.cur = s.cur := by rw [h.rest]
    rw [k.others j (by rw [hc]; exact hj), h.others j hj]

theorem windowsAside_setReg (s : State) (r k : Nat) (v : Word) : WindowsAside s (s.setReg r k v) :=
  ⟨rfl, ⟨_, spl_setReg s r k v⟩, fun _ _ => rfl⟩

theorem windowsAside_setSpl (s : State) (ws : List Window) : WindowsAside s (s.setSpl { s.spl with windows := ws }) :=
  ⟨rfl, ⟨ws, spl_setSpl ..⟩, fun _ hk => sget_sset_ne _ _ _ hk⟩

theorem windowsAside_setFl (s : State) (f : BitVec 6) : WindowsAside s { s with grp := { s.grp with fl := f } } :=
  ⟨rfl, ⟨_, rfl⟩, fun _ _ => rfl⟩

theorem windowsAside_close (s : State) : WindowsAside s s.closeWindows := by
  unfold State.closeWindows; split
  · exact .refl s
  · exact windowsAside_setSpl s []

theorem windowsAside_hide (s : State) : WindowsAside s s.hideFlags := by
  unfold State.hideFlags; dsimp only; split
  · exact .refl s
  · exact (windowsAside_setFl s _).trans (windowsAside_setSpl _ _)

theorem windowsAside_land (s : State) : WindowsAside s s.landFlags := by
  unfold State.landFlags; dsimp only; split
  · exact .refl s
  · exact (windowsAside_setFl s _).trans (windowsAside_setSpl _ _)

theorem windowsAside_foldSetReg (f : Nat → Nat) (g : Nat → Nat) (v : Nat → Word) : ∀ (l : List Nat) (s : State),
    WindowsAside s (l.foldl (fun t k => t.setReg (f k) (g k) (v k)) s)
  | [], s => .refl s
  | k :: l, s => (windowsAside_setReg s (f k) (g k) (v k)).trans (windowsAside_foldSetReg f g v l _)

theorem windowsAside_cross (s u : State) (i : Instr) : WindowsAside u (s.crossLandings i u) := by
  unfold State.crossLandings
  extract_lets p watched hit v older t after
  split
  · exact .refl u
  · have h : WindowsAside u t := windowsAside_foldSetReg (· / 32) (· % 32) _ _ _
    have hp : t.spl = u.spl := by
      have hr : t = { u with grp := { u.grp with regs := t.grp.regs } } := by
        have : ∀ (l : List Nat) (w : State), (l.foldl (fun t k => t.setReg (k / 32) (k % 32) (v.reg (k / 32) (k % 32))) w) =
            { w with grp := { w.grp with regs := (l.foldl (fun t k => t.setReg (k / 32) (k % 32)
              (v.reg (k / 32) (k % 32))) w).grp.regs } } := by
          intro l
          induction l with
          | nil => exact fun _ => rfl
          | cons k l ih => intro w; rw [List.foldl_cons, ih]; rfl
        exact this older u
      rw [hr]; rfl
    have hk := windowsAside_setSpl t (p.windows.map after)
    rw [hp] at hk
    exact h.trans hk

@[simp] theorem State.crossLandings_agenda (s u : State) (i : Instr) : (s.crossLandings i u).agenda = u.agenda := by
  have h := congrArg State.agenda (windowsAside_cross s u i).rest; exact h
@[simp] theorem State.crossLandings_turn (s u : State) (i : Instr) : (s.crossLandings i u).turn = u.turn := by
  have h := congrArg State.turn (windowsAside_cross s u i).rest; exact h
@[simp] theorem State.crossLandings_tick (s u : State) (i : Instr) : (s.crossLandings i u).tick = u.tick := by
  have h := congrArg State.tick (windowsAside_cross s u i).rest; exact h
@[simp] theorem State.crossLandings_blk (s u : State) (i : Instr) : (s.crossLandings i u).blk = u.blk := by
  have h := congrArg State.blk (windowsAside_cross s u i).rest; exact h
@[simp] theorem State.crossLandings_cur (s u : State) (i : Instr) : (s.crossLandings i u).cur = u.cur := by
  have h := congrArg State.cur (windowsAside_cross s u i).rest; exact h
@[simp] theorem State.crossLandings_blocks (s u : State) (i : Instr) : (s.crossLandings i u).blocks = u.blocks := by
  have h := congrArg State.blocks (windowsAside_cross s u i).rest; exact h
@[simp] theorem State.crossLandings_mem (s u : State) (i : Instr) : (s.crossLandings i u).mem = u.mem := by
  have h := congrArg State.mem (windowsAside_cross s u i).rest; exact h
@[simp] theorem State.crossLandings_cores (s u : State) (i : Instr) : (s.crossLandings i u).cores = u.cores := by
  have h := congrArg State.cores (windowsAside_cross s u i).rest; exact h
@[simp] theorem State.crossLandings_hub (s u : State) (i : Instr) : (s.crossLandings i u).hub = u.hub := by
  have h := congrArg State.hub (windowsAside_cross s u i).rest; exact h
@[simp] theorem State.crossLandings_iso (s u : State) (i : Instr) : (s.crossLandings i u).iso = u.iso := by
  have h := congrArg State.iso (windowsAside_cross s u i).rest; exact h
@[simp] theorem State.crossLandings_links (s u : State) (i : Instr) : (s.crossLandings i u).links = u.links := by
  have h := congrArg State.links (windowsAside_cross s u i).rest; exact h
@[simp] theorem State.crossLandings_mgmt (s u : State) (i : Instr) : (s.crossLandings i u).mgmt = u.mgmt := by
  have h := congrArg State.mgmt (windowsAside_cross s u i).rest; exact h
@[simp] theorem State.crossLandings_grp_idx (s u : State) (i : Instr) : (s.crossLandings i u).grp.idx = u.grp.idx := by
  have h := congrArg (fun t => State.grp t |>.idx) (windowsAside_cross s u i).rest; exact h
@[simp] theorem State.crossLandings_grp_slot (s u : State) (i : Instr) : (s.crossLandings i u).grp.slot = u.grp.slot := by
  have h := congrArg (fun t => State.grp t |>.slot) (windowsAside_cross s u i).rest; exact h
@[simp] theorem State.crossLandings_grp_sp (s u : State) (i : Instr) : (s.crossLandings i u).grp.sp = u.grp.sp := by
  have h := congrArg (fun t => State.grp t |>.sp) (windowsAside_cross s u i).rest; exact h
@[simp] theorem State.crossLandings_grp_ts (s u : State) (i : Instr) : (s.crossLandings i u).grp.ts = u.grp.ts := by
  have h := congrArg (fun t => State.grp t |>.ts) (windowsAside_cross s u i).rest; exact h
@[simp] theorem State.crossLandings_grp_gs (s u : State) (i : Instr) : (s.crossLandings i u).grp.gs = u.grp.gs := by
  have h := congrArg (fun t => State.grp t |>.gs) (windowsAside_cross s u i).rest; exact h
@[simp] theorem State.crossLandings_grp_futures (s u : State) (i : Instr) : (s.crossLandings i u).grp.futures = u.grp.futures := by
  have h := congrArg (fun t => State.grp t |>.futures) (windowsAside_cross s u i).rest; exact h
@[simp] theorem State.crossLandings_grp_lr (s u : State) (i : Instr) : (s.crossLandings i u).grp.lr = u.grp.lr := by
  have h := congrArg (fun t => State.grp t |>.lr) (windowsAside_cross s u i).rest; exact h
@[simp] theorem State.crossLandings_grp_region (s u : State) (i : Instr) : (s.crossLandings i u).grp.region = u.grp.region := by
  have h := congrArg (fun t => State.grp t |>.region) (windowsAside_cross s u i).rest; exact h
@[simp] theorem State.crossLandings_grp_trap (s u : State) (i : Instr) : (s.crossLandings i u).grp.trap = u.grp.trap := by
  have h := congrArg (fun t => State.grp t |>.trap) (windowsAside_cross s u i).rest; exact h
@[simp] theorem State.crossLandings_grp_ldone (s u : State) (i : Instr) : (s.crossLandings i u).grp.ldone = u.grp.ldone := by
  have h := congrArg (fun t => State.grp t |>.ldone) (windowsAside_cross s u i).rest; exact h
@[simp] theorem State.crossLandings_grp_hscr (s u : State) (i : Instr) : (s.crossLandings i u).grp.hscr = u.grp.hscr := by
  have h := congrArg (fun t => State.grp t |>.hscr) (windowsAside_cross s u i).rest; exact h
@[simp] theorem State.crossLandings_grp_handler (s u : State) (i : Instr) : (s.crossLandings i u).grp.handler = u.grp.handler := by
  have h := congrArg (fun t => State.grp t |>.handler) (windowsAside_cross s u i).rest; exact h
@[simp] theorem State.crossLandings_grp_arrived (s u : State) (i : Instr) : (s.crossLandings i u).grp.arrived = u.grp.arrived := by
  have h := congrArg (fun t => State.grp t |>.arrived) (windowsAside_cross s u i).rest; exact h
@[simp] theorem State.crossLandings_grp_waitCount (s u : State) (i : Instr) : (s.crossLandings i u).grp.waitCount = u.grp.waitCount := by
  have h := congrArg (fun t => State.grp t |>.waitCount) (windowsAside_cross s u i).rest; exact h
@[simp] theorem State.crossLandings_grp_ended (s u : State) (i : Instr) : (s.crossLandings i u).grp.ended = u.grp.ended := by
  have h := congrArg (fun t => State.grp t |>.ended) (windowsAside_cross s u i).rest; exact h
@[simp] theorem State.crossLandings_grp_saved (s u : State) (i : Instr) : (s.crossLandings i u).grp.saved = u.grp.saved := by
  have h := congrArg (fun t => State.grp t |>.saved) (windowsAside_cross s u i).rest; exact h

/-- The flags that open windows hold join fl when they land. -/
theorem fl_landFlags (s : State) : s.landFlags.grp.fl = s.landed := by
  unfold State.landFlags State.landed
  dsimp only
  split
  · rename_i h
    simp only [List.all_eq_true, beq_iff_eq] at h
    generalize s.spl.windows = ws at h
    generalize s.grp.fl = f
    induction ws generalizing f with
    | nil => rfl
    | cons w ws ih =>
      rw [List.foldl_cons, h w (List.mem_cons_self ..), show f ||| 0 = f from BitVec.or_zero]
      exact ih (fun x hx => h x (List.mem_cons_of_mem _ hx)) f
  · rfl

/-- Landing does not depend on what the windows hold besides their flags. -/
theorem landed_of {s t : State} (h : t.spl.windows.map (·.flags) = s.spl.windows.map (·.flags))
    (hf : t.grp.fl = s.grp.fl) : t.landed = s.landed := by
  unfold State.landed
  rw [← List.foldl_map (f := Window.flags) (g := fun (f x : BitVec 6) => f ||| x),
    ← List.foldl_map (f := Window.flags) (g := fun (f x : BitVec 6) => f ||| x), h, hf]

theorem crossLandings_flags (s u : State) (i : Instr) : (s.crossLandings i u).grp.fl = u.grp.fl ∧
    (s.crossLandings i u).spl.windows.map (·.flags) = u.spl.windows.map (·.flags) := by
  unfold State.crossLandings
  extract_lets p watched hit v older t after
  split
  · exact ⟨rfl, rfl⟩
  · refine ⟨?_, ?_⟩
    · show t.grp.fl = u.grp.fl
      have : ∀ (l : List Nat) (w : State), (l.foldl (fun t k => t.setReg (k / 32) (k % 32) (v.reg (k / 32) (k % 32)))
          w).grp.fl = w.grp.fl := by
        intro l
        induction l with
        | nil => exact fun _ => rfl
        | cons k l ih => intro w; rw [List.foldl_cons, ih]; rfl
      exact this older u
    · rw [spl_setSpl, List.map_map]; rfl

theorem landed_crossLandings (s u : State) (i : Instr) : (s.crossLandings i u).landed = u.landed :=
  landed_of (crossLandings_flags s u i).2 (crossLandings_flags s u i).1

/-- A flag raised before the windows land is raised after. -/
theorem landed_or (s : State) (f : BitVec 6) :
    State.landed { s with grp := { s.grp with fl := s.grp.fl ||| f } } = s.landed ||| f := by
  show s.spl.windows.foldl _ (s.grp.fl ||| f) = s.spl.windows.foldl _ s.grp.fl ||| f
  generalize s.spl.windows = ws
  generalize s.grp.fl = a
  induction ws generalizing a with
  | nil => rfl
  | cons w ws ih =>
    rw [List.foldl_cons, List.foldl_cons, ← ih]
    congr 1
    rw [BitVec.or_assoc, BitVec.or_comm f, ← BitVec.or_assoc]

theorem reg_foldSetReg (v : Nat → Word) : ∀ (l : List Nat) (t : State) {r k : Nat}, k < 32 →
    (l.foldl (fun t j => t.setReg (j / 32) (j % 32) (v j)) t).reg r k = t.reg r k ∨
      (32 * r + k ∈ l ∧ (l.foldl (fun t j => t.setReg (j / 32) (j % 32) (v j)) t).reg r k = v (32 * r + k))
  | [], _, _, _, _ => .inl rfl
  | j :: l, t, r, k, hk => by
    rw [List.foldl_cons]
    rcases reg_foldSetReg v l (t.setReg (j / 32) (j % 32) (v j)) (r := r) hk with h | ⟨hm, h⟩
    · rw [h, State.reg_setReg _ _ (Nat.mod_lt _ (by decide)) hk]
      by_cases e : r = j / 32 ∧ k = j % 32
      · have : 32 * r + k = j := by omega
        right; rw [if_pos e]; exact ⟨by simp [this], by rw [this]⟩
      · left; rw [if_neg e]
    · exact .inr ⟨List.mem_cons_of_mem _ hm, h⟩

/-- What an instruction has left in a register lane stands when it retires, but for a lane that an instruction of an open
window writes too, which may end as that instruction left it (R57). -/
theorem reg_crossLandings (s u : State) (i : Instr) {r k : Nat} (hk : k < 32) :
    (s.crossLandings i u).reg r k = u.reg r k ∨
      (u.watched (32 * r + k) ∧ (s.crossLandings i u).reg r k = (s.ready i).reg r k) := by
  unfold State.crossLandings
  extract_lets p watched hit v older t after
  split
  · exact .inl rfl
  · rw [State.reg_setSpl]
    rcases reg_foldSetReg (fun j => v.reg (j / 32) (j % 32)) older u (r := r) hk with h | ⟨hm, h⟩
    · exact .inl h
    · right
      have h1 : (32 * r + k) / 32 = r := by omega
      have h2 : (32 * r + k) % 32 = k := by omega
      refine ⟨?_, h.trans (by simp only [h1, h2]; rfl)⟩
      have hw : watched (32 * r + k) = true := by
        have := (List.mem_filter.1 (List.mem_of_mem_filter hm)).2
        simp only [Bool.and_eq_true] at this
        exact this.1
      simp only [watched, p, List.any_eq_true, Bool.and_eq_true, decide_eq_true_eq, beq_iff_eq] at hw
      obtain ⟨w, hw1, hw2, e, he1, he2⟩ := hw
      exact ⟨w, hw1, hw2, e, he1, he2⟩

/-- The split that reads its operands is the split with its windows changed. -/
theorem spl_ready (s : State) (i : Instr) : ∃ ws, (s.ready i).spl = { s.spl with windows := ws } := by
  unfold State.ready
  dsimp only
  rw [← spl_endFutures s i]
  split
  · exact (windowsAside_close _).own
  · exact (windowsAside_hide _).own

theorem pc_ready (s : State) (i : Instr) : (s.ready i).spl.pc = s.spl.pc := by
  obtain ⟨_, h⟩ := spl_ready s i
  rw [h]

theorem redo_ready (s : State) (i : Instr) : (s.ready i).spl.redo = s.spl.redo := by
  obtain ⟨_, h⟩ := spl_ready s i
  rw [h]

/-! ## Retiring -/

theorem spl_overwrite (s u : State) (i : Instr) : (s.overwrite i u).spl = u.spl := rfl

/-- The state when an instruction's results, flags and bearings are settled, before its split goes on. -/
def State.landedFrom (s u : State) (i : Instr) : State := (s.overwrite i (s.crossLandings i u)).landFlags

theorem retire_eq (s u : State) (i : Instr) (target : Option Addr) : ∃ ws, s.retire i u target =
    { (((s.landedFrom u i).setSpl ((s.landedFrom u i).spl.advance ws target)).chargeInstr i s).pass
        (dieOf s.blk.core) with turn := false } := ⟨_, rfl⟩

theorem spl_landedFrom (s u : State) (i : Instr) : ∃ ws, (s.landedFrom u i).spl = { u.spl with windows := ws } := by
  obtain ⟨vs, hv⟩ := (windowsAside_cross s u i).own
  obtain ⟨ws, hw⟩ := (windowsAside_land (s.overwrite i (s.crossLandings i u))).own
  exact ⟨ws, hw.trans (by rw [spl_overwrite, hv])⟩

@[simp] theorem cur_landedFrom (s u : State) (i : Instr) : (s.landedFrom u i).cur = u.cur := by simp [State.landedFrom]

theorem spl_setSpl' (s : State) (p : Split) (i : Instr) (s0 : State) (die : Nat) :
    State.spl { ((s.setSpl p).chargeInstr i s0).pass die with turn := false } = p := by
  show sget {} ((s.setSpl p).chargeInstr i s0).grp.splits ((s.setSpl p).chargeInstr i s0).cur = p
  rw [State.chargeInstr_grp, State.chargeInstr_cur]
  exact spl_setSpl s p

/-- What retiring does before it moves the split on: registers, fl and windows as they land, bearings and upsets. -/
theorem spl_retire (s u : State) (i : Instr) (target : Option Addr) :
    ∃ ws vs, (s.retire i u target).spl = Split.advance { u.spl with windows := vs } ws target := by
  obtain ⟨ws, h⟩ := retire_eq s u i target
  obtain ⟨vs, hv⟩ := spl_landedFrom s u i
  exact ⟨ws, vs, by rw [h, spl_setSpl', hv]⟩

theorem advance_keeps (p : Split) (ws : List Window) (target : Option Addr) :
    (p.advance ws target).st = p.st ∧ (p.advance ws target).dm = p.dm ∧ (p.advance ws target).em = p.em ∧
      (p.advance ws target).gm = p.gm := by
  unfold Split.advance
  repeat' split
  all_goals exact ⟨rfl, rfl, rfl, rfl⟩

theorem advance_pc {p : Split} (h : p.redo = []) (ws : List Window) : (p.advance ws none).pc = p.pc + 4 := by
  simp [Split.advance, h]

theorem advance_jump (p : Split) (ws : List Window) (pc : Addr) : (p.advance ws (some pc)).pc = pc := rfl

theorem reg_retire (s u : State) (i : Instr) (target : Option Addr) (r k : Nat) :
    (s.retire i u target).reg r k = (s.crossLandings i u).reg r k := by
  obtain ⟨ws, h⟩ := retire_eq s u i target
  rw [h]
  show sget 0 (s.landedFrom u i).grp.regs _ = sget 0 (s.crossLandings i u).grp.regs _
  rw [State.landedFrom, State.landFlags_grp_regs, State.overwrite_grp_regs]

theorem fl_retire (s u : State) (i : Instr) (target : Option Addr) : (s.retire i u target).grp.fl = u.landed := by
  obtain ⟨ws, h⟩ := retire_eq s u i target
  rw [h]
  show (s.landedFrom u i).grp.fl = _
  rw [State.landedFrom, fl_landFlags, ← landed_crossLandings s u i]
  rfl

@[simp] theorem State.retire_blk (s u : State) (i : Instr) (target : Option Addr) : (s.retire i u target).blk = u.blk := by
  obtain ⟨ws, h⟩ := retire_eq s u i target
  rw [h]; simp [State.landedFrom]
@[simp] theorem State.retire_blocks (s u : State) (i : Instr) (target : Option Addr) : (s.retire i u target).blocks = u.blocks := by
  obtain ⟨ws, h⟩ := retire_eq s u i target
  rw [h]; simp [State.landedFrom]
@[simp] theorem State.retire_cur (s u : State) (i : Instr) (target : Option Addr) : (s.retire i u target).cur = u.cur := by
  obtain ⟨ws, h⟩ := retire_eq s u i target
  rw [h]; simp [State.landedFrom]
@[simp] theorem State.retire_hub (s u : State) (i : Instr) (target : Option Addr) : (s.retire i u target).hub = u.hub := by
  obtain ⟨ws, h⟩ := retire_eq s u i target
  rw [h]; simp [State.landedFrom]
@[simp] theorem State.retire_links (s u : State) (i : Instr) (target : Option Addr) : (s.retire i u target).links = u.links := by
  obtain ⟨ws, h⟩ := retire_eq s u i target
  rw [h]; simp [State.landedFrom]
@[simp] theorem State.retire_mem_bytes (s u : State) (i : Instr) (target : Option Addr) :
    (s.retire i u target).mem.bytes = u.mem.bytes := by
  obtain ⟨ws, h⟩ := retire_eq s u i target
  rw [h]; simp [State.landedFrom]
@[simp] theorem State.retire_mem_l2 (s u : State) (i : Instr) (target : Option Addr) :
    (s.retire i u target).mem.l2 = u.mem.l2 := by
  obtain ⟨ws, h⟩ := retire_eq s u i target
  rw [h]; simp [State.landedFrom]; simp [State.overwrite]
@[simp] theorem State.retire_mem_requests (s u : State) (i : Instr) (target : Option Addr) :
    (s.retire i u target).mem.requests = u.mem.requests := by
  obtain ⟨ws, h⟩ := retire_eq s u i target
  rw [h]; simp [State.landedFrom]; simp [State.overwrite]
@[simp] theorem State.retire_mem_reductions (s u : State) (i : Instr) (target : Option Addr) :
    (s.retire i u target).mem.reductions = u.mem.reductions := by
  obtain ⟨ws, h⟩ := retire_eq s u i target
  rw [h]; simp [State.landedFrom]; simp [State.overwrite]
@[simp] theorem State.retire_grp_idx (s u : State) (i : Instr) (target : Option Addr) :
    (s.retire i u target).grp.idx = u.grp.idx := by
  obtain ⟨ws, h⟩ := retire_eq s u i target
  rw [h]; simp [State.landedFrom]
@[simp] theorem State.retire_grp_slot (s u : State) (i : Instr) (target : Option Addr) :
    (s.retire i u target).grp.slot = u.grp.slot := by
  obtain ⟨ws, h⟩ := retire_eq s u i target
  rw [h]; simp [State.landedFrom]
@[simp] theorem State.retire_grp_sp (s u : State) (i : Instr) (target : Option Addr) :
    (s.retire i u target).grp.sp = u.grp.sp := by
  obtain ⟨ws, h⟩ := retire_eq s u i target
  rw [h]; simp [State.landedFrom]
@[simp] theorem State.retire_grp_ts (s u : State) (i : Instr) (target : Option Addr) :
    (s.retire i u target).grp.ts = u.grp.ts := by
  obtain ⟨ws, h⟩ := retire_eq s u i target
  rw [h]; simp [State.landedFrom]
@[simp] theorem State.retire_grp_gs (s u : State) (i : Instr) (target : Option Addr) :
    (s.retire i u target).grp.gs = u.grp.gs := by
  obtain ⟨ws, h⟩ := retire_eq s u i target
  rw [h]; simp [State.landedFrom]
@[simp] theorem State.retire_grp_lr (s u : State) (i : Instr) (target : Option Addr) :
    (s.retire i u target).grp.lr = u.grp.lr := by
  obtain ⟨ws, h⟩ := retire_eq s u i target
  rw [h]; simp [State.landedFrom]
@[simp] theorem State.retire_grp_region (s u : State) (i : Instr) (target : Option Addr) :
    (s.retire i u target).grp.region = u.grp.region := by
  obtain ⟨ws, h⟩ := retire_eq s u i target
  rw [h]; simp [State.landedFrom]
@[simp] theorem State.retire_grp_trap (s u : State) (i : Instr) (target : Option Addr) :
    (s.retire i u target).grp.trap = u.grp.trap := by
  obtain ⟨ws, h⟩ := retire_eq s u i target
  rw [h]; simp [State.landedFrom]
@[simp] theorem State.retire_grp_ldone (s u : State) (i : Instr) (target : Option Addr) :
    (s.retire i u target).grp.ldone = u.grp.ldone := by
  obtain ⟨ws, h⟩ := retire_eq s u i target
  rw [h]; simp [State.landedFrom]
@[simp] theorem State.retire_grp_hscr (s u : State) (i : Instr) (target : Option Addr) :
    (s.retire i u target).grp.hscr = u.grp.hscr := by
  obtain ⟨ws, h⟩ := retire_eq s u i target
  rw [h]; simp [State.landedFrom]
@[simp] theorem State.retire_grp_handler (s u : State) (i : Instr) (target : Option Addr) :
    (s.retire i u target).grp.handler = u.grp.handler := by
  obtain ⟨ws, h⟩ := retire_eq s u i target
  rw [h]; simp [State.landedFrom]
@[simp] theorem State.retire_grp_arrived (s u : State) (i : Instr) (target : Option Addr) :
    (s.retire i u target).grp.arrived = u.grp.arrived := by
  obtain ⟨ws, h⟩ := retire_eq s u i target
  rw [h]; simp [State.landedFrom]
@[simp] theorem State.retire_grp_waitCount (s u : State) (i : Instr) (target : Option Addr) :
    (s.retire i u target).grp.waitCount = u.grp.waitCount := by
  obtain ⟨ws, h⟩ := retire_eq s u i target
  rw [h]; simp [State.landedFrom]
@[simp] theorem State.retire_grp_ended (s u : State) (i : Instr) (target : Option Addr) :
    (s.retire i u target).grp.ended = u.grp.ended := by
  obtain ⟨ws, h⟩ := retire_eq s u i target
  rw [h]; simp [State.landedFrom]
@[simp] theorem State.retire_grp_saved (s u : State) (i : Instr) (target : Option Addr) :
    (s.retire i u target).grp.saved = u.grp.saved := by
  obtain ⟨ws, h⟩ := retire_eq s u i target
  rw [h]; simp [State.landedFrom]
@[simp] theorem State.retire_iso_space (s u : State) (i : Instr) (target : Option Addr) :
    (s.retire i u target).iso.space = u.iso.space := by
  obtain ⟨ws, h⟩ := retire_eq s u i target
  rw [h]; simp [State.landedFrom]
@[simp] theorem State.retire_iso_tvec (s u : State) (i : Instr) (target : Option Addr) :
    (s.retire i u target).iso.tvec = u.iso.tvec := by
  obtain ⟨ws, h⟩ := retire_eq s u i target
  rw [h]; simp [State.landedFrom]
@[simp] theorem State.retire_iso_saveva (s u : State) (i : Instr) (target : Option Addr) :
    (s.retire i u target).iso.saveva = u.iso.saveva := by
  obtain ⟨ws, h⟩ := retire_eq s u i target
  rw [h]; simp [State.landedFrom]
@[simp] theorem State.retire_iso_partition (s u : State) (i : Instr) (target : Option Addr) :
    (s.retire i u target).iso.partition = u.iso.partition := by
  obtain ⟨ws, h⟩ := retire_eq s u i target
  rw [h]; simp [State.landedFrom]
@[simp] theorem State.retire_iso_granule (s u : State) (i : Instr) (target : Option Addr) :
    (s.retire i u target).iso.granule = u.iso.granule := by
  obtain ⟨ws, h⟩ := retire_eq s u i target
  rw [h]; simp [State.landedFrom]
@[simp] theorem State.retire_iso_key (s u : State) (i : Instr) (target : Option Addr) :
    (s.retire i u target).iso.key = u.iso.key := by
  obtain ⟨ws, h⟩ := retire_eq s u i target
  rw [h]; simp [State.landedFrom]
@[simp] theorem State.retire_acc (s u : State) (i : Instr) (target : Option Addr) :
    (s.retire i u target).cores.acc = u.cores.acc := by
  obtain ⟨ws, h⟩ := retire_eq s u i target
  rw [h]; simp [State.landedFrom]

theorem byteAt_of {s t : State} (h : t.mem.bytes = s.mem.bytes) (h2 : t.mem.l2 = s.mem.l2) (a : Nat × Nat) :
    t.byteAt a = s.byteAt a := by
  unfold State.byteAt State.l2Entry State.homeByte; rw [h, h2]

theorem keptSplits_retire (s u : State) (i : Instr) (target : Option Addr) : KeptSplits u (s.retire i u target) := by
  obtain ⟨ws, vs, hs⟩ := spl_retire s u i target
  obtain ⟨h1, h2, h3, h4⟩ := advance_keeps { u.spl with windows := vs } ws target
  refine ⟨⟨State.retire_cur .., hs ▸ h1, hs ▸ h2, fun k hk => ?_⟩, hs ▸ h3, hs ▸ h4⟩
  obtain ⟨ws, h⟩ := retire_eq s u i target
  rw [h]
  show sget {} (sset {} (s.landedFrom u i).grp.splits (s.landedFrom u i).cur _) k = _
  rw [sget_sset_ne _ _ _ (by rw [cur_landedFrom]; exact hk)]
  have ha := (windowsAside_cross s u i).others k hk
  exact ((windowsAside_land (s.overwrite i (s.crossLandings i u))).others k (by simpa using hk)).trans ha

theorem kept_retire (s u : State) (i : Instr) (target : Option Addr) : Kept u (s.retire i u target) where
  group := by constructor <;> simp
  splits := keptSplits_retire s u i target
  device := by constructor <;> simp
  memory := ⟨fun _ _ => byteAt_of (by simp) (by simp) _, by simp, by simp⟩

theorem keptFlags_retire (s u : State) (i : Instr) (target : Option Addr) : KeptFlags u (s.retire i u target) :=
  ⟨fl_retire s u i target, by simp, by simp⟩

theorem onward_retire {s u : State} (i : Instr) (h : u.spl.pc = s.spl.pc) (h1 : u.spl.redo = s.spl.redo) :
    Onward s (s.retire i u none) := by
  intro h0
  obtain ⟨ws, vs, hs⟩ := spl_retire s u i none
  rw [hs, advance_pc (p := { u.spl with windows := vs }) (h1.trans h0), ← h]

theorem pc_jump (s u : State) (i : Instr) (pc : Addr) : (s.retire i u (some pc)).spl.pc = pc := by
  obtain ⟨ws, vs, hs⟩ := spl_retire s u i (some pc)
  rw [hs, advance_jump]

/-! ## What is kept, one update after another -/

theorem kept_refl (s : State) : Kept s s :=
  ⟨⟨⟨rfl, rfl⟩, rfl, rfl, ⟨rfl, rfl, rfl, rfl⟩, rfl, rfl, ⟨rfl, rfl⟩⟩, ⟨⟨rfl, rfl, rfl, fun _ _ => rfl⟩, rfl, rfl⟩,
    ⟨rfl, rfl, rfl, ⟨rfl, rfl, rfl⟩, ⟨rfl, rfl, rfl⟩⟩, ⟨fun _ _ => rfl, rfl, rfl⟩⟩

theorem Kept.trans {s t u : State} (h : Kept s t) (k : Kept t u) : Kept s u where
  group := by
    obtain ⟨a, b⟩ := h.group; obtain ⟨a', b'⟩ := k.group
    constructor <;> simp_all
  splits := by
    have h1 := h.splits; have h2 := k.splits
    refine ⟨⟨h2.table.cur.trans h1.table.cur, h2.table.status.trans h1.table.status,
      h2.table.domain.trans h1.table.domain, fun j hj => ?_⟩, h2.mask.trans h1.mask, h2.mode.trans h1.mode⟩
    rw [h2.table.others j (by rw [h1.table.cur]; exact hj), h1.table.others j hj]
  device := by
    obtain ⟨a, b, c, d, e⟩ := h.device; obtain ⟨a', b', c', d', e'⟩ := k.device
    constructor <;> simp_all
  memory := ⟨fun pa cp => (k.memory.home pa cp).trans (h.memory.home pa cp), k.memory.block.trans h.memory.block,
    k.memory.blocks.trans h.memory.blocks⟩

theorem kept_of_sameButRegs {s t : State} (h : SameButRegs s t) : Kept s t := by
  rw [h]
  exact ⟨⟨⟨rfl, rfl⟩, rfl, rfl, ⟨rfl, rfl, rfl, rfl⟩, rfl, rfl, ⟨rfl, rfl⟩⟩, ⟨⟨rfl, rfl, rfl, fun _ _ => rfl⟩, rfl, rfl⟩,
    ⟨rfl, rfl, rfl, ⟨rfl, rfl, rfl⟩, ⟨rfl, rfl, rfl⟩⟩, ⟨fun _ _ => rfl, rfl, rfl⟩⟩

theorem landed_of_sameButRegs {s t : State} (h : SameButRegs s t) : t.landed = s.landed := by rw [h]; rfl

theorem keptFlags_of_sameButRegs {s t v : State} (h : SameButRegs s t) (k : KeptFlags t v) : KeptFlags s v :=
  ⟨k.flags.trans (landed_of_sameButRegs h), k.seeds.trans (by rw [h]), k.region.trans (by rw [h])⟩

theorem spl_of_sameButRegs {s t : State} (h : SameButRegs s t) : t.spl = s.spl := by rw [h]; rfl

/-- Registers written as `new` says and retired are as `new` says, but for lanes of open windows (R57). -/
theorem regsBecome_retire {i : Instr} {s u : State} {new : Nat → Nat → Option Word} (target : Option Addr)
    (hw : u.spl.windows = (s.ready i).spl.windows)
    (hr : ∀ r k, k < 32 → u.reg r k = (new r k).getD ((s.ready i).reg r k)) :
    RegsBecome (s.ready i) (s.retire i u target) new := by
  intro r _ k hk
  rw [reg_retire]
  rcases reg_crossLandings s u i (r := r) hk with h | ⟨h1, h2⟩
  · exact .inl (h.trans (hr r k hk))
  · right
    refine ⟨?_, h2⟩
    unfold State.watched at h1 ⊢
    rwa [hw] at h1

/-! ## Shapes of completion -/

/-- A meaning that writes registers only. -/
theorem sets_of_next {i : Instr} {s u : State} {f : State → Res} {new : Nat → Nat → Option Word} (h : Runs i s)
    (he : exec i s = gate i s f) (hu : f (s.ready i) = .next u) (hs : SameButRegs (s.ready i) u)
    (hr : ∀ r k, k < 32 → u.reg r k = (new r k).getD ((s.ready i).reg r k)) : Sets i s new := by
  refine ⟨_, he.trans (gate_next h hu), regsBecome_retire none (by rw [spl_of_sameButRegs hs]) hr,
    (kept_of_sameButRegs hs).trans (kept_retire s u i none),
    keptFlags_of_sameButRegs hs (keptFlags_retire s u i none), ?_⟩
  · have h1 := spl_of_sameButRegs hs
    exact onward_retire i (by rw [h1, pc_ready]) (by rw [h1, redo_ready])

/-- A meaning that sets pc and writes registers only. -/
theorem jumps_of_jump {i : Instr} {s u : State} {pc : Addr} {f : State → Res} {new : Nat → Nat → Option Word} (h : Runs i s)
    (he : exec i s = gate i s f) (hu : f (s.ready i) = .jump u pc) (hs : SameButRegs (s.ready i) u)
    (hr : ∀ r k, k < 32 → u.reg r k = (new r k).getD ((s.ready i).reg r k)) : Jumps i s pc new := by
  refine ⟨_, he.trans (gate_jump h hu), regsBecome_retire _ (by rw [spl_of_sameButRegs hs]) hr,
    (kept_of_sameButRegs hs).trans (kept_retire s u i _), keptFlags_of_sameButRegs hs (keptFlags_retire s u i _),
    pc_jump s u i pc⟩

theorem sets_mapLanes {i : Instr} {s : State} {d : Reg} {f : State → Nat → Word} (h : Runs i s)
    (he : exec i s = gate i s fun s => .next (s.mapLanes d (f s))) :
    Sets i s (inLanes (s.ready i) d (f (s.ready i))) :=
  sets_of_next h he rfl (sameButRegs_setLanes _ _ _) fun _ _ hk => State.reg_mapLanes _ _ _ hk

theorem sets_mapPairs {i : Instr} {s : State} {d : Reg} {f : State → Nat → DWord} (h : Runs i s)
    (he : exec i s = gate i s fun s => .next (s.mapPairs d (f s))) :
    Sets i s (inPairs (s.ready i) d (f (s.ready i))) :=
  sets_of_next h he rfl (sameButRegs_foldPairs _ _ _) fun _ _ hk => State.reg_mapPairs _ _ _ hk

theorem sets_setCtl {i : Instr} {s : State} {d : Reg} {f : State → Word} (h : Runs i s)
    (he : exec i s = gate i s fun s => .next (s.setCtl d (f s))) :
    Sets i s (inCtl (s.ready i) d (f (s.ready i))) :=
  sets_of_next h he rfl (sameButRegs_setReg _ _ _ _) fun _ _ hk => State.reg_setCtl _ _ _ hk

theorem sets_mapUniform {i : Instr} {s : State} {d : Reg} {f : State → Nat → Word} (h : Runs i s)
    (he : exec i s = gate i s fun s => .next (s.mapUniform d (f s))) :
    Sets i s (inUniform (s.ready i) d (f (s.ready i))) :=
  sets_of_next h he rfl (sameButRegs_setLanes _ _ _) fun _ _ hk => State.reg_mapUniform _ _ _ hk

end Sys2Proof.Machine
end

