-- ==== Sys2Proof/Laws/Flags.lean ====
section
/-! SUPPORT. Raising flags: what it changes, and the completion of an instruction whose lanes raise flags (R97). -/

namespace Sys2Proof.Machine

/-- Raising changes fl and the open region only. -/
theorem raise_eq (s : State) (i : Nat) (f : BitVec 6) :
    ∃ fl rg, s.raise i f = { s with grp := { s.grp with fl := fl, region := rg } } := by
  unfold State.raise
  split
  · exact ⟨_, _, rfl⟩
  · split <;> exact ⟨_, _, rfl⟩

theorem raiseAll_eq : ∀ (l : List (Nat × BitVec 6)) (s : State),
    ∃ fl rg, s.raiseAll l = { s with grp := { s.grp with fl := fl, region := rg } }
  | [], _ => ⟨_, _, rfl⟩
  | (i, f) :: rest, s => by
    obtain ⟨fl, rg, h⟩ := raiseAll_eq rest (s.raise i f)
    obtain ⟨fl', rg', h'⟩ := raise_eq s i f
    refine ⟨fl, rg, ?_⟩
    rw [State.raiseAll, h, h']

/-- No flag raised: nothing changes. -/
theorem raise_zero (s : State) (i : Nat) : s.raise i 0 = s := by simp [State.raise]

theorem raiseAll_zero (l : List Nat) (s : State) : s.raiseAll (l.map fun i => (i, 0)) = s := by
  induction l with
  | nil => rfl
  | cons i r ih => rw [List.map_cons, State.raiseAll, raise_zero, ih]

/-- What one lane's flags leave (R97). -/
theorem raise_none {s : State} (h : s.grp.region = none) (i : Nat) (f : BitVec 6) :
    (s.raise i f).grp.region = none ∧ (s.raise i f).grp.fl = s.grp.fl ||| f := by
  unfold State.raise
  split
  · subst_vars; simp [h]
  · simp [h]

theorem raise_some {s : State} {r : Region} (h : s.grp.region = some r) (i : Nat) (f : BitVec 6) :
    (s.raise i f).grp.fl = s.grp.fl ∧ ∃ r', (s.raise i f).grp.region = some r' ∧
      ∀ k, sget 0 r'.flags k = sget 0 r.flags k ||| (if k = i then f else 0) := by
  unfold State.raise
  split
  · subst_vars; exact ⟨rfl, r, h, by simp⟩
  · rw [h]
    refine ⟨rfl, _, rfl, fun k => ?_⟩
    simp only [sget_sset]; split <;> simp_all

theorem windows_raise (s : State) (i : Nat) (f : BitVec 6) : (s.raise i f).spl.windows = s.spl.windows := by
  obtain ⟨a, b, h⟩ := raise_eq s i f; rw [h]; rfl

/-- A flag that one lane raises with no region open, with the flags of the split's windows. -/
theorem landed_raise_none {s : State} (h : s.grp.region = none) (i : Nat) (f : BitVec 6) :
    (s.raise i f).landed = s.landed ||| f := by
  rw [← landed_or]
  exact landed_of (by rw [windows_raise]; rfl) (raise_none h i f).2

theorem landed_raise_some {s : State} {r : Region} (h : s.grp.region = some r) (i : Nat) (f : BitVec 6) :
    (s.raise i f).landed = s.landed := landed_of (by rw [windows_raise]) (raise_some h i f).1

/-- A list of lanes' flags raised (R97), in a state whose windows land them. -/
theorem raised_raiseAll (f : Nat → BitVec 6) : ∀ (ls : List Nat) (s t : State),
    t.grp.fl = (s.raiseAll (ls.map fun i => (i, f i))).landed →
    t.grp.region = (s.raiseAll (ls.map fun i => (i, f i))).grp.region → Raised s t ls f
  | [], s, t, hf, hr => by
    unfold Raised
    split
    · exact hf
    · rename_i r h; exact ⟨hf, r, hr.trans h, by simp⟩
  | i :: rest, s, t, hf, hr => by
    have ih := raised_raiseAll f rest (s.raise i (f i)) t hf hr
    unfold Raised at ih ⊢
    cases h : s.grp.region with
    | none =>
      rw [(raise_none h i (f i)).1, landed_raise_none h] at ih
      simpa using ih
    | some r =>
      obtain ⟨h2, r1, h1, hk1⟩ := raise_some h i (f i)
      rw [h1, landed_raise_some h] at ih
      obtain ⟨ha, r', hr, hk⟩ := ih
      refine ⟨ha, r', hr, fun k => ?_⟩
      rw [hk k, hk1 k]
      by_cases h3 : k = i <;> by_cases h4 : k ∈ rest <;> simp [h3, h4, BitVec.or_assoc]
      · subst h3; simp [h4]
      · subst h3; simp [h4]

theorem reg_raiseAll (l : List (Nat × BitVec 6)) (s : State) (r i : Nat) : (s.raiseAll l).reg r i = s.reg r i := by
  obtain ⟨a, b, h⟩ := raiseAll_eq l s; rw [h]; rfl

theorem active_raiseAll (l : List (Nat × BitVec 6)) (s : State) : (s.raiseAll l).active = s.active := by
  obtain ⟨a, b, h⟩ := raiseAll_eq l s; rw [h]; rfl

theorem kept_raiseAll (l : List (Nat × BitVec 6)) (s : State) : Kept s (s.raiseAll l) := by
  obtain ⟨a, b, h⟩ := raiseAll_eq l s; rw [h]
  exact ⟨⟨⟨rfl, rfl⟩, rfl, rfl, ⟨rfl, rfl, rfl, rfl⟩, rfl, rfl, ⟨rfl, rfl⟩⟩, ⟨⟨rfl, rfl, rfl, fun _ _ => rfl⟩, rfl, rfl⟩,
    ⟨rfl, rfl, rfl, ⟨rfl, rfl, rfl⟩, ⟨rfl, rfl, rfl⟩⟩, ⟨fun _ _ => rfl, rfl, rfl⟩⟩

theorem reg_mapFlags (s : State) (d : Reg) (f : Nat → Word × BitVec 6) {r k : Nat} (hk : k < 32) :
    (s.mapFlags d f).reg r k = (inLanes s d (fun i => (f i).1) r k).getD (s.reg r k) := by
  rw [State.mapFlags, State.reg_mapLanes _ _ _ hk, reg_raiseAll]
  simp only [inLanes, active_raiseAll]

/-- Where no lane raises a flag, only registers are written. -/
theorem mapFlags_zero {s : State} {d : Reg} {f : Nat → Word × BitVec 6} (h : ∀ i, (f i).2 = 0) :
    s.mapFlags d f = s.mapLanes d fun i => (f i).1 := by
  simp only [State.mapFlags, h, raiseAll_zero]

/-- A meaning that writes a value and flags per active lane. -/
theorem setsRaising_mapFlags {i : Instr} {s : State} {d : Reg} {f : State → Nat → Word × BitVec 6} (h : Runs i s)
    (he : exec i s = gate i s fun s => .next (s.mapFlags d (f s))) :
    SetsRaising i s (inLanes (s.ready i) d fun k => (f (s.ready i) k).1) (fun k => (f (s.ready i) k).2) := by
  generalize hu : s.ready i = u
  have hb : SameButRegs (u.raiseAll (u.active.map fun i => (i, (f u i).2))) (u.mapFlags d (f u)) :=
    sameButRegs_setLanes _ _ _
  have hs := raiseAll_eq (u.active.map fun i => (i, (f u i).2)) u
  have h1 : (u.mapFlags d (f u)).spl = u.spl := by
    rw [spl_of_sameButRegs hb]
    obtain ⟨a, b, h⟩ := hs; rw [h]; rfl
  refine ⟨_, he.trans (gate_next h rfl), ?_, ?_, ?_, ?_, ?_⟩
  · subst hu
    exact regsBecome_retire none (by rw [h1]) fun r k hk => reg_mapFlags _ d _ hk
  · rw [hu]; exact ((kept_raiseAll _ _).trans (kept_of_sameButRegs hb)).trans (kept_retire s _ i none)
  · rw [hu]
    exact raised_raiseAll _ _ _ _ ((fl_retire ..).trans (landed_of_sameButRegs hb))
      ((State.retire_grp_region ..).trans (by rw [hb]))
  · rw [hu, State.retire_grp_gs, hb]; obtain ⟨a, b, h⟩ := hs; rw [h]
  · rw [hu]
    exact onward_retire i (by rw [h1, ← hu, pc_ready]) (by rw [h1, ← hu, redo_ready])

end Sys2Proof.Machine
end

