-- ==== Sys2Proof/Laws/PerInstr.lean ====
section
/-! SUPPORT. Encoding, instruction by instruction: the fields of an instruction's word are read back whole. -/

namespace Sys2Proof.Laws

set_option maxRecDepth 20000
set_option linter.unusedSimpArgs false

/-- The decoder reads from an instruction's word the instruction with every operand, whether or not its fields fit. -/
def ReadBack.Statement (i : Instr) : Prop := ∀ w, encode i = some w → decodeFields w = .ok i

/-! ## Fields of a word -/

theorem zeros_ok {w mask : Word} {i : Instr} (h : w &&& mask = 0) : zeros w mask i = .ok i := if_pos h

theorem fields_f24 (op : BitVec 8) (a : BitVec 24) :
    let w : Word := op ++ a
    opcodeOf w = op.toNat ∧ fld w 0 24 = a := by
  refine ⟨congrArg BitVec.toNat ?_, ?_⟩ <;>
  · apply BitVec.eq_of_getLsbD_eq
    intro i hi
    simp only [fld, BitVec.getLsbD_extractLsb', BitVec.getLsbD_append, BitVec.getLsbD_and]
    interval_cases i <;> simp

theorem fields_z24 (op : BitVec 8) :
    let w : Word := op ++ 0#24
    opcodeOf w = op.toNat ∧ w &&& 0xFFFFFF#32 = 0 := by
  refine ⟨congrArg BitVec.toNat ?_, ?_⟩ <;>
  · apply BitVec.eq_of_getLsbD_eq
    intro i hi
    simp only [fld, BitVec.getLsbD_extractLsb', BitVec.getLsbD_append, BitVec.getLsbD_and]
    interval_cases i <;> simp

theorem fields_z6f18 (op : BitVec 8) (a : BitVec 18) :
    let w : Word := op ++ 0#6 ++ a
    opcodeOf w = op.toNat ∧ fld w 0 18 = a ∧ w &&& 0xFC0000#32 = 0 := by
  refine ⟨congrArg BitVec.toNat ?_, ?_, ?_⟩ <;>
  · apply BitVec.eq_of_getLsbD_eq
    intro i hi
    simp only [fld, BitVec.getLsbD_extractLsb', BitVec.getLsbD_append, BitVec.getLsbD_and]
    interval_cases i <;> simp

theorem fields_f6f18 (op : BitVec 8) (a : BitVec 6) (b : BitVec 18) :
    let w : Word := op ++ a ++ b
    opcodeOf w = op.toNat ∧ fld w 18 6 = a ∧ fld w 0 18 = b := by
  refine ⟨congrArg BitVec.toNat ?_, ?_, ?_⟩ <;>
  · apply BitVec.eq_of_getLsbD_eq
    intro i hi
    simp only [fld, BitVec.getLsbD_extractLsb', BitVec.getLsbD_append, BitVec.getLsbD_and]
    interval_cases i <;> simp

theorem fields_f6z18 (op : BitVec 8) (a : BitVec 6) :
    let w : Word := op ++ a ++ 0#18
    opcodeOf w = op.toNat ∧ fld w 18 6 = a ∧ w &&& 0x03FFFF#32 = 0 := by
  refine ⟨congrArg BitVec.toNat ?_, ?_, ?_⟩ <;>
  · apply BitVec.eq_of_getLsbD_eq
    intro i hi
    simp only [fld, BitVec.getLsbD_extractLsb', BitVec.getLsbD_append, BitVec.getLsbD_and]
    interval_cases i <;> simp

theorem fields_z14f10 (op : BitVec 8) (a : BitVec 10) :
    let w : Word := op ++ 0#14 ++ a
    opcodeOf w = op.toNat ∧ fld w 0 10 = a ∧ w &&& 0xFFFC00#32 = 0 := by
  refine ⟨congrArg BitVec.toNat ?_, ?_, ?_⟩ <;>
  · apply BitVec.eq_of_getLsbD_eq
    intro i hi
    simp only [fld, BitVec.getLsbD_extractLsb', BitVec.getLsbD_append, BitVec.getLsbD_and]
    interval_cases i <;> simp

theorem fields_f6f6f3f6f3 (op : BitVec 8) (a : BitVec 6) (b : BitVec 6) (c : BitVec 3) (d : BitVec 6) (e : BitVec 3) :
    let w : Word := op ++ a ++ b ++ c ++ d ++ e
    opcodeOf w = op.toNat ∧ fld w 18 6 = a ∧ fld w 12 6 = b ∧ fld w 9 3 = c ∧ fld w 3 6 = d ∧ fld w 0 3 = e := by
  refine ⟨congrArg BitVec.toNat ?_, ?_, ?_, ?_, ?_, ?_⟩ <;>
  · apply BitVec.eq_of_getLsbD_eq
    intro i hi
    simp only [fld, BitVec.getLsbD_extractLsb', BitVec.getLsbD_append, BitVec.getLsbD_and]
    interval_cases i <;> simp

theorem fields_f6f6f3z9 (op : BitVec 8) (a : BitVec 6) (b : BitVec 6) (c : BitVec 3) :
    let w : Word := op ++ a ++ b ++ c ++ 0#9
    opcodeOf w = op.toNat ∧ fld w 18 6 = a ∧ fld w 12 6 = b ∧ fld w 9 3 = c ∧ w &&& 0x0001FF#32 = 0 := by
  refine ⟨congrArg BitVec.toNat ?_, ?_, ?_, ?_, ?_⟩ <;>
  · apply BitVec.eq_of_getLsbD_eq
    intro i hi
    simp only [fld, BitVec.getLsbD_extractLsb', BitVec.getLsbD_append, BitVec.getLsbD_and]
    interval_cases i <;> simp

theorem fields_f6f6f3f4z5 (op : BitVec 8) (a : BitVec 6) (b : BitVec 6) (c : BitVec 3) (d : BitVec 4) :
    let w : Word := op ++ a ++ b ++ c ++ d ++ 0#5
    opcodeOf w = op.toNat ∧ fld w 18 6 = a ∧ fld w 12 6 = b ∧ fld w 9 3 = c ∧ fld w 5 4 = d ∧ w &&& 0x00001F#32 = 0 := by
  refine ⟨congrArg BitVec.toNat ?_, ?_, ?_, ?_, ?_, ?_⟩ <;>
  · apply BitVec.eq_of_getLsbD_eq
    intro i hi
    simp only [fld, BitVec.getLsbD_extractLsb', BitVec.getLsbD_append, BitVec.getLsbD_and]
    interval_cases i <;> simp

theorem fields_f6f6f3f4f5 (op : BitVec 8) (a : BitVec 6) (b : BitVec 6) (c : BitVec 3) (d : BitVec 4) (e : BitVec 5) :
    let w : Word := op ++ a ++ b ++ c ++ d ++ e
    opcodeOf w = op.toNat ∧ fld w 18 6 = a ∧ fld w 12 6 = b ∧ fld w 9 3 = c ∧ fld w 5 4 = d ∧ fld w 0 5 = e := by
  refine ⟨congrArg BitVec.toNat ?_, ?_, ?_, ?_, ?_, ?_⟩ <;>
  · apply BitVec.eq_of_getLsbD_eq
    intro i hi
    simp only [fld, BitVec.getLsbD_extractLsb', BitVec.getLsbD_append, BitVec.getLsbD_and]
    interval_cases i <;> simp

theorem fields_f6f6f3f4f2f3 (op : BitVec 8) (a : BitVec 6) (b : BitVec 6) (c : BitVec 3) (d : BitVec 4) (e : BitVec 2) (f : BitVec 3) :
    let w : Word := op ++ a ++ b ++ c ++ d ++ e ++ f
    opcodeOf w = op.toNat ∧ fld w 18 6 = a ∧ fld w 12 6 = b ∧ fld w 9 3 = c ∧ fld w 5 4 = d ∧ fld w 3 2 = e ∧ fld w 0 3 = f := by
  refine ⟨congrArg BitVec.toNat ?_, ?_, ?_, ?_, ?_, ?_, ?_⟩ <;>
  · apply BitVec.eq_of_getLsbD_eq
    intro i hi
    simp only [fld, BitVec.getLsbD_extractLsb', BitVec.getLsbD_append, BitVec.getLsbD_and]
    interval_cases i <;> simp

theorem fields_f6f6f3f4z1f4 (op : BitVec 8) (a : BitVec 6) (b : BitVec 6) (c : BitVec 3) (d : BitVec 4) (e : BitVec 4) :
    let w : Word := op ++ a ++ b ++ c ++ d ++ 0#1 ++ e
    opcodeOf w = op.toNat ∧ fld w 18 6 = a ∧ fld w 12 6 = b ∧ fld w 9 3 = c ∧ fld w 5 4 = d ∧ fld w 0 4 = e ∧ w &&& 0x000010#32 = 0 := by
  refine ⟨congrArg BitVec.toNat ?_, ?_, ?_, ?_, ?_, ?_, ?_⟩ <;>
  · apply BitVec.eq_of_getLsbD_eq
    intro i hi
    simp only [fld, BitVec.getLsbD_extractLsb', BitVec.getLsbD_append, BitVec.getLsbD_and]
    interval_cases i <;> simp

theorem fields_f6f6f3f4z2f3 (op : BitVec 8) (a : BitVec 6) (b : BitVec 6) (c : BitVec 3) (d : BitVec 4) (e : BitVec 3) :
    let w : Word := op ++ a ++ b ++ c ++ d ++ 0#2 ++ e
    opcodeOf w = op.toNat ∧ fld w 18 6 = a ∧ fld w 12 6 = b ∧ fld w 9 3 = c ∧ fld w 5 4 = d ∧ fld w 0 3 = e ∧ w &&& 0x000018#32 = 0 := by
  refine ⟨congrArg BitVec.toNat ?_, ?_, ?_, ?_, ?_, ?_, ?_⟩ <;>
  · apply BitVec.eq_of_getLsbD_eq
    intro i hi
    simp only [fld, BitVec.getLsbD_extractLsb', BitVec.getLsbD_append, BitVec.getLsbD_and]
    interval_cases i <;> simp

theorem fields_f6f6f3f4f4f1 (op : BitVec 8) (a : BitVec 6) (b : BitVec 6) (c : BitVec 3) (d : BitVec 4) (e : BitVec 4) (f : BitVec 1) :
    let w : Word := op ++ a ++ b ++ c ++ d ++ e ++ f
    opcodeOf w = op.toNat ∧ fld w 18 6 = a ∧ fld w 12 6 = b ∧ fld w 9 3 = c ∧ fld w 5 4 = d ∧ fld w 1 4 = e ∧ fld w 0 1 = f := by
  refine ⟨congrArg BitVec.toNat ?_, ?_, ?_, ?_, ?_, ?_, ?_⟩ <;>
  · apply BitVec.eq_of_getLsbD_eq
    intro i hi
    simp only [fld, BitVec.getLsbD_extractLsb', BitVec.getLsbD_append, BitVec.getLsbD_and]
    interval_cases i <;> simp

theorem fields_z6f6f3f4z4f1 (op : BitVec 8) (a : BitVec 6) (b : BitVec 3) (c : BitVec 4) (d : BitVec 1) :
    let w : Word := op ++ 0#6 ++ a ++ b ++ c ++ 0#4 ++ d
    opcodeOf w = op.toNat ∧ fld w 12 6 = a ∧ fld w 9 3 = b ∧ fld w 5 4 = c ∧ fld w 0 1 = d ∧ w &&& 0xFC001E#32 = 0 := by
  refine ⟨congrArg BitVec.toNat ?_, ?_, ?_, ?_, ?_, ?_⟩ <;>
  · apply BitVec.eq_of_getLsbD_eq
    intro i hi
    simp only [fld, BitVec.getLsbD_extractLsb', BitVec.getLsbD_append, BitVec.getLsbD_and]
    interval_cases i <;> simp

theorem fields_f6f6f3f4f3f2 (op : BitVec 8) (a : BitVec 6) (b : BitVec 6) (c : BitVec 3) (d : BitVec 4) (e : BitVec 3) (f : BitVec 2) :
    let w : Word := op ++ a ++ b ++ c ++ d ++ e ++ f
    opcodeOf w = op.toNat ∧ fld w 18 6 = a ∧ fld w 12 6 = b ∧ fld w 9 3 = c ∧ fld w 5 4 = d ∧ fld w 2 3 = e ∧ fld w 0 2 = f := by
  refine ⟨congrArg BitVec.toNat ?_, ?_, ?_, ?_, ?_, ?_, ?_⟩ <;>
  · apply BitVec.eq_of_getLsbD_eq
    intro i hi
    simp only [fld, BitVec.getLsbD_extractLsb', BitVec.getLsbD_append, BitVec.getLsbD_and]
    interval_cases i <;> simp

theorem fields_f6f6f3f4z3f2 (op : BitVec 8) (a : BitVec 6) (b : BitVec 6) (c : BitVec 3) (d : BitVec 4) (e : BitVec 2) :
    let w : Word := op ++ a ++ b ++ c ++ d ++ 0#3 ++ e
    opcodeOf w = op.toNat ∧ fld w 18 6 = a ∧ fld w 12 6 = b ∧ fld w 9 3 = c ∧ fld w 5 4 = d ∧ fld w 0 2 = e ∧ w &&& 0x00001C#32 = 0 := by
  refine ⟨congrArg BitVec.toNat ?_, ?_, ?_, ?_, ?_, ?_, ?_⟩ <;>
  · apply BitVec.eq_of_getLsbD_eq
    intro i hi
    simp only [fld, BitVec.getLsbD_extractLsb', BitVec.getLsbD_append, BitVec.getLsbD_and]
    interval_cases i <;> simp

theorem fields_f6f6z3f4z5 (op : BitVec 8) (a : BitVec 6) (b : BitVec 6) (c : BitVec 4) :
    let w : Word := op ++ a ++ b ++ 0#3 ++ c ++ 0#5
    opcodeOf w = op.toNat ∧ fld w 18 6 = a ∧ fld w 12 6 = b ∧ fld w 5 4 = c ∧ w &&& 0x000E1F#32 = 0 := by
  refine ⟨congrArg BitVec.toNat ?_, ?_, ?_, ?_, ?_⟩ <;>
  · apply BitVec.eq_of_getLsbD_eq
    intro i hi
    simp only [fld, BitVec.getLsbD_extractLsb', BitVec.getLsbD_append, BitVec.getLsbD_and]
    interval_cases i <;> simp

theorem fields_z15f4f3z2 (op : BitVec 8) (a : BitVec 4) (b : BitVec 3) :
    let w : Word := op ++ 0#15 ++ a ++ b ++ 0#2
    opcodeOf w = op.toNat ∧ fld w 5 4 = a ∧ fld w 2 3 = b ∧ w &&& 0xFFFE03#32 = 0 := by
  refine ⟨congrArg BitVec.toNat ?_, ?_, ?_, ?_⟩ <;>
  · apply BitVec.eq_of_getLsbD_eq
    intro i hi
    simp only [fld, BitVec.getLsbD_extractLsb', BitVec.getLsbD_append, BitVec.getLsbD_and]
    interval_cases i <;> simp

theorem fields_f6f6f3f4f3z2 (op : BitVec 8) (a : BitVec 6) (b : BitVec 6) (c : BitVec 3) (d : BitVec 4) (e : BitVec 3) :
    let w : Word := op ++ a ++ b ++ c ++ d ++ e ++ 0#2
    opcodeOf w = op.toNat ∧ fld w 18 6 = a ∧ fld w 12 6 = b ∧ fld w 9 3 = c ∧ fld w 5 4 = d ∧ fld w 2 3 = e ∧ w &&& 0x000003#32 = 0 := by
  refine ⟨congrArg BitVec.toNat ?_, ?_, ?_, ?_, ?_, ?_, ?_⟩ <;>
  · apply BitVec.eq_of_getLsbD_eq
    intro i hi
    simp only [fld, BitVec.getLsbD_extractLsb', BitVec.getLsbD_append, BitVec.getLsbD_and]
    interval_cases i <;> simp

theorem fields_z6f6f3f4f3z2 (op : BitVec 8) (a : BitVec 6) (b : BitVec 3) (c : BitVec 4) (d : BitVec 3) :
    let w : Word := op ++ 0#6 ++ a ++ b ++ c ++ d ++ 0#2
    opcodeOf w = op.toNat ∧ fld w 12 6 = a ∧ fld w 9 3 = b ∧ fld w 5 4 = c ∧ fld w 2 3 = d ∧ w &&& 0xFC0003#32 = 0 := by
  refine ⟨congrArg BitVec.toNat ?_, ?_, ?_, ?_, ?_, ?_⟩ <;>
  · apply BitVec.eq_of_getLsbD_eq
    intro i hi
    simp only [fld, BitVec.getLsbD_extractLsb', BitVec.getLsbD_append, BitVec.getLsbD_and]
    interval_cases i <;> simp

theorem fields_z6f6f3f4z5 (op : BitVec 8) (a : BitVec 6) (b : BitVec 3) (c : BitVec 4) :
    let w : Word := op ++ 0#6 ++ a ++ b ++ c ++ 0#5
    opcodeOf w = op.toNat ∧ fld w 12 6 = a ∧ fld w 9 3 = b ∧ fld w 5 4 = c ∧ w &&& 0xFC001F#32 = 0 := by
  refine ⟨congrArg BitVec.toNat ?_, ?_, ?_, ?_, ?_⟩ <;>
  · apply BitVec.eq_of_getLsbD_eq
    intro i hi
    simp only [fld, BitVec.getLsbD_extractLsb', BitVec.getLsbD_append, BitVec.getLsbD_and]
    interval_cases i <;> simp

theorem fields_f6f2f3z9f4 (op : BitVec 8) (a : BitVec 6) (b : BitVec 2) (c : BitVec 3) (d : BitVec 4) :
    let w : Word := op ++ a ++ b ++ c ++ 0#9 ++ d
    opcodeOf w = op.toNat ∧ fld w 18 6 = a ∧ fld w 16 2 = b ∧ fld w 13 3 = c ∧ fld w 0 4 = d ∧ w &&& 0x001FF0#32 = 0 := by
  refine ⟨congrArg BitVec.toNat ?_, ?_, ?_, ?_, ?_, ?_⟩ <;>
  · apply BitVec.eq_of_getLsbD_eq
    intro i hi
    simp only [fld, BitVec.getLsbD_extractLsb', BitVec.getLsbD_append, BitVec.getLsbD_and]
    interval_cases i <;> simp

theorem fields_f6f2f3f6f3f4 (op : BitVec 8) (a : BitVec 6) (b : BitVec 2) (c : BitVec 3) (d : BitVec 6) (e : BitVec 3) (f : BitVec 4) :
    let w : Word := op ++ a ++ b ++ c ++ d ++ e ++ f
    opcodeOf w = op.toNat ∧ fld w 18 6 = a ∧ fld w 16 2 = b ∧ fld w 13 3 = c ∧ fld w 7 6 = d ∧ fld w 4 3 = e ∧ fld w 0 4 = f := by
  refine ⟨congrArg BitVec.toNat ?_, ?_, ?_, ?_, ?_, ?_, ?_⟩ <;>
  · apply BitVec.eq_of_getLsbD_eq
    intro i hi
    simp only [fld, BitVec.getLsbD_extractLsb', BitVec.getLsbD_append, BitVec.getLsbD_and]
    interval_cases i <;> simp

theorem fields_f6f6f3f4z4f1 (op : BitVec 8) (a : BitVec 6) (b : BitVec 6) (c : BitVec 3) (d : BitVec 4) (e : BitVec 1) :
    let w : Word := op ++ a ++ b ++ c ++ d ++ 0#4 ++ e
    opcodeOf w = op.toNat ∧ fld w 18 6 = a ∧ fld w 12 6 = b ∧ fld w 9 3 = c ∧ fld w 5 4 = d ∧ fld w 0 1 = e ∧ w &&& 0x00001E#32 = 0 := by
  refine ⟨congrArg BitVec.toNat ?_, ?_, ?_, ?_, ?_, ?_, ?_⟩ <;>
  · apply BitVec.eq_of_getLsbD_eq
    intro i hi
    simp only [fld, BitVec.getLsbD_extractLsb', BitVec.getLsbD_append, BitVec.getLsbD_and]
    interval_cases i <;> simp

theorem fields_f6f2f3f6z3f4 (op : BitVec 8) (a : BitVec 6) (b : BitVec 2) (c : BitVec 3) (d : BitVec 6) (e : BitVec 4) :
    let w : Word := op ++ a ++ b ++ c ++ d ++ 0#3 ++ e
    opcodeOf w = op.toNat ∧ fld w 18 6 = a ∧ fld w 16 2 = b ∧ fld w 13 3 = c ∧ fld w 7 6 = d ∧ fld w 0 4 = e ∧ w &&& 0x000070#32 = 0 := by
  refine ⟨congrArg BitVec.toNat ?_, ?_, ?_, ?_, ?_, ?_, ?_⟩ <;>
  · apply BitVec.eq_of_getLsbD_eq
    intro i hi
    simp only [fld, BitVec.getLsbD_extractLsb', BitVec.getLsbD_append, BitVec.getLsbD_and]
    interval_cases i <;> simp

theorem fields_z20f4 (op : BitVec 8) (a : BitVec 4) :
    let w : Word := op ++ 0#20 ++ a
    opcodeOf w = op.toNat ∧ fld w 0 4 = a ∧ w &&& 0xFFFFF0#32 = 0 := by
  refine ⟨congrArg BitVec.toNat ?_, ?_, ?_⟩ <;>
  · apply BitVec.eq_of_getLsbD_eq
    intro i hi
    simp only [fld, BitVec.getLsbD_extractLsb', BitVec.getLsbD_append, BitVec.getLsbD_and]
    interval_cases i <;> simp

theorem fields_f6z9f4z1f4 (op : BitVec 8) (a : BitVec 6) (b : BitVec 4) (c : BitVec 4) :
    let w : Word := op ++ a ++ 0#9 ++ b ++ 0#1 ++ c
    opcodeOf w = op.toNat ∧ fld w 18 6 = a ∧ fld w 5 4 = b ∧ fld w 0 4 = c ∧ w &&& 0x03FE10#32 = 0 := by
  refine ⟨congrArg BitVec.toNat ?_, ?_, ?_, ?_, ?_⟩ <;>
  · apply BitVec.eq_of_getLsbD_eq
    intro i hi
    simp only [fld, BitVec.getLsbD_extractLsb', BitVec.getLsbD_append, BitVec.getLsbD_and]
    interval_cases i <;> simp

theorem fields_z16f8 (op : BitVec 8) (a : BitVec 8) :
    let w : Word := op ++ 0#16 ++ a
    opcodeOf w = op.toNat ∧ fld w 0 8 = a ∧ w &&& 0xFFFF00#32 = 0 := by
  refine ⟨congrArg BitVec.toNat ?_, ?_, ?_⟩ <;>
  · apply BitVec.eq_of_getLsbD_eq
    intro i hi
    simp only [fld, BitVec.getLsbD_extractLsb', BitVec.getLsbD_append, BitVec.getLsbD_and]
    interval_cases i <;> simp

theorem fields_z6f6f3z9 (op : BitVec 8) (a : BitVec 6) (b : BitVec 3) :
    let w : Word := op ++ 0#6 ++ a ++ b ++ 0#9
    opcodeOf w = op.toNat ∧ fld w 12 6 = a ∧ fld w 9 3 = b ∧ w &&& 0xFC01FF#32 = 0 := by
  refine ⟨congrArg BitVec.toNat ?_, ?_, ?_, ?_⟩ <;>
  · apply BitVec.eq_of_getLsbD_eq
    intro i hi
    simp only [fld, BitVec.getLsbD_extractLsb', BitVec.getLsbD_append, BitVec.getLsbD_and]
    interval_cases i <;> simp

theorem fields_f6z6f12 (op : BitVec 8) (a : BitVec 6) (b : BitVec 12) :
    let w : Word := op ++ a ++ 0#6 ++ b
    opcodeOf w = op.toNat ∧ fld w 18 6 = a ∧ fld w 0 12 = b ∧ w &&& 0x03F000#32 = 0 := by
  refine ⟨congrArg BitVec.toNat ?_, ?_, ?_, ?_⟩ <;>
  · apply BitVec.eq_of_getLsbD_eq
    intro i hi
    simp only [fld, BitVec.getLsbD_extractLsb', BitVec.getLsbD_append, BitVec.getLsbD_and]
    interval_cases i <;> simp

theorem fields_f6z17f1 (op : BitVec 8) (a : BitVec 6) (b : BitVec 1) :
    let w : Word := op ++ a ++ 0#17 ++ b
    opcodeOf w = op.toNat ∧ fld w 18 6 = a ∧ fld w 0 1 = b ∧ w &&& 0x03FFFE#32 = 0 := by
  refine ⟨congrArg BitVec.toNat ?_, ?_, ?_, ?_⟩ <;>
  · apply BitVec.eq_of_getLsbD_eq
    intro i hi
    simp only [fld, BitVec.getLsbD_extractLsb', BitVec.getLsbD_append, BitVec.getLsbD_and]
    interval_cases i <;> simp

/-! ## The instructions -/

theorem ReadBack.ill x : ReadBack.Statement (.ill x) := by
  rintro w ⟨⟩
  obtain ⟨h0, h1⟩ := fields_f24 0x00#8 x
  delta decodeFields
  rw [h0]
  show Except.ok _ = _
  rw [h1]

theorem ReadBack.nop : ReadBack.Statement (.nop) := by
  rintro w ⟨⟩
  obtain ⟨h0, h1⟩ := fields_z24 0x01#8
  delta decodeFields
  rw [h0]
  refine (zeros_ok h1).trans ?_
  rfl

theorem ReadBack.br o : ReadBack.Statement (.br o) := by
  rintro w ⟨⟩
  obtain ⟨h0, h1, h2⟩ := fields_z6f18 0x02#8 o
  delta decodeFields
  rw [h0]
  refine (zeros_ok h2).trans ?_
  rw [h1]

theorem ReadBack.bz c o : ReadBack.Statement (.bz c o) := by
  rintro w ⟨⟩
  obtain ⟨h0, h1, h2⟩ := fields_f6f18 0x03#8 c o
  delta decodeFields
  rw [h0]
  show Except.ok _ = _
  rw [h1, h2]

theorem ReadBack.bnz c o : ReadBack.Statement (.bnz c o) := by
  rintro w ⟨⟩
  obtain ⟨h0, h1, h2⟩ := fields_f6f18 0x04#8 c o
  delta decodeFields
  rw [h0]
  show Except.ok _ = _
  rw [h1, h2]

theorem ReadBack.bmz c o : ReadBack.Statement (.bmz c o) := by
  rintro w ⟨⟩
  obtain ⟨h0, h1, h2⟩ := fields_f6f18 0x05#8 c o
  delta decodeFields
  rw [h0]
  show Except.ok _ = _
  rw [h1, h2]

theorem ReadBack.bmnz c o : ReadBack.Statement (.bmnz c o) := by
  rintro w ⟨⟩
  obtain ⟨h0, h1, h2⟩ := fields_f6f18 0x06#8 c o
  delta decodeFields
  rw [h0]
  show Except.ok _ = _
  rw [h1, h2]

theorem ReadBack.call c o : ReadBack.Statement (.call c o) := by
  rintro w ⟨⟩
  obtain ⟨h0, h1, h2⟩ := fields_f6f18 0x07#8 c o
  delta decodeFields
  rw [h0]
  show Except.ok _ = _
  rw [h1, h2]

theorem ReadBack.ret c : ReadBack.Statement (.ret c) := by
  rintro w ⟨⟩
  obtain ⟨h0, h1, h2⟩ := fields_f6z18 0x08#8 c
  delta decodeFields
  rw [h0]
  refine (zeros_ok h2).trans ?_
  rw [h1]

theorem ReadBack.jmpr c o : ReadBack.Statement (.jmpr c o) := by
  rintro w ⟨⟩
  obtain ⟨h0, h1, h2⟩ := fields_f6f18 0x09#8 c o
  delta decodeFields
  rw [h0]
  show Except.ok _ = _
  rw [h1, h2]

theorem ReadBack.exit : ReadBack.Statement (.exit) := by
  rintro w ⟨⟩
  obtain ⟨h0, h1⟩ := fields_z24 0x0A#8
  delta decodeFields
  rw [h0]
  refine (zeros_ok h1).trans ?_
  rfl

theorem ReadBack.split c o : ReadBack.Statement (.split c o) := by
  rintro w ⟨⟩
  obtain ⟨h0, h1, h2⟩ := fields_f6f18 0x0B#8 c o
  delta decodeFields
  rw [h0]
  show Except.ok _ = _
  rw [h1, h2]

theorem ReadBack.join o : ReadBack.Statement (.join o) := by
  rintro w ⟨⟩
  obtain ⟨h0, h1, h2⟩ := fields_z6f18 0x0C#8 o
  delta decodeFields
  rw [h0]
  refine (zeros_ok h2).trans ?_
  rw [h1]

theorem ReadBack.yield n : ReadBack.Statement (.yield n) := by
  rintro w ⟨⟩
  obtain ⟨h0, h1, h2⟩ := fields_z14f10 0x0D#8 n
  delta decodeFields
  rw [h0]
  refine (zeros_ok h2).trans ?_
  rw [h1]

theorem ReadBack.yieldc c o : ReadBack.Statement (.yieldc c o) := by
  rintro w ⟨⟩
  obtain ⟨h0, h1, h2⟩ := fields_f6f18 0x0E#8 c o
  delta decodeFields
  rw [h0]
  show Except.ok _ = _
  rw [h1, h2]

theorem ReadBack.limm d i : ReadBack.Statement (.limm d i) := by
  rintro w ⟨⟩
  obtain ⟨h0, h1, h2⟩ := fields_f6f18 0x0F#8 d i
  delta decodeFields
  rw [h0]
  show Except.ok _ = _
  rw [h1, h2]

theorem ReadBack.lhi d i : ReadBack.Statement (.lhi d i) := by
  rintro w ⟨⟩
  obtain ⟨h0, h1, h2⟩ := fields_f6f18 0x10#8 d i
  delta decodeFields
  rw [h0]
  show Except.ok _ = _
  rw [h1, h2]

theorem ReadBack.mode d a p b q : ReadBack.Statement (.mode d a p b q) := by
  rintro w ⟨⟩
  obtain ⟨h0, h1, h2, h3, h4, h5⟩ := fields_f6f6f3f6f3 0x11#8 d a p b q
  delta decodeFields
  rw [h0]
  show Except.ok _ = _
  rw [h1, h2, h3, h4, h5]

theorem ReadBack.modei s i : ReadBack.Statement (.modei s i) := by
  rintro w ⟨⟩
  obtain ⟨h0, h1, h2⟩ := fields_f6f18 0x12#8 s i
  delta decodeFields
  rw [h0]
  show Except.ok _ = _
  rw [h1, h2]

theorem ReadBack.emSet d a p : ReadBack.Statement (.emSet d a p) := by
  rintro w ⟨⟩
  obtain ⟨h0, h1, h2, h3, h4⟩ := fields_f6f6f3z9 0x13#8 d a p
  delta decodeFields
  rw [h0]
  refine (zeros_ok h4).trans ?_
  rw [h1, h2, h3]

theorem ReadBack.emGet d : ReadBack.Statement (.emGet d) := by
  rintro w ⟨⟩
  obtain ⟨h0, h1, h2⟩ := fields_f6z18 0x14#8 d
  delta decodeFields
  rw [h0]
  refine (zeros_ok h2).trans ?_
  rw [h1]

theorem ReadBack.emAnd d a p : ReadBack.Statement (.emAnd d a p) := by
  rintro w ⟨⟩
  obtain ⟨h0, h1, h2, h3, h4⟩ := fields_f6f6f3z9 0x15#8 d a p
  delta decodeFields
  rw [h0]
  refine (zeros_ok h4).trans ?_
  rw [h1, h2, h3]

theorem ReadBack.emAndn d a p : ReadBack.Statement (.emAndn d a p) := by
  rintro w ⟨⟩
  obtain ⟨h0, h1, h2, h3, h4⟩ := fields_f6f6f3z9 0x16#8 d a p
  delta decodeFields
  rw [h0]
  refine (zeros_ok h4).trans ?_
  rw [h1, h2, h3]

theorem ReadBack.idx d i : ReadBack.Statement (.idx d i) := by
  rintro w ⟨⟩
  obtain ⟨h0, h1, h2⟩ := fields_f6f18 0x17#8 d i
  delta decodeFields
  rw [h0]
  show Except.ok _ = _
  rw [h1, h2]

theorem ReadBack.add d a p b q : ReadBack.Statement (.add d a p b q) := by
  rintro w ⟨⟩
  obtain ⟨h0, h1, h2, h3, h4, h5⟩ := fields_f6f6f3f6f3 0x20#8 d a p b q
  delta decodeFields
  rw [h0]
  show Except.ok _ = _
  rw [h1, h2, h3, h4, h5]

theorem ReadBack.sub d a p b q : ReadBack.Statement (.sub d a p b q) := by
  rintro w ⟨⟩
  obtain ⟨h0, h1, h2, h3, h4, h5⟩ := fields_f6f6f3f6f3 0x21#8 d a p b q
  delta decodeFields
  rw [h0]
  show Except.ok _ = _
  rw [h1, h2, h3, h4, h5]

theorem ReadBack.addc d a p b q : ReadBack.Statement (.addc d a p b q) := by
  rintro w ⟨⟩
  obtain ⟨h0, h1, h2, h3, h4, h5⟩ := fields_f6f6f3f6f3 0x22#8 d a p b q
  delta decodeFields
  rw [h0]
  show Except.ok _ = _
  rw [h1, h2, h3, h4, h5]

theorem ReadBack.subb d a p b q : ReadBack.Statement (.subb d a p b q) := by
  rintro w ⟨⟩
  obtain ⟨h0, h1, h2, h3, h4, h5⟩ := fields_f6f6f3f6f3 0x23#8 d a p b q
  delta decodeFields
  rw [h0]
  show Except.ok _ = _
  rw [h1, h2, h3, h4, h5]

theorem ReadBack.mul d a p b q : ReadBack.Statement (.mul d a p b q) := by
  rintro w ⟨⟩
  obtain ⟨h0, h1, h2, h3, h4, h5⟩ := fields_f6f6f3f6f3 0x24#8 d a p b q
  delta decodeFields
  rw [h0]
  show Except.ok _ = _
  rw [h1, h2, h3, h4, h5]

theorem ReadBack.mulh d a p b q : ReadBack.Statement (.mulh d a p b q) := by
  rintro w ⟨⟩
  obtain ⟨h0, h1, h2, h3, h4, h5⟩ := fields_f6f6f3f6f3 0x25#8 d a p b q
  delta decodeFields
  rw [h0]
  show Except.ok _ = _
  rw [h1, h2, h3, h4, h5]

theorem ReadBack.mulhn d a p b q : ReadBack.Statement (.mulhn d a p b q) := by
  rintro w ⟨⟩
  obtain ⟨h0, h1, h2, h3, h4, h5⟩ := fields_f6f6f3f6f3 0x26#8 d a p b q
  delta decodeFields
  rw [h0]
  show Except.ok _ = _
  rw [h1, h2, h3, h4, h5]

theorem ReadBack.mad d a p b q : ReadBack.Statement (.mad d a p b q) := by
  rintro w ⟨⟩
  obtain ⟨h0, h1, h2, h3, h4, h5⟩ := fields_f6f6f3f6f3 0x27#8 d a p b q
  delta decodeFields
  rw [h0]
  show Except.ok _ = _
  rw [h1, h2, h3, h4, h5]

theorem ReadBack.min d a p b q : ReadBack.Statement (.min d a p b q) := by
  rintro w ⟨⟩
  obtain ⟨h0, h1, h2, h3, h4, h5⟩ := fields_f6f6f3f6f3 0x28#8 d a p b q
  delta decodeFields
  rw [h0]
  show Except.ok _ = _
  rw [h1, h2, h3, h4, h5]

theorem ReadBack.max d a p b q : ReadBack.Statement (.max d a p b q) := by
  rintro w ⟨⟩
  obtain ⟨h0, h1, h2, h3, h4, h5⟩ := fields_f6f6f3f6f3 0x29#8 d a p b q
  delta decodeFields
  rw [h0]
  show Except.ok _ = _
  rw [h1, h2, h3, h4, h5]

theorem ReadBack.abs d a p : ReadBack.Statement (.abs d a p) := by
  rintro w ⟨⟩
  obtain ⟨h0, h1, h2, h3, h4⟩ := fields_f6f6f3z9 0x2A#8 d a p
  delta decodeFields
  rw [h0]
  refine (zeros_ok h4).trans ?_
  rw [h1, h2, h3]

theorem ReadBack.neg d a p : ReadBack.Statement (.neg d a p) := by
  rintro w ⟨⟩
  obtain ⟨h0, h1, h2, h3, h4⟩ := fields_f6f6f3z9 0x2B#8 d a p
  delta decodeFields
  rw [h0]
  refine (zeros_ok h4).trans ?_
  rw [h1, h2, h3]

theorem ReadBack.and d a p b q : ReadBack.Statement (.and d a p b q) := by
  rintro w ⟨⟩
  obtain ⟨h0, h1, h2, h3, h4, h5⟩ := fields_f6f6f3f6f3 0x2C#8 d a p b q
  delta decodeFields
  rw [h0]
  show Except.ok _ = _
  rw [h1, h2, h3, h4, h5]

theorem ReadBack.or d a p b q : ReadBack.Statement (.or d a p b q) := by
  rintro w ⟨⟩
  obtain ⟨h0, h1, h2, h3, h4, h5⟩ := fields_f6f6f3f6f3 0x2D#8 d a p b q
  delta decodeFields
  rw [h0]
  show Except.ok _ = _
  rw [h1, h2, h3, h4, h5]

theorem ReadBack.xor d a p b q : ReadBack.Statement (.xor d a p b q) := by
  rintro w ⟨⟩
  obtain ⟨h0, h1, h2, h3, h4, h5⟩ := fields_f6f6f3f6f3 0x2E#8 d a p b q
  delta decodeFields
  rw [h0]
  show Except.ok _ = _
  rw [h1, h2, h3, h4, h5]

theorem ReadBack.andn d a p b q : ReadBack.Statement (.andn d a p b q) := by
  rintro w ⟨⟩
  obtain ⟨h0, h1, h2, h3, h4, h5⟩ := fields_f6f6f3f6f3 0x2F#8 d a p b q
  delta decodeFields
  rw [h0]
  show Except.ok _ = _
  rw [h1, h2, h3, h4, h5]

theorem ReadBack.not d a p : ReadBack.Statement (.not d a p) := by
  rintro w ⟨⟩
  obtain ⟨h0, h1, h2, h3, h4⟩ := fields_f6f6f3z9 0x30#8 d a p
  delta decodeFields
  rw [h0]
  refine (zeros_ok h4).trans ?_
  rw [h1, h2, h3]

theorem ReadBack.shl d a p b q : ReadBack.Statement (.shl d a p b q) := by
  rintro w ⟨⟩
  obtain ⟨h0, h1, h2, h3, h4, h5⟩ := fields_f6f6f3f6f3 0x31#8 d a p b q
  delta decodeFields
  rw [h0]
  show Except.ok _ = _
  rw [h1, h2, h3, h4, h5]

theorem ReadBack.shr d a p b q : ReadBack.Statement (.shr d a p b q) := by
  rintro w ⟨⟩
  obtain ⟨h0, h1, h2, h3, h4, h5⟩ := fields_f6f6f3f6f3 0x32#8 d a p b q
  delta decodeFields
  rw [h0]
  show Except.ok _ = _
  rw [h1, h2, h3, h4, h5]

theorem ReadBack.sar d a p b q : ReadBack.Statement (.sar d a p b q) := by
  rintro w ⟨⟩
  obtain ⟨h0, h1, h2, h3, h4, h5⟩ := fields_f6f6f3f6f3 0x33#8 d a p b q
  delta decodeFields
  rw [h0]
  show Except.ok _ = _
  rw [h1, h2, h3, h4, h5]

theorem ReadBack.rot d a p b q : ReadBack.Statement (.rot d a p b q) := by
  rintro w ⟨⟩
  obtain ⟨h0, h1, h2, h3, h4, h5⟩ := fields_f6f6f3f6f3 0x34#8 d a p b q
  delta decodeFields
  rw [h0]
  show Except.ok _ = _
  rw [h1, h2, h3, h4, h5]

theorem ReadBack.dsh d a p b q : ReadBack.Statement (.dsh d a p b q) := by
  rintro w ⟨⟩
  obtain ⟨h0, h1, h2, h3, h4, h5⟩ := fields_f6f6f3f6f3 0x35#8 d a p b q
  delta decodeFields
  rw [h0]
  show Except.ok _ = _
  rw [h1, h2, h3, h4, h5]

theorem ReadBack.lzc d a p : ReadBack.Statement (.lzc d a p) := by
  rintro w ⟨⟩
  obtain ⟨h0, h1, h2, h3, h4⟩ := fields_f6f6f3z9 0x36#8 d a p
  delta decodeFields
  rw [h0]
  refine (zeros_ok h4).trans ?_
  rw [h1, h2, h3]

theorem ReadBack.tzc d a p : ReadBack.Statement (.tzc d a p) := by
  rintro w ⟨⟩
  obtain ⟨h0, h1, h2, h3, h4⟩ := fields_f6f6f3z9 0x37#8 d a p
  delta decodeFields
  rw [h0]
  refine (zeros_ok h4).trans ?_
  rw [h1, h2, h3]

theorem ReadBack.ones d a p : ReadBack.Statement (.ones d a p) := by
  rintro w ⟨⟩
  obtain ⟨h0, h1, h2, h3, h4⟩ := fields_f6f6f3z9 0x38#8 d a p
  delta decodeFields
  rw [h0]
  refine (zeros_ok h4).trans ?_
  rw [h1, h2, h3]

theorem ReadBack.rvb d a p : ReadBack.Statement (.rvb d a p) := by
  rintro w ⟨⟩
  obtain ⟨h0, h1, h2, h3, h4⟩ := fields_f6f6f3z9 0x39#8 d a p
  delta decodeFields
  rw [h0]
  refine (zeros_ok h4).trans ?_
  rw [h1, h2, h3]

theorem ReadBack.bxt d a p b q : ReadBack.Statement (.bxt d a p b q) := by
  rintro w ⟨⟩
  obtain ⟨h0, h1, h2, h3, h4, h5⟩ := fields_f6f6f3f6f3 0x3A#8 d a p b q
  delta decodeFields
  rw [h0]
  show Except.ok _ = _
  rw [h1, h2, h3, h4, h5]

theorem ReadBack.bdp d a p b q : ReadBack.Statement (.bdp d a p b q) := by
  rintro w ⟨⟩
  obtain ⟨h0, h1, h2, h3, h4, h5⟩ := fields_f6f6f3f6f3 0x3B#8 d a p b q
  delta decodeFields
  rw [h0]
  show Except.ok _ = _
  rw [h1, h2, h3, h4, h5]

theorem ReadBack.sel d a p b q : ReadBack.Statement (.sel d a p b q) := by
  rintro w ⟨⟩
  obtain ⟨h0, h1, h2, h3, h4, h5⟩ := fields_f6f6f3f6f3 0x3C#8 d a p b q
  delta decodeFields
  rw [h0]
  show Except.ok _ = _
  rw [h1, h2, h3, h4, h5]

theorem ReadBack.cmpeq d a p b q : ReadBack.Statement (.cmpeq d a p b q) := by
  rintro w ⟨⟩
  obtain ⟨h0, h1, h2, h3, h4, h5⟩ := fields_f6f6f3f6f3 0x3D#8 d a p b q
  delta decodeFields
  rw [h0]
  show Except.ok _ = _
  rw [h1, h2, h3, h4, h5]

theorem ReadBack.cmpne d a p b q : ReadBack.Statement (.cmpne d a p b q) := by
  rintro w ⟨⟩
  obtain ⟨h0, h1, h2, h3, h4, h5⟩ := fields_f6f6f3f6f3 0x3E#8 d a p b q
  delta decodeFields
  rw [h0]
  show Except.ok _ = _
  rw [h1, h2, h3, h4, h5]

theorem ReadBack.cmplt d a p b q : ReadBack.Statement (.cmplt d a p b q) := by
  rintro w ⟨⟩
  obtain ⟨h0, h1, h2, h3, h4, h5⟩ := fields_f6f6f3f6f3 0x3F#8 d a p b q
  delta decodeFields
  rw [h0]
  show Except.ok _ = _
  rw [h1, h2, h3, h4, h5]

theorem ReadBack.cmple d a p b q : ReadBack.Statement (.cmple d a p b q) := by
  rintro w ⟨⟩
  obtain ⟨h0, h1, h2, h3, h4, h5⟩ := fields_f6f6f3f6f3 0x40#8 d a p b q
  delta decodeFields
  rw [h0]
  show Except.ok _ = _
  rw [h1, h2, h3, h4, h5]

theorem ReadBack.mov d a p : ReadBack.Statement (.mov d a p) := by
  rintro w ⟨⟩
  obtain ⟨h0, h1, h2, h3, h4⟩ := fields_f6f6f3z9 0x41#8 d a p
  delta decodeFields
  rw [h0]
  refine (zeros_ok h4).trans ?_
  rw [h1, h2, h3]

theorem ReadBack.add64 d a p b q : ReadBack.Statement (.add64 d a p b q) := by
  rintro w ⟨⟩
  obtain ⟨h0, h1, h2, h3, h4, h5⟩ := fields_f6f6f3f6f3 0x42#8 d a p b q
  delta decodeFields
  rw [h0]
  show Except.ok _ = _
  rw [h1, h2, h3, h4, h5]

theorem ReadBack.lea d a p b q : ReadBack.Statement (.lea d a p b q) := by
  rintro w ⟨⟩
  obtain ⟨h0, h1, h2, h3, h4, h5⟩ := fields_f6f6f3f6f3 0x43#8 d a p b q
  delta decodeFields
  rw [h0]
  show Except.ok _ = _
  rw [h1, h2, h3, h4, h5]

theorem ReadBack.sxt d a p b q : ReadBack.Statement (.sxt d a p b q) := by
  rintro w ⟨⟩
  obtain ⟨h0, h1, h2, h3, h4, h5⟩ := fields_f6f6f3f6f3 0x44#8 d a p b q
  delta decodeFields
  rw [h0]
  show Except.ok _ = _
  rw [h1, h2, h3, h4, h5]

theorem ReadBack.zxt d a p b q : ReadBack.Statement (.zxt d a p b q) := by
  rintro w ⟨⟩
  obtain ⟨h0, h1, h2, h3, h4, h5⟩ := fields_f6f6f3f6f3 0x45#8 d a p b q
  delta decodeFields
  rw [h0]
  show Except.ok _ = _
  rw [h1, h2, h3, h4, h5]

theorem ReadBack.fadd d a p b q : ReadBack.Statement (.fadd d a p b q) := by
  rintro w ⟨⟩
  obtain ⟨h0, h1, h2, h3, h4, h5⟩ := fields_f6f6f3f6f3 0x50#8 d a p b q
  delta decodeFields
  rw [h0]
  show Except.ok _ = _
  rw [h1, h2, h3, h4, h5]

theorem ReadBack.fsub d a p b q : ReadBack.Statement (.fsub d a p b q) := by
  rintro w ⟨⟩
  obtain ⟨h0, h1, h2, h3, h4, h5⟩ := fields_f6f6f3f6f3 0x51#8 d a p b q
  delta decodeFields
  rw [h0]
  show Except.ok _ = _
  rw [h1, h2, h3, h4, h5]

theorem ReadBack.fmul d a p b q : ReadBack.Statement (.fmul d a p b q) := by
  rintro w ⟨⟩
  obtain ⟨h0, h1, h2, h3, h4, h5⟩ := fields_f6f6f3f6f3 0x52#8 d a p b q
  delta decodeFields
  rw [h0]
  show Except.ok _ = _
  rw [h1, h2, h3, h4, h5]

theorem ReadBack.ffma d a p b q : ReadBack.Statement (.ffma d a p b q) := by
  rintro w ⟨⟩
  obtain ⟨h0, h1, h2, h3, h4, h5⟩ := fields_f6f6f3f6f3 0x53#8 d a p b q
  delta decodeFields
  rw [h0]
  show Except.ok _ = _
  rw [h1, h2, h3, h4, h5]

theorem ReadBack.ffms d a p b q : ReadBack.Statement (.ffms d a p b q) := by
  rintro w ⟨⟩
  obtain ⟨h0, h1, h2, h3, h4, h5⟩ := fields_f6f6f3f6f3 0x54#8 d a p b q
  delta decodeFields
  rw [h0]
  show Except.ok _ = _
  rw [h1, h2, h3, h4, h5]

theorem ReadBack.fmin d a p b q : ReadBack.Statement (.fmin d a p b q) := by
  rintro w ⟨⟩
  obtain ⟨h0, h1, h2, h3, h4, h5⟩ := fields_f6f6f3f6f3 0x55#8 d a p b q
  delta decodeFields
  rw [h0]
  show Except.ok _ = _
  rw [h1, h2, h3, h4, h5]

theorem ReadBack.fmax d a p b q : ReadBack.Statement (.fmax d a p b q) := by
  rintro w ⟨⟩
  obtain ⟨h0, h1, h2, h3, h4, h5⟩ := fields_f6f6f3f6f3 0x56#8 d a p b q
  delta decodeFields
  rw [h0]
  show Except.ok _ = _
  rw [h1, h2, h3, h4, h5]

theorem ReadBack.fabs d a p : ReadBack.Statement (.fabs d a p) := by
  rintro w ⟨⟩
  obtain ⟨h0, h1, h2, h3, h4⟩ := fields_f6f6f3z9 0x57#8 d a p
  delta decodeFields
  rw [h0]
  refine (zeros_ok h4).trans ?_
  rw [h1, h2, h3]

theorem ReadBack.fneg d a p : ReadBack.Statement (.fneg d a p) := by
  rintro w ⟨⟩
  obtain ⟨h0, h1, h2, h3, h4⟩ := fields_f6f6f3z9 0x58#8 d a p
  delta decodeFields
  rw [h0]
  refine (zeros_ok h4).trans ?_
  rw [h1, h2, h3]

theorem ReadBack.fcmpeq d a p b q : ReadBack.Statement (.fcmpeq d a p b q) := by
  rintro w ⟨⟩
  obtain ⟨h0, h1, h2, h3, h4, h5⟩ := fields_f6f6f3f6f3 0x59#8 d a p b q
  delta decodeFields
  rw [h0]
  show Except.ok _ = _
  rw [h1, h2, h3, h4, h5]

theorem ReadBack.fcmplt d a p b q : ReadBack.Statement (.fcmplt d a p b q) := by
  rintro w ⟨⟩
  obtain ⟨h0, h1, h2, h3, h4, h5⟩ := fields_f6f6f3f6f3 0x5A#8 d a p b q
  delta decodeFields
  rw [h0]
  show Except.ok _ = _
  rw [h1, h2, h3, h4, h5]

theorem ReadBack.fcmple d a p b q : ReadBack.Statement (.fcmple d a p b q) := by
  rintro w ⟨⟩
  obtain ⟨h0, h1, h2, h3, h4, h5⟩ := fields_f6f6f3f6f3 0x5B#8 d a p b q
  delta decodeFields
  rw [h0]
  show Except.ok _ = _
  rw [h1, h2, h3, h4, h5]

theorem ReadBack.fcmpun d a p b q : ReadBack.Statement (.fcmpun d a p b q) := by
  rintro w ⟨⟩
  obtain ⟨h0, h1, h2, h3, h4, h5⟩ := fields_f6f6f3f6f3 0x5C#8 d a p b q
  delta decodeFields
  rw [h0]
  show Except.ok _ = _
  rw [h1, h2, h3, h4, h5]

theorem ReadBack.fcls d a p : ReadBack.Statement (.fcls d a p) := by
  rintro w ⟨⟩
  obtain ⟨h0, h1, h2, h3, h4⟩ := fields_f6f6f3z9 0x5D#8 d a p
  delta decodeFields
  rw [h0]
  refine (zeros_ok h4).trans ?_
  rw [h1, h2, h3]

theorem ReadBack.fcvt d a p : ReadBack.Statement (.fcvt d a p) := by
  rintro w ⟨⟩
  obtain ⟨h0, h1, h2, h3, h4⟩ := fields_f6f6f3z9 0x5E#8 d a p
  delta decodeFields
  rw [h0]
  refine (zeros_ok h4).trans ?_
  rw [h1, h2, h3]

theorem ReadBack.fcvti d a p : ReadBack.Statement (.fcvti d a p) := by
  rintro w ⟨⟩
  obtain ⟨h0, h1, h2, h3, h4⟩ := fields_f6f6f3z9 0x5F#8 d a p
  delta decodeFields
  rw [h0]
  refine (zeros_ok h4).trans ?_
  rw [h1, h2, h3]

theorem ReadBack.fcvtf d a p : ReadBack.Statement (.fcvtf d a p) := by
  rintro w ⟨⟩
  obtain ⟨h0, h1, h2, h3, h4⟩ := fields_f6f6f3z9 0x60#8 d a p
  delta decodeFields
  rw [h0]
  refine (zeros_ok h4).trans ?_
  rw [h1, h2, h3]

theorem ReadBack.frnd d a p : ReadBack.Statement (.frnd d a p) := by
  rintro w ⟨⟩
  obtain ⟨h0, h1, h2, h3, h4⟩ := fields_f6f6f3z9 0x61#8 d a p
  delta decodeFields
  rw [h0]
  refine (zeros_ok h4).trans ?_
  rw [h1, h2, h3]

theorem ReadBack.fscl d a p b q : ReadBack.Statement (.fscl d a p b q) := by
  rintro w ⟨⟩
  obtain ⟨h0, h1, h2, h3, h4, h5⟩ := fields_f6f6f3f6f3 0x62#8 d a p b q
  delta decodeFields
  rw [h0]
  show Except.ok _ = _
  rw [h1, h2, h3, h4, h5]

theorem ReadBack.frcp d a p : ReadBack.Statement (.frcp d a p) := by
  rintro w ⟨⟩
  obtain ⟨h0, h1, h2, h3, h4⟩ := fields_f6f6f3z9 0x63#8 d a p
  delta decodeFields
  rw [h0]
  refine (zeros_ok h4).trans ?_
  rw [h1, h2, h3]

theorem ReadBack.frsq d a p : ReadBack.Statement (.frsq d a p) := by
  rintro w ⟨⟩
  obtain ⟨h0, h1, h2, h3, h4⟩ := fields_f6f6f3z9 0x64#8 d a p
  delta decodeFields
  rw [h0]
  refine (zeros_ok h4).trans ?_
  rw [h1, h2, h3]

theorem ReadBack.fsqrt d a p : ReadBack.Statement (.fsqrt d a p) := by
  rintro w ⟨⟩
  obtain ⟨h0, h1, h2, h3, h4⟩ := fields_f6f6f3z9 0x65#8 d a p
  delta decodeFields
  rw [h0]
  refine (zeros_ok h4).trans ?_
  rw [h1, h2, h3]

theorem ReadBack.fex2 d a p : ReadBack.Statement (.fex2 d a p) := by
  rintro w ⟨⟩
  obtain ⟨h0, h1, h2, h3, h4⟩ := fields_f6f6f3z9 0x66#8 d a p
  delta decodeFields
  rw [h0]
  refine (zeros_ok h4).trans ?_
  rw [h1, h2, h3]

theorem ReadBack.flg2 d a p : ReadBack.Statement (.flg2 d a p) := by
  rintro w ⟨⟩
  obtain ⟨h0, h1, h2, h3, h4⟩ := fields_f6f6f3z9 0x67#8 d a p
  delta decodeFields
  rw [h0]
  refine (zeros_ok h4).trans ?_
  rw [h1, h2, h3]

theorem ReadBack.fsin d a p : ReadBack.Statement (.fsin d a p) := by
  rintro w ⟨⟩
  obtain ⟨h0, h1, h2, h3, h4⟩ := fields_f6f6f3z9 0x68#8 d a p
  delta decodeFields
  rw [h0]
  refine (zeros_ok h4).trans ?_
  rw [h1, h2, h3]

theorem ReadBack.fcos d a p : ReadBack.Statement (.fcos d a p) := by
  rintro w ⟨⟩
  obtain ⟨h0, h1, h2, h3, h4⟩ := fields_f6f6f3z9 0x69#8 d a p
  delta decodeFields
  rw [h0]
  refine (zeros_ok h4).trans ?_
  rw [h1, h2, h3]

theorem ReadBack.zmul d a p b q : ReadBack.Statement (.zmul d a p b q) := by
  rintro w ⟨⟩
  obtain ⟨h0, h1, h2, h3, h4, h5⟩ := fields_f6f6f3f6f3 0x6A#8 d a p b q
  delta decodeFields
  rw [h0]
  show Except.ok _ = _
  rw [h1, h2, h3, h4, h5]

theorem ReadBack.zfma d a p b q : ReadBack.Statement (.zfma d a p b q) := by
  rintro w ⟨⟩
  obtain ⟨h0, h1, h2, h3, h4, h5⟩ := fields_f6f6f3f6f3 0x6B#8 d a p b q
  delta decodeFields
  rw [h0]
  show Except.ok _ = _
  rw [h1, h2, h3, h4, h5]

theorem ReadBack.zcnj d a p : ReadBack.Statement (.zcnj d a p) := by
  rintro w ⟨⟩
  obtain ⟨h0, h1, h2, h3, h4⟩ := fields_f6f6f3z9 0x6C#8 d a p
  delta decodeFields
  rw [h0]
  refine (zeros_ok h4).trans ?_
  rw [h1, h2, h3]

theorem ReadBack.srnd d a p b q : ReadBack.Statement (.srnd d a p b q) := by
  rintro w ⟨⟩
  obtain ⟨h0, h1, h2, h3, h4, h5⟩ := fields_f6f6f3f6f3 0x6D#8 d a p b q
  delta decodeFields
  rw [h0]
  show Except.ok _ = _
  rw [h1, h2, h3, h4, h5]

theorem ReadBack.mxscl d a p b q : ReadBack.Statement (.mxscl d a p b q) := by
  rintro w ⟨⟩
  obtain ⟨h0, h1, h2, h3, h4, h5⟩ := fields_f6f6f3f6f3 0x6E#8 d a p b q
  delta decodeFields
  rw [h0]
  show Except.ok _ = _
  rw [h1, h2, h3, h4, h5]

theorem ReadBack.mxpak d a p b q : ReadBack.Statement (.mxpak d a p b q) := by
  rintro w ⟨⟩
  obtain ⟨h0, h1, h2, h3, h4, h5⟩ := fields_f6f6f3f6f3 0x6F#8 d a p b q
  delta decodeFields
  rw [h0]
  show Except.ok _ = _
  rw [h1, h2, h3, h4, h5]

theorem ReadBack.mxunp d a p b q : ReadBack.Statement (.mxunp d a p b q) := by
  rintro w ⟨⟩
  obtain ⟨h0, h1, h2, h3, h4, h5⟩ := fields_f6f6f3f6f3 0x70#8 d a p b q
  delta decodeFields
  rw [h0]
  show Except.ok _ = _
  rw [h1, h2, h3, h4, h5]

theorem ReadBack.lperm d a p b q : ReadBack.Statement (.lperm d a p b q) := by
  rintro w ⟨⟩
  obtain ⟨h0, h1, h2, h3, h4, h5⟩ := fields_f6f6f3f6f3 0x80#8 d a p b q
  delta decodeFields
  rw [h0]
  show Except.ok _ = _
  rw [h1, h2, h3, h4, h5]

theorem ReadBack.lqAny d a p : ReadBack.Statement (.lqAny d a p) := by
  rintro w ⟨⟩
  obtain ⟨h0, h1, h2, h3, h4⟩ := fields_f6f6f3z9 0x81#8 d a p
  delta decodeFields
  rw [h0]
  refine (zeros_ok h4).trans ?_
  rw [h1, h2, h3]

theorem ReadBack.lqAll d a p : ReadBack.Statement (.lqAll d a p) := by
  rintro w ⟨⟩
  obtain ⟨h0, h1, h2, h3, h4⟩ := fields_f6f6f3z9 0x82#8 d a p
  delta decodeFields
  rw [h0]
  refine (zeros_ok h4).trans ?_
  rw [h1, h2, h3]

theorem ReadBack.lqSet d a p : ReadBack.Statement (.lqSet d a p) := by
  rintro w ⟨⟩
  obtain ⟨h0, h1, h2, h3, h4⟩ := fields_f6f6f3z9 0x83#8 d a p
  delta decodeFields
  rw [h0]
  refine (zeros_ok h4).trans ?_
  rw [h1, h2, h3]

theorem ReadBack.gredAdd d a p : ReadBack.Statement (.gredAdd d a p) := by
  rintro w ⟨⟩
  obtain ⟨h0, h1, h2, h3, h4⟩ := fields_f6f6f3z9 0x84#8 d a p
  delta decodeFields
  rw [h0]
  refine (zeros_ok h4).trans ?_
  rw [h1, h2, h3]

theorem ReadBack.gredMin d a p : ReadBack.Statement (.gredMin d a p) := by
  rintro w ⟨⟩
  obtain ⟨h0, h1, h2, h3, h4⟩ := fields_f6f6f3z9 0x85#8 d a p
  delta decodeFields
  rw [h0]
  refine (zeros_ok h4).trans ?_
  rw [h1, h2, h3]

theorem ReadBack.gredMax d a p : ReadBack.Statement (.gredMax d a p) := by
  rintro w ⟨⟩
  obtain ⟨h0, h1, h2, h3, h4⟩ := fields_f6f6f3z9 0x86#8 d a p
  delta decodeFields
  rw [h0]
  refine (zeros_ok h4).trans ?_
  rw [h1, h2, h3]

theorem ReadBack.gredAnd d a p : ReadBack.Statement (.gredAnd d a p) := by
  rintro w ⟨⟩
  obtain ⟨h0, h1, h2, h3, h4⟩ := fields_f6f6f3z9 0x87#8 d a p
  delta decodeFields
  rw [h0]
  refine (zeros_ok h4).trans ?_
  rw [h1, h2, h3]

theorem ReadBack.gredOr d a p : ReadBack.Statement (.gredOr d a p) := by
  rintro w ⟨⟩
  obtain ⟨h0, h1, h2, h3, h4⟩ := fields_f6f6f3z9 0x88#8 d a p
  delta decodeFields
  rw [h0]
  refine (zeros_ok h4).trans ?_
  rw [h1, h2, h3]

theorem ReadBack.gredXor d a p : ReadBack.Statement (.gredXor d a p) := by
  rintro w ⟨⟩
  obtain ⟨h0, h1, h2, h3, h4⟩ := fields_f6f6f3z9 0x89#8 d a p
  delta decodeFields
  rw [h0]
  refine (zeros_ok h4).trans ?_
  rw [h1, h2, h3]

theorem ReadBack.gscanAdd d a p : ReadBack.Statement (.gscanAdd d a p) := by
  rintro w ⟨⟩
  obtain ⟨h0, h1, h2, h3, h4⟩ := fields_f6f6f3z9 0x8A#8 d a p
  delta decodeFields
  rw [h0]
  refine (zeros_ok h4).trans ?_
  rw [h1, h2, h3]

theorem ReadBack.gscanMax d a p : ReadBack.Statement (.gscanMax d a p) := by
  rintro w ⟨⟩
  obtain ⟨h0, h1, h2, h3, h4⟩ := fields_f6f6f3z9 0x8B#8 d a p
  delta decodeFields
  rw [h0]
  refine (zeros_ok h4).trans ?_
  rw [h1, h2, h3]

theorem ReadBack.isect d a p l : ReadBack.Statement (.isect d a p l) := by
  rintro w ⟨⟩
  obtain ⟨h0, h1, h2, h3, h4, h5⟩ := fields_f6f6f3f4z5 0x8C#8 d a p l
  delta decodeFields
  rw [h0]
  refine (zeros_ok h5).trans ?_
  rw [h1, h2, h3, h4]

theorem ReadBack.topk d a p l x : ReadBack.Statement (.topk d a p l x) := by
  rintro w ⟨⟩
  obtain ⟨h0, h1, h2, h3, h4, h5⟩ := fields_f6f6f3f4f5 0x8D#8 d a p l x
  delta decodeFields
  rw [h0]
  show Except.ok _ = _
  rw [h1, h2, h3, h4, h5]

theorem ReadBack.dgrp d a p l x : ReadBack.Statement (.dgrp d a p l x) := by
  rintro w ⟨⟩
  obtain ⟨h0, h1, h2, h3, h4, h5⟩ := fields_f6f6f3f4f5 0x8E#8 d a p l x
  delta decodeFields
  rw [h0]
  show Except.ok _ = _
  rw [h1, h2, h3, h4, h5]

theorem ReadBack.prune d a p l : ReadBack.Statement (.prune d a p l) := by
  rintro w ⟨⟩
  obtain ⟨h0, h1, h2, h3, h4, h5⟩ := fields_f6f6f3f4z5 0x8F#8 d a p l
  delta decodeFields
  rw [h0]
  refine (zeros_ok h5).trans ?_
  rw [h1, h2, h3, h4]

theorem ReadBack.ld d a p l h w : ReadBack.Statement (.ld d a p l h w) := by
  rintro w ⟨⟩
  obtain ⟨h0, h1, h2, h3, h4, h5, h6⟩ := fields_f6f6f3f4f2f3 0x98#8 d a p l h w
  delta decodeFields
  rw [h0]
  show Except.ok _ = _
  rw [h1, h2, h3, h4, h5, h6]

theorem ReadBack.st d a p l h w : ReadBack.Statement (.st d a p l h w) := by
  rintro w ⟨⟩
  obtain ⟨h0, h1, h2, h3, h4, h5, h6⟩ := fields_f6f6f3f4f2f3 0x99#8 d a p l h w
  delta decodeFields
  rw [h0]
  show Except.ok _ = _
  rw [h1, h2, h3, h4, h5, h6]

theorem ReadBack.ldc d a p l h w : ReadBack.Statement (.ldc d a p l h w) := by
  rintro w ⟨⟩
  obtain ⟨h0, h1, h2, h3, h4, h5, h6⟩ := fields_f6f6f3f4f2f3 0x9A#8 d a p l h w
  delta decodeFields
  rw [h0]
  show Except.ok _ = _
  rw [h1, h2, h3, h4, h5, h6]

theorem ReadBack.stm d a p l e : ReadBack.Statement (.stm d a p l e) := by
  rintro w ⟨⟩
  obtain ⟨h0, h1, h2, h3, h4, h5, h6⟩ := fields_f6f6f3f4z1f4 0x9B#8 d a p l e
  delta decodeFields
  rw [h0]
  refine (zeros_ok h6).trans ?_
  rw [h1, h2, h3, h4, h5]

theorem ReadBack.lds d a p l w : ReadBack.Statement (.lds d a p l w) := by
  rintro w ⟨⟩
  obtain ⟨h0, h1, h2, h3, h4, h5, h6⟩ := fields_f6f6f3f4z2f3 0x9C#8 d a p l w
  delta decodeFields
  rw [h0]
  refine (zeros_ok h6).trans ?_
  rw [h1, h2, h3, h4, h5]

theorem ReadBack.sts d a p l w : ReadBack.Statement (.sts d a p l w) := by
  rintro w ⟨⟩
  obtain ⟨h0, h1, h2, h3, h4, h5, h6⟩ := fields_f6f6f3f4z2f3 0x9D#8 d a p l w
  delta decodeFields
  rw [h0]
  refine (zeros_ok h6).trans ?_
  rw [h1, h2, h3, h4, h5]

theorem ReadBack.ldsp d a p l o w : ReadBack.Statement (.ldsp d a p l o w) := by
  rintro w ⟨⟩
  obtain ⟨h0, h1, h2, h3, h4, h5, h6⟩ := fields_f6f6f3f4f4f1 0x9E#8 d a p l o w
  delta decodeFields
  rw [h0]
  show Except.ok _ = _
  rw [h1, h2, h3, h4, h5, h6]

theorem ReadBack.pref a p l x : ReadBack.Statement (.pref a p l x) := by
  rintro w ⟨⟩
  obtain ⟨h0, h1, h2, h3, h4, h5⟩ := fields_z6f6f3f4z4f1 0x9F#8 a p l x
  delta decodeFields
  rw [h0]
  refine (zeros_ok h5).trans ?_
  rw [h1, h2, h3, h4]

theorem ReadBack.ldacq d a p l s w : ReadBack.Statement (.ldacq d a p l s w) := by
  rintro w ⟨⟩
  obtain ⟨h0, h1, h2, h3, h4, h5, h6⟩ := fields_f6f6f3f4f3f2 0xA0#8 d a p l s w
  delta decodeFields
  rw [h0]
  show Except.ok _ = _
  rw [h1, h2, h3, h4, h5, h6]

theorem ReadBack.strel d a p l s w : ReadBack.Statement (.strel d a p l s w) := by
  rintro w ⟨⟩
  obtain ⟨h0, h1, h2, h3, h4, h5, h6⟩ := fields_f6f6f3f4f3f2 0xA1#8 d a p l s w
  delta decodeFields
  rw [h0]
  show Except.ok _ = _
  rw [h1, h2, h3, h4, h5, h6]

theorem ReadBack.lr d a p l s w : ReadBack.Statement (.lr d a p l s w) := by
  rintro w ⟨⟩
  obtain ⟨h0, h1, h2, h3, h4, h5, h6⟩ := fields_f6f6f3f4f3f2 0xA2#8 d a p l s w
  delta decodeFields
  rw [h0]
  show Except.ok _ = _
  rw [h1, h2, h3, h4, h5, h6]

theorem ReadBack.sc d a p l s w : ReadBack.Statement (.sc d a p l s w) := by
  rintro w ⟨⟩
  obtain ⟨h0, h1, h2, h3, h4, h5, h6⟩ := fields_f6f6f3f4f3f2 0xA3#8 d a p l s w
  delta decodeFields
  rw [h0]
  show Except.ok _ = _
  rw [h1, h2, h3, h4, h5, h6]

theorem ReadBack.atomAdd d a p l s w : ReadBack.Statement (.atomAdd d a p l s w) := by
  rintro w ⟨⟩
  obtain ⟨h0, h1, h2, h3, h4, h5, h6⟩ := fields_f6f6f3f4f3f2 0xA4#8 d a p l s w
  delta decodeFields
  rw [h0]
  show Except.ok _ = _
  rw [h1, h2, h3, h4, h5, h6]

theorem ReadBack.atomSub d a p l s w : ReadBack.Statement (.atomSub d a p l s w) := by
  rintro w ⟨⟩
  obtain ⟨h0, h1, h2, h3, h4, h5, h6⟩ := fields_f6f6f3f4f3f2 0xA5#8 d a p l s w
  delta decodeFields
  rw [h0]
  show Except.ok _ = _
  rw [h1, h2, h3, h4, h5, h6]

theorem ReadBack.atomMin d a p l s w : ReadBack.Statement (.atomMin d a p l s w) := by
  rintro w ⟨⟩
  obtain ⟨h0, h1, h2, h3, h4, h5, h6⟩ := fields_f6f6f3f4f3f2 0xA6#8 d a p l s w
  delta decodeFields
  rw [h0]
  show Except.ok _ = _
  rw [h1, h2, h3, h4, h5, h6]

theorem ReadBack.atomMax d a p l s w : ReadBack.Statement (.atomMax d a p l s w) := by
  rintro w ⟨⟩
  obtain ⟨h0, h1, h2, h3, h4, h5, h6⟩ := fields_f6f6f3f4f3f2 0xA7#8 d a p l s w
  delta decodeFields
  rw [h0]
  show Except.ok _ = _
  rw [h1, h2, h3, h4, h5, h6]

theorem ReadBack.atomAnd d a p l s w : ReadBack.Statement (.atomAnd d a p l s w) := by
  rintro w ⟨⟩
  obtain ⟨h0, h1, h2, h3, h4, h5, h6⟩ := fields_f6f6f3f4f3f2 0xA8#8 d a p l s w
  delta decodeFields
  rw [h0]
  show Except.ok _ = _
  rw [h1, h2, h3, h4, h5, h6]

theorem ReadBack.atomOr d a p l s w : ReadBack.Statement (.atomOr d a p l s w) := by
  rintro w ⟨⟩
  obtain ⟨h0, h1, h2, h3, h4, h5, h6⟩ := fields_f6f6f3f4f3f2 0xA9#8 d a p l s w
  delta decodeFields
  rw [h0]
  show Except.ok _ = _
  rw [h1, h2, h3, h4, h5, h6]

theorem ReadBack.atomXor d a p l s w : ReadBack.Statement (.atomXor d a p l s w) := by
  rintro w ⟨⟩
  obtain ⟨h0, h1, h2, h3, h4, h5, h6⟩ := fields_f6f6f3f4f3f2 0xAA#8 d a p l s w
  delta decodeFields
  rw [h0]
  show Except.ok _ = _
  rw [h1, h2, h3, h4, h5, h6]

theorem ReadBack.atomXchg d a p l s w : ReadBack.Statement (.atomXchg d a p l s w) := by
  rintro w ⟨⟩
  obtain ⟨h0, h1, h2, h3, h4, h5, h6⟩ := fields_f6f6f3f4f3f2 0xAB#8 d a p l s w
  delta decodeFields
  rw [h0]
  show Except.ok _ = _
  rw [h1, h2, h3, h4, h5, h6]

theorem ReadBack.atomCas d a p l s w : ReadBack.Statement (.atomCas d a p l s w) := by
  rintro w ⟨⟩
  obtain ⟨h0, h1, h2, h3, h4, h5, h6⟩ := fields_f6f6f3f4f3f2 0xAC#8 d a p l s w
  delta decodeFields
  rw [h0]
  show Except.ok _ = _
  rw [h1, h2, h3, h4, h5, h6]

theorem ReadBack.atomWinc d a p l s w : ReadBack.Statement (.atomWinc d a p l s w) := by
  rintro w ⟨⟩
  obtain ⟨h0, h1, h2, h3, h4, h5, h6⟩ := fields_f6f6f3f4f3f2 0xAD#8 d a p l s w
  delta decodeFields
  rw [h0]
  show Except.ok _ = _
  rw [h1, h2, h3, h4, h5, h6]

theorem ReadBack.atomFadd d a p l s w : ReadBack.Statement (.atomFadd d a p l s w) := by
  rintro w ⟨⟩
  obtain ⟨h0, h1, h2, h3, h4, h5, h6⟩ := fields_f6f6f3f4f3f2 0xAE#8 d a p l s w
  delta decodeFields
  rw [h0]
  show Except.ok _ = _
  rw [h1, h2, h3, h4, h5, h6]

theorem ReadBack.redAdd d a p l w : ReadBack.Statement (.redAdd d a p l w) := by
  rintro w ⟨⟩
  obtain ⟨h0, h1, h2, h3, h4, h5, h6⟩ := fields_f6f6f3f4z3f2 0xAF#8 d a p l w
  delta decodeFields
  rw [h0]
  refine (zeros_ok h6).trans ?_
  rw [h1, h2, h3, h4, h5]

theorem ReadBack.redMin d a p l w : ReadBack.Statement (.redMin d a p l w) := by
  rintro w ⟨⟩
  obtain ⟨h0, h1, h2, h3, h4, h5, h6⟩ := fields_f6f6f3f4z3f2 0xB0#8 d a p l w
  delta decodeFields
  rw [h0]
  refine (zeros_ok h6).trans ?_
  rw [h1, h2, h3, h4, h5]

theorem ReadBack.redMax d a p l w : ReadBack.Statement (.redMax d a p l w) := by
  rintro w ⟨⟩
  obtain ⟨h0, h1, h2, h3, h4, h5, h6⟩ := fields_f6f6f3f4z3f2 0xB1#8 d a p l w
  delta decodeFields
  rw [h0]
  refine (zeros_ok h6).trans ?_
  rw [h1, h2, h3, h4, h5]

theorem ReadBack.redAnd d a p l w : ReadBack.Statement (.redAnd d a p l w) := by
  rintro w ⟨⟩
  obtain ⟨h0, h1, h2, h3, h4, h5, h6⟩ := fields_f6f6f3f4z3f2 0xB2#8 d a p l w
  delta decodeFields
  rw [h0]
  refine (zeros_ok h6).trans ?_
  rw [h1, h2, h3, h4, h5]

theorem ReadBack.redOr d a p l w : ReadBack.Statement (.redOr d a p l w) := by
  rintro w ⟨⟩
  obtain ⟨h0, h1, h2, h3, h4, h5, h6⟩ := fields_f6f6f3f4z3f2 0xB3#8 d a p l w
  delta decodeFields
  rw [h0]
  refine (zeros_ok h6).trans ?_
  rw [h1, h2, h3, h4, h5]

theorem ReadBack.redXor d a p l w : ReadBack.Statement (.redXor d a p l w) := by
  rintro w ⟨⟩
  obtain ⟨h0, h1, h2, h3, h4, h5, h6⟩ := fields_f6f6f3f4z3f2 0xB4#8 d a p l w
  delta decodeFields
  rw [h0]
  refine (zeros_ok h6).trans ?_
  rw [h1, h2, h3, h4, h5]

theorem ReadBack.redFadd d a p l w : ReadBack.Statement (.redFadd d a p l w) := by
  rintro w ⟨⟩
  obtain ⟨h0, h1, h2, h3, h4, h5, h6⟩ := fields_f6f6f3f4z3f2 0xB5#8 d a p l w
  delta decodeFields
  rw [h0]
  refine (zeros_ok h6).trans ?_
  rw [h1, h2, h3, h4, h5]

theorem ReadBack.pushm d a l : ReadBack.Statement (.pushm d a l) := by
  rintro w ⟨⟩
  obtain ⟨h0, h1, h2, h3, h4⟩ := fields_f6f6z3f4z5 0xB6#8 d a l
  delta decodeFields
  rw [h0]
  refine (zeros_ok h4).trans ?_
  rw [h1, h2, h3]

theorem ReadBack.popm d a l : ReadBack.Statement (.popm d a l) := by
  rintro w ⟨⟩
  obtain ⟨h0, h1, h2, h3, h4⟩ := fields_f6f6z3f4z5 0xB7#8 d a l
  delta decodeFields
  rw [h0]
  refine (zeros_ok h4).trans ?_
  rw [h1, h2, h3]

theorem ReadBack.fence l s : ReadBack.Statement (.fence l s) := by
  rintro w ⟨⟩
  obtain ⟨h0, h1, h2, h3⟩ := fields_z15f4f3z2 0xB8#8 l s
  delta decodeFields
  rw [h0]
  refine (zeros_ok h3).trans ?_
  rw [h1, h2]

theorem ReadBack.bind d a p l : ReadBack.Statement (.bind d a p l) := by
  rintro w ⟨⟩
  obtain ⟨h0, h1, h2, h3, h4, h5⟩ := fields_f6f6f3f4z5 0xB9#8 d a p l
  delta decodeFields
  rw [h0]
  refine (zeros_ok h5).trans ?_
  rw [h1, h2, h3, h4]

theorem ReadBack.unbind d a p l : ReadBack.Statement (.unbind d a p l) := by
  rintro w ⟨⟩
  obtain ⟨h0, h1, h2, h3, h4, h5⟩ := fields_f6f6f3f4z5 0xBA#8 d a p l
  delta decodeFields
  rw [h0]
  refine (zeros_ok h5).trans ?_
  rw [h1, h2, h3, h4]

theorem ReadBack.acq d a p l s : ReadBack.Statement (.acq d a p l s) := by
  rintro w ⟨⟩
  obtain ⟨h0, h1, h2, h3, h4, h5, h6⟩ := fields_f6f6f3f4f3z2 0xBB#8 d a p l s
  delta decodeFields
  rw [h0]
  refine (zeros_ok h6).trans ?_
  rw [h1, h2, h3, h4, h5]

theorem ReadBack.rel a p l s : ReadBack.Statement (.rel a p l s) := by
  rintro w ⟨⟩
  obtain ⟨h0, h1, h2, h3, h4, h5⟩ := fields_z6f6f3f4f3z2 0xBC#8 a p l s
  delta decodeFields
  rw [h0]
  refine (zeros_ok h5).trans ?_
  rw [h1, h2, h3, h4]

theorem ReadBack.cln d a p l : ReadBack.Statement (.cln d a p l) := by
  rintro w ⟨⟩
  obtain ⟨h0, h1, h2, h3, h4, h5⟩ := fields_f6f6f3f4z5 0xBD#8 d a p l
  delta decodeFields
  rw [h0]
  refine (zeros_ok h5).trans ?_
  rw [h1, h2, h3, h4]

theorem ReadBack.inv d a p l x : ReadBack.Statement (.inv d a p l x) := by
  rintro w ⟨⟩
  obtain ⟨h0, h1, h2, h3, h4, h5, h6⟩ := fields_f6f6f3f4z3f2 0xBE#8 d a p l x
  delta decodeFields
  rw [h0]
  refine (zeros_ok h6).trans ?_
  rw [h1, h2, h3, h4, h5]

theorem ReadBack.bankCm a p l : ReadBack.Statement (.bankCm a p l) := by
  rintro w ⟨⟩
  obtain ⟨h0, h1, h2, h3, h4⟩ := fields_z6f6f3f4z5 0xC0#8 a p l
  delta decodeFields
  rw [h0]
  refine (zeros_ok h4).trans ?_
  rw [h1, h2, h3]

theorem ReadBack.bankSm a p l : ReadBack.Statement (.bankSm a p l) := by
  rintro w ⟨⟩
  obtain ⟨h0, h1, h2, h3, h4⟩ := fields_z6f6f3f4z5 0xC1#8 a p l
  delta decodeFields
  rw [h0]
  refine (zeros_ok h4).trans ?_
  rw [h1, h2, h3]

theorem ReadBack.resv d a p l : ReadBack.Statement (.resv d a p l) := by
  rintro w ⟨⟩
  obtain ⟨h0, h1, h2, h3, h4, h5⟩ := fields_f6f6f3f4z5 0xC2#8 d a p l
  delta decodeFields
  rw [h0]
  refine (zeros_ok h5).trans ?_
  rw [h1, h2, h3, h4]

theorem ReadBack.resvRd d a p l : ReadBack.Statement (.resvRd d a p l) := by
  rintro w ⟨⟩
  obtain ⟨h0, h1, h2, h3, h4, h5⟩ := fields_f6f6f3f4z5 0xC3#8 d a p l
  delta decodeFields
  rw [h0]
  refine (zeros_ok h5).trans ?_
  rw [h1, h2, h3, h4]

theorem ReadBack.resvFree d a p l : ReadBack.Statement (.resvFree d a p l) := by
  rintro w ⟨⟩
  obtain ⟨h0, h1, h2, h3, h4, h5⟩ := fields_f6f6f3f4z5 0xC4#8 d a p l
  delta decodeFields
  rw [h0]
  refine (zeros_ok h5).trans ?_
  rw [h1, h2, h3, h4]

theorem ReadBack.mma n m k l : ReadBack.Statement (.mma n m k l) := by
  rintro w ⟨⟩
  obtain ⟨h0, h1, h2, h3, h4, h5⟩ := fields_f6f2f3z9f4 0xC5#8 n m k l
  delta decodeFields
  rw [h0]
  refine (zeros_ok h5).trans ?_
  rw [h1, h2, h3, h4]

theorem ReadBack.mmas n m k x s l : ReadBack.Statement (.mmas n m k x s l) := by
  rintro w ⟨⟩
  obtain ⟨h0, h1, h2, h3, h4, h5, h6⟩ := fields_f6f2f3f6f3f4 0xC6#8 n m k x s l
  delta decodeFields
  rw [h0]
  show Except.ok _ = _
  rw [h1, h2, h3, h4, h5, h6]

theorem ReadBack.accRd d a p l x : ReadBack.Statement (.accRd d a p l x) := by
  rintro w ⟨⟩
  obtain ⟨h0, h1, h2, h3, h4, h5, h6⟩ := fields_f6f6f3f4z4f1 0xC7#8 d a p l x
  delta decodeFields
  rw [h0]
  refine (zeros_ok h6).trans ?_
  rw [h1, h2, h3, h4, h5]

theorem ReadBack.accWr d a p l x : ReadBack.Statement (.accWr d a p l x) := by
  rintro w ⟨⟩
  obtain ⟨h0, h1, h2, h3, h4, h5, h6⟩ := fields_f6f6f3f4z4f1 0xC8#8 d a p l x
  delta decodeFields
  rw [h0]
  refine (zeros_ok h6).trans ?_
  rw [h1, h2, h3, h4, h5]

theorem ReadBack.accClr a p l x : ReadBack.Statement (.accClr a p l x) := by
  rintro w ⟨⟩
  obtain ⟨h0, h1, h2, h3, h4, h5⟩ := fields_z6f6f3f4z4f1 0xC9#8 a p l x
  delta decodeFields
  rw [h0]
  refine (zeros_ok h5).trans ?_
  rw [h1, h2, h3, h4]

theorem ReadBack.desc n m k x l : ReadBack.Statement (.desc n m k x l) := by
  rintro w ⟨⟩
  obtain ⟨h0, h1, h2, h3, h4, h5, h6⟩ := fields_f6f2f3f6z3f4 0xCA#8 n m k x l
  delta decodeFields
  rw [h0]
  refine (zeros_ok h6).trans ?_
  rw [h1, h2, h3, h4, h5]

theorem ReadBack.copy d a p l : ReadBack.Statement (.copy d a p l) := by
  rintro w ⟨⟩
  obtain ⟨h0, h1, h2, h3, h4, h5⟩ := fields_f6f6f3f4z5 0xD8#8 d a p l
  delta decodeFields
  rw [h0]
  refine (zeros_ok h5).trans ?_
  rw [h1, h2, h3, h4]

theorem ReadBack.copyx d a p l : ReadBack.Statement (.copyx d a p l) := by
  rintro w ⟨⟩
  obtain ⟨h0, h1, h2, h3, h4, h5⟩ := fields_f6f6f3f4z5 0xD9#8 d a p l
  delta decodeFields
  rw [h0]
  refine (zeros_ok h5).trans ?_
  rw [h1, h2, h3, h4]

theorem ReadBack.gath d a p l : ReadBack.Statement (.gath d a p l) := by
  rintro w ⟨⟩
  obtain ⟨h0, h1, h2, h3, h4, h5⟩ := fields_f6f6f3f4z5 0xDA#8 d a p l
  delta decodeFields
  rw [h0]
  refine (zeros_ok h5).trans ?_
  rw [h1, h2, h3, h4]

theorem ReadBack.coll d a p l : ReadBack.Statement (.coll d a p l) := by
  rintro w ⟨⟩
  obtain ⟨h0, h1, h2, h3, h4, h5⟩ := fields_f6f6f3f4z5 0xDB#8 d a p l
  delta decodeFields
  rw [h0]
  refine (zeros_ok h5).trans ?_
  rw [h1, h2, h3, h4]

theorem ReadBack.qfence d a p l : ReadBack.Statement (.qfence d a p l) := by
  rintro w ⟨⟩
  obtain ⟨h0, h1, h2, h3, h4, h5⟩ := fields_f6f6f3f4z5 0xDC#8 d a p l
  delta decodeFields
  rw [h0]
  refine (zeros_ok h5).trans ?_
  rw [h1, h2, h3, h4]

theorem ReadBack.cqSeq d a p l x : ReadBack.Statement (.cqSeq d a p l x) := by
  rintro w ⟨⟩
  obtain ⟨h0, h1, h2, h3, h4, h5, h6⟩ := fields_f6f6f3f4z4f1 0xDD#8 d a p l x
  delta decodeFields
  rw [h0]
  refine (zeros_ok h6).trans ?_
  rw [h1, h2, h3, h4, h5]

theorem ReadBack.futWait d a p l : ReadBack.Statement (.futWait d a p l) := by
  rintro w ⟨⟩
  obtain ⟨h0, h1, h2, h3, h4, h5⟩ := fields_f6f6f3f4z5 0xDE#8 d a p l
  delta decodeFields
  rw [h0]
  refine (zeros_ok h5).trans ?_
  rw [h1, h2, h3, h4]

theorem ReadBack.futTest d a p l : ReadBack.Statement (.futTest d a p l) := by
  rintro w ⟨⟩
  obtain ⟨h0, h1, h2, h3, h4, h5⟩ := fields_f6f6f3f4z5 0xDF#8 d a p l
  delta decodeFields
  rw [h0]
  refine (zeros_ok h5).trans ?_
  rw [h1, h2, h3, h4]

theorem ReadBack.futCncl d a p l : ReadBack.Statement (.futCncl d a p l) := by
  rintro w ⟨⟩
  obtain ⟨h0, h1, h2, h3, h4, h5⟩ := fields_f6f6f3f4z5 0xE0#8 d a p l
  delta decodeFields
  rw [h0]
  refine (zeros_ok h5).trans ?_
  rw [h1, h2, h3, h4]

theorem ReadBack.futMov d a p l : ReadBack.Statement (.futMov d a p l) := by
  rintro w ⟨⟩
  obtain ⟨h0, h1, h2, h3, h4, h5⟩ := fields_f6f6f3f4z5 0xE1#8 d a p l
  delta decodeFields
  rw [h0]
  refine (zeros_ok h5).trans ?_
  rw [h1, h2, h3, h4]

theorem ReadBack.task d a p l : ReadBack.Statement (.task d a p l) := by
  rintro w ⟨⟩
  obtain ⟨h0, h1, h2, h3, h4, h5⟩ := fields_f6f6f3f4z5 0xE2#8 d a p l
  delta decodeFields
  rw [h0]
  refine (zeros_ok h5).trans ?_
  rw [h1, h2, h3, h4]

theorem ReadBack.bar b : ReadBack.Statement (.bar b) := by
  rintro w ⟨⟩
  obtain ⟨h0, h1, h2⟩ := fields_z20f4 0xE4#8 b
  delta decodeFields
  rw [h0]
  refine (zeros_ok h2).trans ?_
  rw [h1]

theorem ReadBack.barArr b : ReadBack.Statement (.barArr b) := by
  rintro w ⟨⟩
  obtain ⟨h0, h1, h2⟩ := fields_z20f4 0xE5#8 b
  delta decodeFields
  rw [h0]
  refine (zeros_ok h2).trans ?_
  rw [h1]

theorem ReadBack.barWt b : ReadBack.Statement (.barWt b) := by
  rintro w ⟨⟩
  obtain ⟨h0, h1, h2⟩ := fields_z20f4 0xE6#8 b
  delta decodeFields
  rw [h0]
  refine (zeros_ok h2).trans ?_
  rw [h1]

theorem ReadBack.spanbar : ReadBack.Statement (.spanbar) := by
  rintro w ⟨⟩
  obtain ⟨h0, h1⟩ := fields_z24 0xE7#8
  delta decodeFields
  rw [h0]
  refine (zeros_ok h1).trans ?_
  rfl

theorem ReadBack.boInit d a p l o : ReadBack.Statement (.boInit d a p l o) := by
  rintro w ⟨⟩
  obtain ⟨h0, h1, h2, h3, h4, h5, h6⟩ := fields_f6f6f3f4z1f4 0xE8#8 d a p l o
  delta decodeFields
  rw [h0]
  refine (zeros_ok h6).trans ?_
  rw [h1, h2, h3, h4, h5]

theorem ReadBack.boArr d l o : ReadBack.Statement (.boArr d l o) := by
  rintro w ⟨⟩
  obtain ⟨h0, h1, h2, h3, h4⟩ := fields_f6z9f4z1f4 0xE9#8 d l o
  delta decodeFields
  rw [h0]
  refine (zeros_ok h4).trans ?_
  rw [h1, h2, h3]

theorem ReadBack.boWt d a p l o : ReadBack.Statement (.boWt d a p l o) := by
  rintro w ⟨⟩
  obtain ⟨h0, h1, h2, h3, h4, h5, h6⟩ := fields_f6f6f3f4z1f4 0xEA#8 d a p l o
  delta decodeFields
  rw [h0]
  refine (zeros_ok h6).trans ?_
  rw [h1, h2, h3, h4, h5]

theorem ReadBack.tryOpen c o : ReadBack.Statement (.tryOpen c o) := by
  rintro w ⟨⟩
  obtain ⟨h0, h1, h2⟩ := fields_f6f18 0xEB#8 c o
  delta decodeFields
  rw [h0]
  show Except.ok _ = _
  rw [h1, h2]

theorem ReadBack.trylOpen c o : ReadBack.Statement (.trylOpen c o) := by
  rintro w ⟨⟩
  obtain ⟨h0, h1, h2⟩ := fields_f6f18 0xEC#8 c o
  delta decodeFields
  rw [h0]
  show Except.ok _ = _
  rw [h1, h2]

theorem ReadBack.commit d : ReadBack.Statement (.commit d) := by
  rintro w ⟨⟩
  obtain ⟨h0, h1, h2⟩ := fields_f6z18 0xED#8 d
  delta decodeFields
  rw [h0]
  refine (zeros_ok h2).trans ?_
  rw [h1]

theorem ReadBack.abort e : ReadBack.Statement (.abort e) := by
  rintro w ⟨⟩
  obtain ⟨h0, h1, h2⟩ := fields_z16f8 0xEE#8 e
  delta decodeFields
  rw [h0]
  refine (zeros_ok h2).trans ?_
  rw [h1]

theorem ReadBack.tabl a p : ReadBack.Statement (.tabl a p) := by
  rintro w ⟨⟩
  obtain ⟨h0, h1, h2, h3⟩ := fields_z6f6f3z9 0xEF#8 a p
  delta decodeFields
  rw [h0]
  refine (zeros_ok h3).trans ?_
  rw [h1, h2]

theorem ReadBack.tstat d : ReadBack.Statement (.tstat d) := by
  rintro w ⟨⟩
  obtain ⟨h0, h1, h2⟩ := fields_f6z18 0xF0#8 d
  delta decodeFields
  rw [h0]
  refine (zeros_ok h2).trans ?_
  rw [h1]

theorem ReadBack.tfence : ReadBack.Statement (.tfence) := by
  rintro w ⟨⟩
  obtain ⟨h0, h1⟩ := fields_z24 0xF2#8
  delta decodeFields
  rw [h0]
  refine (zeros_ok h1).trans ?_
  rfl

theorem ReadBack.trap n : ReadBack.Statement (.trap n) := by
  rintro w ⟨⟩
  obtain ⟨h0, h1, h2⟩ := fields_z16f8 0xF3#8 n
  delta decodeFields
  rw [h0]
  refine (zeros_ok h2).trans ?_
  rw [h1]

theorem ReadBack.brk n : ReadBack.Statement (.brk n) := by
  rintro w ⟨⟩
  obtain ⟨h0, h1, h2⟩ := fields_z16f8 0xF4#8 n
  delta decodeFields
  rw [h0]
  refine (zeros_ok h2).trans ?_
  rw [h1]

theorem ReadBack.phint o : ReadBack.Statement (.phint o) := by
  rintro w ⟨⟩
  obtain ⟨h0, h1, h2⟩ := fields_z6f18 0xF5#8 o
  delta decodeFields
  rw [h0]
  refine (zeros_ok h2).trans ?_
  rw [h1]

theorem ReadBack.sysRd d s : ReadBack.Statement (.sysRd d s) := by
  rintro w ⟨⟩
  obtain ⟨h0, h1, h2, h3⟩ := fields_f6z6f12 0xF6#8 d s
  delta decodeFields
  rw [h0]
  refine (zeros_ok h3).trans ?_
  rw [h1, h2]

theorem ReadBack.sysWr d s : ReadBack.Statement (.sysWr d s) := by
  rintro w ⟨⟩
  obtain ⟨h0, h1, h2, h3⟩ := fields_f6z6f12 0xF7#8 d s
  delta decodeFields
  rw [h0]
  refine (zeros_ok h3).trans ?_
  rw [h1, h2]

theorem ReadBack.clk d f : ReadBack.Statement (.clk d f) := by
  rintro w ⟨⟩
  obtain ⟨h0, h1, h2, h3⟩ := fields_f6z17f1 0xF8#8 d f
  delta decodeFields
  rw [h0]
  refine (zeros_ok h3).trans ?_
  rw [h1, h2]

theorem ReadBack.grn d f : ReadBack.Statement (.grn d f) := by
  rintro w ⟨⟩
  obtain ⟨h0, h1, h2, h3⟩ := fields_f6z17f1 0xF9#8 d f
  delta decodeFields
  rw [h0]
  refine (zeros_ok h3).trans ?_
  rw [h1, h2]

theorem ReadBack.rte : ReadBack.Statement (.rte) := by
  rintro w ⟨⟩
  obtain ⟨h0, h1⟩ := fields_z24 0xFA#8
  delta decodeFields
  rw [h0]
  refine (zeros_ok h1).trans ?_
  rfl

theorem ReadBack.tlbinv d a p l x : ReadBack.Statement (.tlbinv d a p l x) := by
  rintro w ⟨⟩
  obtain ⟨h0, h1, h2, h3, h4, h5, h6⟩ := fields_f6f6f3f4z4f1 0xFB#8 d a p l x
  delta decodeFields
  rw [h0]
  refine (zeros_ok h6).trans ?_
  rw [h1, h2, h3, h4, h5]

theorem ReadBack.genBump d a p l : ReadBack.Statement (.genBump d a p l) := by
  rintro w ⟨⟩
  obtain ⟨h0, h1, h2, h3, h4, h5⟩ := fields_f6f6f3f4z5 0xFC#8 d a p l
  delta decodeFields
  rw [h0]
  refine (zeros_ok h5).trans ?_
  rw [h1, h2, h3, h4]

theorem ReadBack.yieldExpiry x0 x1 x2 : ReadBack.Statement (.yieldExpiry x0 x1 x2) := nofun
theorem ReadBack.ldspFillLanding x0 x1 x2 : ReadBack.Statement (.ldspFillLanding x0 x1 x2) := nofun
theorem ReadBack.redApply x0 : ReadBack.Statement (.redApply x0) := nofun
theorem ReadBack.fenceComplete x0 x1 x2 : ReadBack.Statement (.fenceComplete x0 x1 x2) := nofun
theorem ReadBack.matrixSlotTaken x0 x1 x2 : ReadBack.Statement (.matrixSlotTaken x0 x1 x2) := nofun
theorem ReadBack.matrixCompletion x0 x1 x2 : ReadBack.Statement (.matrixCompletion x0 x1 x2) := nofun
theorem ReadBack.linearCopy x0 x1 : ReadBack.Statement (.linearCopy x0 x1) := nofun
theorem ReadBack.stridedCopy x0 x1 : ReadBack.Statement (.stridedCopy x0 x1) := nofun
theorem ReadBack.indexedGather x0 x1 : ReadBack.Statement (.indexedGather x0 x1) := nofun
theorem ReadBack.collectiveInstance x0 x1 : ReadBack.Statement (.collectiveInstance x0 x1) := nofun
theorem ReadBack.joinOfQueues x0 x1 : ReadBack.Statement (.joinOfQueues x0 x1) := nofun
theorem ReadBack.tryAbort x0 x1 : ReadBack.Statement (.tryAbort x0 x1) := nofun
theorem ReadBack.priorityHoldExpiry x0 x1 : ReadBack.Statement (.priorityHoldExpiry x0 x1) := nofun
theorem ReadBack.tlbinvAck x0 x1 x2 x3 x4 : ReadBack.Statement (.tlbinvAck x0 x1 x2 x3 x4) := nofun
theorem ReadBack.genBumpComplete x0 : ReadBack.Statement (.genBumpComplete x0) := nofun
theorem ReadBack.homeAccess x0 : ReadBack.Statement (.homeAccess x0) := nofun
theorem ReadBack.requestReplay x0 : ReadBack.Statement (.requestReplay x0) := nofun
theorem ReadBack.reservationProtectionExpiry x0 : ReadBack.Statement (.reservationProtectionExpiry x0) := nofun
theorem ReadBack.trapDelivery x0 x1 : ReadBack.Statement (.trapDelivery x0 x1) := nofun
theorem ReadBack.preemptDeadline x0 : ReadBack.Statement (.preemptDeadline x0) := nofun
theorem ReadBack.launchRecordTake  : ReadBack.Statement (.launchRecordTake) := nofun
theorem ReadBack.blockClaim x0 x1 x2 : ReadBack.Statement (.blockClaim x0 x1 x2) := nofun
theorem ReadBack.stealRequest x0 x1 : ReadBack.Statement (.stealRequest x0 x1) := nofun
theorem ReadBack.firkinFill x0 x1 : ReadBack.Statement (.firkinFill x0 x1) := nofun
theorem ReadBack.blockEnd x0 x1 : ReadBack.Statement (.blockEnd x0 x1) := nofun
theorem ReadBack.tunAccept  : ReadBack.Statement (.tunAccept) := nofun
theorem ReadBack.taskDispatch  : ReadBack.Statement (.taskDispatch) := nofun
theorem ReadBack.groupWaitLimit x0 x1 : ReadBack.Statement (.groupWaitLimit x0 x1) := nofun
theorem ReadBack.watchdogExpiry x0 : ReadBack.Statement (.watchdogExpiry x0) := nofun
theorem ReadBack.contextRemoval x0 x1 : ReadBack.Statement (.contextRemoval x0 x1) := nofun
theorem ReadBack.removalStage x0 : ReadBack.Statement (.removalStage x0) := nofun
theorem ReadBack.removalEscalation x0 : ReadBack.Statement (.removalEscalation x0) := nofun
theorem ReadBack.accountingTick x0 x1 x2 x3 x4 : ReadBack.Statement (.accountingTick x0 x1 x2 x3 x4) := nofun
theorem ReadBack.bankScrub x0 x1 : ReadBack.Statement (.bankScrub x0 x1) := nofun
theorem ReadBack.l2Scrub x0 : ReadBack.Statement (.l2Scrub x0) := nofun
theorem ReadBack.hbmPatrolScrub x0 : ReadBack.Statement (.hbmPatrolScrub x0) := nofun
theorem ReadBack.rowSparing x0 : ReadBack.Statement (.rowSparing x0) := nofun
theorem ReadBack.powerSample x0 x1 x2 x3 : ReadBack.Statement (.powerSample x0 x1 x2 x3) := nofun
theorem ReadBack.temperatureCapping x0 x1 : ReadBack.Statement (.temperatureCapping x0 x1) := nofun
theorem ReadBack.thermtrip x0 : ReadBack.Statement (.thermtrip x0) := nofun
theorem ReadBack.thermal x0 x1 : ReadBack.Statement (.thermal x0 x1) := nofun
theorem ReadBack.coldReset  : ReadBack.Statement (.coldReset) := nofun
theorem ReadBack.ucieModuleFailure x0 : ReadBack.Statement (.ucieModuleFailure x0) := nofun
theorem ReadBack.flitReceive x0 x1 x2 : ReadBack.Statement (.flitReceive x0 x1 x2) := nofun
theorem ReadBack.nak x0 x1 : ReadBack.Statement (.nak x0 x1) := nofun
theorem ReadBack.portRetrain x0 x1 : ReadBack.Statement (.portRetrain x0 x1) := nofun
theorem ReadBack.linkSleep x0 : ReadBack.Statement (.linkSleep x0) := nofun
theorem ReadBack.linkWake x0 : ReadBack.Statement (.linkWake x0) := nofun
theorem ReadBack.wakeComplete x0 x1 : ReadBack.Statement (.wakeComplete x0 x1) := nofun
theorem ReadBack.snoop x0 x1 : ReadBack.Statement (.snoop x0 x1) := nofun
theorem ReadBack.deadDieTimer x0 : ReadBack.Statement (.deadDieTimer x0) := nofun
theorem ReadBack.hostMemAccess x0 x1 x2 x3 : ReadBack.Statement (.hostMemAccess x0 x1 x2 x3) := nofun
theorem ReadBack.peerRequest x0 x1 x2 x3 x4 : ReadBack.Statement (.peerRequest x0 x1 x2 x3 x4) := nofun
theorem ReadBack.queueDoorbell x0 x1 x2 : ReadBack.Statement (.queueDoorbell x0 x1 x2) := nofun
theorem ReadBack.registerWrite x0 x1 x2 : ReadBack.Statement (.registerWrite x0 x1 x2) := nofun
theorem ReadBack.managementNotice x0 x1 x2 : ReadBack.Statement (.managementNotice x0 x1 x2) := nofun
theorem ReadBack.reset x0 : ReadBack.Statement (.reset x0) := nofun
theorem ReadBack.diereset x0 : ReadBack.Statement (.diereset x0) := nofun
theorem ReadBack.fwwrite x0 : ReadBack.Statement (.fwwrite x0) := nofun
theorem ReadBack.fwswitch x0 : ReadBack.Statement (.fwswitch x0) := nofun
theorem ReadBack.partset x0 : ReadBack.Statement (.partset x0) := nofun
theorem ReadBack.granset x0 : ReadBack.Statement (.granset x0) := nofun
theorem ReadBack.vfset x0 : ReadBack.Statement (.vfset x0) := nofun
theorem ReadBack.fallback x0 : ReadBack.Statement (.fallback x0) := nofun
theorem ReadBack.powercap x0 : ReadBack.Statement (.powercap x0) := nofun
theorem ReadBack.dieoff x0 : ReadBack.Statement (.dieoff x0) := nofun
theorem ReadBack.dieon x0 : ReadBack.Statement (.dieon x0) := nofun
theorem ReadBack.recal x0 : ReadBack.Statement (.recal x0) := nofun
theorem ReadBack.exportRange x0 : ReadBack.Statement (.exportRange x0) := nofun
theorem ReadBack.importHandle x0 : ReadBack.Statement (.importHandle x0) := nofun
theorem ReadBack.unimport x0 : ReadBack.Statement (.unimport x0) := nofun
theorem ReadBack.revoke x0 : ReadBack.Statement (.revoke x0) := nofun
theorem ReadBack.keyload x0 : ReadBack.Statement (.keyload x0) := nofun
theorem ReadBack.keyerase x0 : ReadBack.Statement (.keyerase x0) := nofun
theorem ReadBack.attest x0 : ReadBack.Statement (.attest x0) := nofun
theorem ReadBack.preempt x0 : ReadBack.Statement (.preempt x0) := nofun
theorem ReadBack.restore x0 : ReadBack.Statement (.restore x0) := nofun
theorem ReadBack.remove x0 : ReadBack.Statement (.remove x0) := nofun
theorem ReadBack.census x0 : ReadBack.Statement (.census x0) := nofun
theorem ReadBack.badcmd x0 : ReadBack.Statement (.badcmd x0) := nofun
theorem ReadBack.linkTrainingDone x0 x1 : ReadBack.Statement (.linkTrainingDone x0 x1) := nofun
theorem ReadBack.bankSenseTrimStep x0 x1 x2 : ReadBack.Statement (.bankSenseTrimStep x0 x1 x2) := nofun
theorem ReadBack.linkEqualisation x0 x1 x2 x3 x4 x5 : ReadBack.Statement (.linkEqualisation x0 x1 x2 x3 x4 x5) := nofun

end Sys2Proof.Laws
end

