-- ==== Sys2Proof/Laws/Traps.lean ====
section
/-! SUPPORT. Taking an exception and returning from one: everything the shared operations can do. -/

namespace Sys2Proof.Machine

/-- A trap aborts an open region, or removes the context, or is delivered (R319, R377, R379). -/
theorem takeTrap_cases (s : State) (t : TrapInfo) (list : List (Addr × Word)) (npc : Addr) :
    (s.grp.region.isSome = true ∧ s.takeTrap t list npc = s.abortRegion 4 t.code) ∨
    (s.grp.region = none ∧ s.grp.handler.isSome = true ∧ s.takeTrap t list npc = s.remove s.blk.asid 0x12) ∨
    (s.grp.region = none ∧ s.grp.handler = none ∧ s.tvec s.blk.asid = 0 ∧
      s.takeTrap t list npc = s.remove s.blk.asid 0x13) ∨
    (s.grp.region = none ∧ s.grp.handler = none ∧ s.tvec s.blk.asid ≠ 0 ∧ s.takeTrap t list npc = s.deliver t list npc) := by
  unfold State.takeTrap
  rcases hr : s.grp.region with _ | r
  · rcases hh : s.grp.handler with _ | k
    · by_cases hv : s.tvec s.blk.asid = 0
      · exact .inr (.inr (.inl ⟨rfl, rfl, hv, by simp [hv]⟩))
      · exact .inr (.inr (.inr ⟨rfl, rfl, hv, by simp [show ¬s.tvec s.blk.asid = 0#64 from hv]⟩))
    · exact .inr (.inl ⟨rfl, rfl, by simp⟩)
  · exact .inl ⟨rfl, by simp⟩

/-- Where a trap is delivered, it is that. -/
theorem takeTrap_delivers {s : State} (h : Delivers s) (t : TrapInfo) (list : List (Addr × Word)) (npc : Addr) :
    s.takeTrap t list npc = s.deliver t list npc := by
  simp [State.takeTrap, h.atOnce.region, h.handler, show ¬s.tvec s.blk.asid = 0#64 from h.vector]

/-- Delivery puts the split at the trap routine in handler mode, its domain enabled and its modes cleared (R377). -/
theorem deliver_split (s : State) (t : TrapInfo) (list : List (Addr × Word)) (npc : Addr) :
    (s.deliver t list npc).spl = { s.spl with
      em := s.spl.dm, gm := 0, pc := (s.tvec s.blk.asid).setWidth 57, windows := [], wait := none, redo := [],
      pending := [] } := by
  show sget {} (sset {} s.grp.splits s.cur _) s.cur = _
  rw [sget_sset_self]

theorem deliver_handler (s : State) (t : TrapInfo) (list : List (Addr × Word)) (npc : Addr) :
    (s.deliver t list npc).grp.handler = some s.cur := rfl

/-- Delivery leaves registers, memory, blocks and the device's records, and fl. -/
theorem deliver_keeps (s : State) (t : TrapInfo) (list : List (Addr × Word)) (npc : Addr) :
    let v := s.deliver t list npc
    v.grp.regs = s.grp.regs ∧ v.grp.fl = s.grp.fl ∧ v.grp.gs = s.grp.gs ∧ v.grp.region = s.grp.region ∧
      v.mem = s.mem ∧ v.blk = s.blk ∧ v.blocks = s.blocks ∧ KeptDevice s v :=
  ⟨rfl, rfl, rfl, rfl, rfl, rfl, rfl, ⟨rfl, rfl, rfl, ⟨rfl, rfl, rfl⟩, ⟨rfl, rfl, rfl⟩⟩⟩

/-- What a group, its issuing split's windows aside, carries over to the state in which an instruction reads its
operands. -/
theorem delivers_aside {s t : State} (h : Delivers s) (w : WindowsAside s t) :
    t.grp.region = none ∧ t.grp.handler = none ∧ t.tvec t.blk.asid ≠ 0 ∧ t.spl.pending = [] ∧ t.cur = s.cur := by
  have hg := congrArg (fun x : State => x.grp.region) w.rest
  have hh := congrArg (fun x : State => x.grp.handler) w.rest
  have hv : t.tvec t.blk.asid = s.tvec s.blk.asid := by rw [w.rest]; rfl
  have hc := congrArg State.cur w.rest
  obtain ⟨ws, hp⟩ := w.own
  exact ⟨hg.trans h.atOnce.region, hh.trans h.handler, hv ▸ h.vector, by rw [hp]; exact h.atOnce.earlier, hc⟩

/-- The removal of a context changes nothing but the list of removals (R390). -/
theorem remove_cases (s : State) (asid cause : Nat) :
    s.remove asid cause = s ∨ s.remove asid cause =
      { s with mgmt := { s.mgmt with removing := s.mgmt.removing ++ [(asid, cause, 0)] } } := by
  unfold State.remove; split
  · exact .inl rfl
  · exact .inr rfl

/-- A return leaves handler mode and goes on with the record's split (R383). -/
theorem returnFromTrap_handler (s : State) :
    s.returnFromTrap.grp.handler = none ∧ s.returnFromTrap.cur = bits (sget 0 s.grp.trap 0) 16 15 := ⟨rfl, rfl⟩

theorem returnFromTrap_regs (s : State) (r k : Nat) : s.returnFromTrap.reg r k = s.reg r k := rfl

theorem returnFromTrap_mem (s : State) : s.returnFromTrap.mem = s.mem := rfl

end Sys2Proof.Machine
end

