-- ==== Sys2Proof/Tests/Slice0.lean ====
section
/-! SUPPORT. Tests on single words and single steps, and for every obligation with hypotheses a concrete state and
operands that meet them. Expected values come from the spec's worked examples or are counted by hand from its rules. -/

namespace Sys2Proof.Tests
open Machine

set_option Elab.async false

/-! ## Helpers -/

/-- Does the decoder read each word as the instruction beside it? -/
def reads (l : List (Word × Instr)) : Bool := l.all fun x => match decode x.1 with
  | .ok i => decide (i = x.2)
  | .error _ => false

/-- A state in which split 0 of the one group of a block with two banks issues: mode `gm`, execution mask `em`, registers
as listed under 32 n + lane, page 0 readable and writable, a spill range of four registers, a trap routine at 0x1000. -/
def small (gm : DWord) (em : Word) (regs : Sparse Word) : State :=
  let s := State.reset.placeWord 0x01000000
  let s := s.setSpl { s.spl with gm := gm, em := em }
  { s with
    grp := { s.grp with regs := regs, sp := 0x10000 }
    blk := { s.blk with banks := [0, 1], record := 0x0000000400000400 :: List.replicate 31 0 }
    iso := { s.iso with tvec := [(0, 0x1000)] } }

/-- Does nothing stop the instruction? -/
def runs (s : State) (i : Instr) : Bool := s.issuing && (s.stopped i).isNone

theorem runs_of {s : State} {i : Instr} (h : runs s i = true) : Runs i s := by
  simp only [runs, Bool.and_eq_true, Option.isNone_iff_eq_none] at h
  exact h

theorem runAll_of {s : State} {l : List Instr} (h : l.all (runs s) = true) : ∀ i ∈ l, Runs i s :=
  fun i hi => runs_of (List.all_eq_true.mp h i hi)

/-- A view of the next state, if there is one. -/
def after {α : Type} (o : Host.Outcome State Fault Refusal) (f : State → α) : Option α :=
  match o with
  | .next t => some (f t)
  | _ => none

/-- A lane of a register after an instruction. -/
def lane (s : State) (i : Instr) (r k : Nat) : Option Word := after (exec i s) (·.reg r k)

/-- The flags of the group after an instruction. -/
def flags (s : State) (i : Instr) : Option (BitVec 6) := after (exec i s) (·.grp.fl)

/-- pc after an instruction. -/
def pcOf (s : State) (i : Instr) : Option Addr := after (exec i s) (·.spl.pc)

/-! ## Words written out from the encoding tables -/

-- The words of the spec's listings (R56, R87, R179, R249, R259 among them).
theorem test_decode_listings : reads [
    (0x20186038, .add 6 6 0 7 0),
    (0x500C7660, .fadd 3 7 3 12 0),
    (0x120C0005, .modei 3 5),
    (0x040BFFF4, .bnz 2 (-12)),
    (0x9828406D, .ld 10 4 0 3 1 5),
    (0xAC202008, .atomCas 8 2 0 0 2 0),
    (0xC6115413, .mmas 4 1 2 40 1 3),
    (0x8E81E003, .dgrp 32 30 0 0 3),
    (0xD8520020, .copy 20 32 0 1),
    (0xEB500006, .tryOpen 20 6),
    (0xFB210040, .tlbinv 8 16 0 2 0),
    (0xF300002A, .trap 42)] = true := by decide +kernel

theorem test_decode_control_1 : reads [
    (0x00000001, .ill 1),
    (0x01000000, .nop),
    (0x0203FFFD, .br 262141),
    (0x032BFFFD, .bz 10 262141),
    (0x042BFFFD, .bnz 10 262141),
    (0x052BFFFD, .bmz 10 262141),
    (0x062BFFFD, .bmnz 10 262141),
    (0x072BFFFD, .call 10 262141),
    (0x08280000, .ret 10),
    (0x092BFFFD, .jmpr 10 262141),
    (0x0A000000, .exit),
    (0x0B2BFFFD, .split 10 262141),
    (0x0C03FFFD, .join 262141),
    (0x0D000003, .yield 3),
    (0x0E2BFFFD, .yieldc 10 262141),
    (0x0F200009, .limm 8 9),
    (0x10200009, .lhi 8 9),
    (0x112104B5, .mode 8 16 2 22 5),
    (0x120C0005, .modei 3 5),
    (0x13210400, .emSet 8 16 2)] = true := by decide +kernel

theorem test_decode_control_2 : reads [
    (0x14200000, .emGet 8),
    (0x15210400, .emAnd 8 16 2),
    (0x16210400, .emAndn 8 16 2),
    (0x17200002, .idx 8 2)] = true := by decide +kernel

theorem test_decode_integer_1 : reads [
    (0x202104AD, .add 8 16 2 21 5),
    (0x212104AD, .sub 8 16 2 21 5),
    (0x222104AD, .addc 8 16 2 21 5),
    (0x232104AD, .subb 8 16 2 21 5),
    (0x242104AD, .mul 8 16 2 21 5),
    (0x252104AD, .mulh 8 16 2 21 5),
    (0x262104AD, .mulhn 8 16 2 21 5),
    (0x272104AD, .mad 8 16 2 21 5),
    (0x282104AD, .min 8 16 2 21 5),
    (0x292104AD, .max 8 16 2 21 5),
    (0x2A210400, .abs 8 16 2),
    (0x2B210400, .neg 8 16 2),
    (0x2C2104AD, .and 8 16 2 21 5),
    (0x2D2104AD, .or 8 16 2 21 5),
    (0x2E2104AD, .xor 8 16 2 21 5),
    (0x2F2104AD, .andn 8 16 2 21 5),
    (0x30210400, .not 8 16 2),
    (0x312104AD, .shl 8 16 2 21 5),
    (0x322104AD, .shr 8 16 2 21 5),
    (0x332104AD, .sar 8 16 2 21 5)] = true := by decide +kernel

theorem test_decode_integer_2 : reads [
    (0x342104AD, .rot 8 16 2 21 5),
    (0x352104AD, .dsh 8 16 2 21 5),
    (0x36210400, .lzc 8 16 2),
    (0x37210400, .tzc 8 16 2),
    (0x38210400, .ones 8 16 2),
    (0x39210400, .rvb 8 16 2),
    (0x3A2104AD, .bxt 8 16 2 21 5),
    (0x3B2104AD, .bdp 8 16 2 21 5),
    (0x3C2104AD, .sel 8 16 2 21 5),
    (0x3D2104AD, .cmpeq 8 16 2 21 5),
    (0x3E2104AD, .cmpne 8 16 2 21 5),
    (0x3F2104AD, .cmplt 8 16 2 21 5),
    (0x402104AD, .cmple 8 16 2 21 5),
    (0x41210400, .mov 8 16 2),
    (0x422104B5, .add64 8 16 2 22 5),
    (0x432104AD, .lea 8 16 2 21 5),
    (0x442104AD, .sxt 8 16 2 21 5),
    (0x452104AD, .zxt 8 16 2 21 5)] = true := by decide +kernel

theorem test_decode_float_1 : reads [
    (0x502104AD, .fadd 8 16 2 21 5),
    (0x512104AD, .fsub 8 16 2 21 5),
    (0x522104AD, .fmul 8 16 2 21 5),
    (0x532104AD, .ffma 8 16 2 21 5),
    (0x542104AD, .ffms 8 16 2 21 5),
    (0x552104AD, .fmin 8 16 2 21 5),
    (0x562104AD, .fmax 8 16 2 21 5),
    (0x57210400, .fabs 8 16 2),
    (0x58210400, .fneg 8 16 2),
    (0x592104AD, .fcmpeq 8 16 2 21 5),
    (0x5A2104AD, .fcmplt 8 16 2 21 5),
    (0x5B2104AD, .fcmple 8 16 2 21 5),
    (0x5C2104AD, .fcmpun 8 16 2 21 5),
    (0x5D210400, .fcls 8 16 2),
    (0x5E210400, .fcvt 8 16 2),
    (0x5F210400, .fcvti 8 16 2),
    (0x60210400, .fcvtf 8 16 2),
    (0x61210400, .frnd 8 16 2),
    (0x622104AD, .fscl 8 16 2 21 5),
    (0x63210400, .frcp 8 16 2)] = true := by decide +kernel

theorem test_decode_float_2 : reads [
    (0x64210400, .frsq 8 16 2),
    (0x65210400, .fsqrt 8 16 2),
    (0x66210400, .fex2 8 16 2),
    (0x67210400, .flg2 8 16 2),
    (0x68210400, .fsin 8 16 2),
    (0x69210400, .fcos 8 16 2),
    (0x6A2104AD, .zmul 8 16 2 21 5),
    (0x6B2104AD, .zfma 8 16 2 21 5),
    (0x6C210400, .zcnj 8 16 2),
    (0x6D2104AD, .srnd 8 16 2 21 5),
    (0x6E2104AD, .mxscl 8 16 2 21 5),
    (0x6F2104AD, .mxpak 8 16 2 21 5),
    (0x702104AD, .mxunp 8 16 2 21 5)] = true := by decide +kernel

theorem test_decode_lane : reads [
    (0x802104AD, .lperm 8 16 2 21 5),
    (0x81210400, .lqAny 8 16 2),
    (0x82210400, .lqAll 8 16 2),
    (0x83210400, .lqSet 8 16 2),
    (0x84210400, .gredAdd 8 16 2),
    (0x85210400, .gredMin 8 16 2),
    (0x86210400, .gredMax 8 16 2),
    (0x87210400, .gredAnd 8 16 2),
    (0x88210400, .gredOr 8 16 2),
    (0x89210400, .gredXor 8 16 2),
    (0x8A210400, .gscanAdd 8 16 2),
    (0x8B210400, .gscanMax 8 16 2),
    (0x8C210460, .isect 8 16 2 3),
    (0x8D210461, .topk 8 16 2 3 1),
    (0x8E210461, .dgrp 8 16 2 3 1),
    (0x8F210460, .prune 8 16 2 3)] = true := by decide +kernel

theorem test_decode_memory_1 : reads [
    (0x9821046C, .ld 8 16 2 3 1 4),
    (0x9921046C, .st 8 16 2 3 1 4),
    (0x9A21046C, .ldc 8 16 2 3 1 4),
    (0x9B210465, .stm 8 16 2 3 5),
    (0x9C210464, .lds 8 16 2 3 4),
    (0x9D210464, .sts 8 16 2 3 4),
    (0x9E21046B, .ldsp 8 16 2 3 5 1),
    (0x9F010461, .pref 16 2 3 1),
    (0xA0210469, .ldacq 8 16 2 3 2 1),
    (0xA1210469, .strel 8 16 2 3 2 1),
    (0xA2210469, .lr 8 16 2 3 2 1),
    (0xA3210469, .sc 8 16 2 3 2 1),
    (0xA4210469, .atomAdd 8 16 2 3 2 1),
    (0xA5210469, .atomSub 8 16 2 3 2 1),
    (0xA6210469, .atomMin 8 16 2 3 2 1),
    (0xA7210469, .atomMax 8 16 2 3 2 1),
    (0xA8210469, .atomAnd 8 16 2 3 2 1),
    (0xA9210469, .atomOr 8 16 2 3 2 1),
    (0xAA210469, .atomXor 8 16 2 3 2 1),
    (0xAB210469, .atomXchg 8 16 2 3 2 1)] = true := by decide +kernel

theorem test_decode_memory_2 : reads [
    (0xAC210469, .atomCas 8 16 2 3 2 1),
    (0xAD210469, .atomWinc 8 16 2 3 2 1),
    (0xAE210469, .atomFadd 8 16 2 3 2 1),
    (0xAF210461, .redAdd 8 16 2 3 1),
    (0xB0210461, .redMin 8 16 2 3 1),
    (0xB1210461, .redMax 8 16 2 3 1),
    (0xB2210461, .redAnd 8 16 2 3 1),
    (0xB3210461, .redOr 8 16 2 3 1),
    (0xB4210461, .redXor 8 16 2 3 1),
    (0xB5210461, .redFadd 8 16 2 3 1),
    (0xB6106060, .pushm 4 6 3),
    (0xB7106060, .popm 4 6 3),
    (0xB8000068, .fence 3 2),
    (0xB9210460, .bind 8 16 2 3),
    (0xBA210460, .unbind 8 16 2 3),
    (0xBB210468, .acq 8 16 2 3 2),
    (0xBC010468, .rel 16 2 3 2),
    (0xBD210460, .cln 8 16 2 3),
    (0xBE210461, .inv 8 16 2 3 1)] = true := by decide +kernel

theorem test_decode_matrix : reads [
    (0xC0010460, .bankCm 16 2 3),
    (0xC1010460, .bankSm 16 2 3),
    (0xC2210460, .resv 8 16 2 3),
    (0xC3210460, .resvRd 8 16 2 3),
    (0xC4210460, .resvFree 8 16 2 3),
    (0xC5064003, .mma 1 2 2 3),
    (0xC6065413, .mmas 1 2 2 40 1 3),
    (0xC7210461, .accRd 8 16 2 3 1),
    (0xC8210461, .accWr 8 16 2 3 1),
    (0xC9010461, .accClr 16 2 3 1),
    (0xCA065403, .desc 1 2 2 40 3)] = true := by decide +kernel

theorem test_decode_engine : reads [
    (0xD8210460, .copy 8 16 2 3),
    (0xD9210460, .copyx 8 16 2 3),
    (0xDA210460, .gath 8 16 2 3),
    (0xDB210460, .coll 8 16 2 3),
    (0xDC210460, .qfence 8 16 2 3),
    (0xDD210461, .cqSeq 8 16 2 3 1),
    (0xDE210460, .futWait 8 16 2 3),
    (0xDF210460, .futTest 8 16 2 3),
    (0xE0210460, .futCncl 8 16 2 3),
    (0xE1210460, .futMov 8 16 2 3),
    (0xE2210460, .task 8 16 2 3)] = true := by decide +kernel

theorem test_decode_sync : reads [
    (0xE4000005, .bar 5),
    (0xE5000005, .barArr 5),
    (0xE6000005, .barWt 5),
    (0xE7000000, .spanbar),
    (0xE8210465, .boInit 8 16 2 3 5),
    (0xE9200065, .boArr 8 3 5),
    (0xEA210465, .boWt 8 16 2 3 5),
    (0xEB2BFFFD, .tryOpen 10 262141),
    (0xEC2BFFFD, .trylOpen 10 262141),
    (0xED200000, .commit 8),
    (0xEE000005, .abort 5),
    (0xEF010400, .tabl 16 2),
    (0xF0200000, .tstat 8)] = true := by decide +kernel

theorem test_decode_system : reads [
    (0xF2000000, .tfence),
    (0xF3000003, .trap 3),
    (0xF4000003, .brk 3),
    (0xF503FFFD, .phint 262141),
    (0xF6200002, .sysRd 8 2),
    (0xF7200002, .sysWr 8 2),
    (0xF8200001, .clk 8 1),
    (0xF9200001, .grn 8 1),
    (0xFA000000, .rte),
    (0xFB210461, .tlbinv 8 16 2 3 1),
    (0xFC210460, .genBump 8 16 2 3)] = true := by decide +kernel

/-! ## Ill-formed terms: one for each check -/

theorem test_ill_oddPair : (Instr.call 5 2).check = some .oddPair := by decide
theorem test_ill_notQuad : (Instr.tlbinv 8 18 0 2 0).check = some .notQuad := by decide
theorem test_ill_notEntry : (Instr.copy 8 17 0 1).check = some .notEntry := by decide
theorem test_ill_badIndex : (Instr.idx 3 7).check = some .badIndex := by decide
theorem test_ill_badModei : (Instr.modei 3 6).check = some .badModei := by decide
theorem test_ill_badShape : (Instr.mma 0 1 1 0).check = some .badShape := by decide
theorem test_ill_badShape_rows : (Instr.mmas 1 3 1 40 0 0).check = some .badShape := by decide
theorem test_ill_noSecondTrace : (Instr.desc 1 2 1 63 0).check = some .noSecondTrace := by decide
theorem test_ill_badWidth : (Instr.ld 8 2 0 0 0 7).check = some .badWidth := by decide
theorem test_ill_badWidth_store : (Instr.st 8 2 0 0 0 3).check = some .badWidth := by decide
theorem test_ill_badHint : (Instr.st 8 2 0 0 2 4).check = some .badHint := by decide
theorem test_ill_badScope : (Instr.fence 0 5).check = some .badScope := by decide
theorem test_ill_noEnables : (Instr.stm 8 2 0 0 0).check = some .noEnables := by decide
theorem test_ill_badKind : (Instr.inv 8 2 0 0 3).check = some .badKind := by decide
theorem test_ill_badDepth : (Instr.dgrp 6 2 0 0 25).check = some .badDepth := by decide
theorem test_ill_badRange : (Instr.pushm 7 6 0).check = some .badRange := by decide
theorem test_ill_badSelector : (Instr.sysRd 4 7).check = some .badSelector := by decide

/-! ## Single steps -/

-- R305: the spec's example of a constant built of two instructions.
theorem test_limm : lane (small 0 1 []) (.limm 3 0x3FFFF) 3 0 = some 0xFFFFFFFF := by decide +kernel
theorem test_lhi : lane (small 0 1 [(96, 0x1678)]) (.lhi 3 0x48D1) 3 0 = some 0x12345678 := by decide +kernel
theorem test_idx : lane (small 0 0xFFFFFFFF []) (.idx 3 0) 3 31 = some 31 := by decide +kernel
-- R306, R307: offsets count words from the branch itself.
theorem test_br : pcOf (small 0 1 []) (.br 2) = some 8 := by decide +kernel
theorem test_bz_not_taken : pcOf (small 0 1 [(32, 7)]) (.bz 1 2) = some 4 := by decide +kernel
theorem test_bmnz : pcOf (small 0 2 [(32, 1)]) (.bmnz 1 2) = some 4 := by decide +kernel
theorem test_call : lane (small 0 1 []) (.call 4 2) 4 0 = some 4 := by decide +kernel
theorem test_br_below_zero : after (exec (.br 0x3FFFF) (small 0 1 [])) (fun t => bits (sget 0 t.grp.trap 0) 7 0) = some 4 := by
  decide +kernel
-- R61, R62, R24: gm and em.
theorem test_modei_rm : after (exec (.modei 3 5) (small 0 1 [])) (fun t => t.spl.gm) = some 0x280000 := by decide +kernel
theorem test_emAnd : after (exec (.emAnd 3 1 0) (small 0 5 [(32, 6)])) (fun t => (t.spl.em, t.reg 3 0)) = some (4, 5) := by
  decide +kernel
-- R309: lanes 0 to 15 with code 0, the rest with code 1.
theorem test_split : after (exec (.split 4 1) (small 0 0xFFFFFFFF [(160, 0x55555555)])) (fun t =>
    ((t.grp.splitAt 0).dm, (t.grp.splitAt 0).pc, (t.grp.splitAt 1).dm, (t.grp.splitAt 1).pc)) =
    some (0x0000FFFF, 4, 0xFFFF0000, 8) := by decide +kernel

-- R100 to R103.
theorem test_add_wraps : lane (small 0x1A00 1 [(32, 0xFFFFFFFF), (64, 2)]) (.add 3 1 0 2 0) 3 0 = some 1 := by decide +kernel
theorem test_add_clamps : lane (small 0x401A00 1 [(32, 0x7FFFFFFF), (64, 1)]) (.add 3 1 0 2 0) 3 0 = some 0x7FFFFFFF := by
  decide +kernel
theorem test_add_clamp_flag : flags (small 0x401A00 1 [(32, 0x7FFFFFFF), (64, 1)]) (.add 3 1 0 2 0) = some 0x20 := by
  decide +kernel
theorem test_sub_clamps_natural : lane (small 0x402000 1 [(32, 1), (64, 2)]) (.sub 3 1 0 2 0) 3 0 = some 0 := by decide +kernel
theorem test_addc : lane (small 0 1 [(32, 0xFFFFFFFF), (160, 1)]) (.addc 4 1 0 2 0) 5 0 = some 1 := by decide +kernel
theorem test_subb : lane (small 0 1 [(160, 1)]) (.subb 4 1 0 2 0) 4 0 = some 0xFFFFFFFF := by decide +kernel
theorem test_mulh_natural : lane (small 0x2000 1 [(32, 0xFFFFFFFF)]) (.mulh 3 1 0 1 0) 3 0 = some 0xFFFFFFFE := by decide +kernel
theorem test_mulh_signed : lane (small 0x1A00 1 [(32, 0xFFFFFFFF)]) (.mulh 3 1 0 1 0) 3 0 = some 0 := by decide +kernel
theorem test_mulhn_half_up : lane (small 0x1A00 1 [(32, 0x10000), (64, 0x8000)]) (.mulhn 3 1 0 2 0) 3 0 = some 1 := by
  decide +kernel
theorem test_mad_own_source : lane (small 0x1A00 1 [(32, 3)]) (.mad 1 1 0 1 0) 1 0 = some 12 := by decide +kernel
theorem test_min_signed : lane (small 0x1A00 1 [(32, 0xFFFFFFFF), (64, 1)]) (.min 3 1 0 2 0) 3 0 = some 0xFFFFFFFF := by
  decide +kernel
theorem test_max_natural : lane (small 0x2000 1 [(32, 0xFFFFFFFF), (64, 1)]) (.max 3 1 0 2 0) 3 0 = some 0xFFFFFFFF := by
  decide +kernel
theorem test_abs_least : lane (small 0x1A00 1 [(32, 0x80000000)]) (.abs 3 1 0) 3 0 = some 0x80000000 := by decide +kernel
theorem test_abs_least_clamped : lane (small 0x401A00 1 [(32, 0x80000000)]) (.abs 3 1 0) 3 0 = some 0x7FFFFFFF := by
  decide +kernel
theorem test_neg_natural : lane (small 0x2000 1 [(32, 5)]) (.neg 3 1 0) 3 0 = some 0xFFFFFFFB := by decide +kernel
theorem test_neg_natural_clamped : lane (small 0x402000 1 [(32, 5)]) (.neg 3 1 0) 3 0 = some 0 := by decide +kernel
-- R104 to R110.
theorem test_andn : lane (small 0 1 [(32, 0xFF), (64, 0x0F)]) (.andn 3 1 0 2 0) 3 0 = some 0xF0 := by decide +kernel
theorem test_shl_width : lane (small 0 1 [(32, 1), (64, 32)]) (.shl 3 1 0 2 0) 3 0 = some 0 := by decide +kernel
theorem test_sar_beyond : lane (small 0 1 [(32, 0x80000000), (64, 40)]) (.sar 3 1 0 2 0) 3 0 = some 0xFFFFFFFF := by decide +kernel
theorem test_rot_over : lane (small 0 1 [(32, 0x80000001), (64, 33)]) (.rot 3 1 0 2 0) 3 0 = some 3 := by decide +kernel
theorem test_dsh : lane (small (8 * 2 ^ 23) 1 [(32, 0x11223344), (64, 0xAABBCCDD)]) (.dsh 3 1 0 2 0) 3 0 = some 0xDD112233 := by
  decide +kernel
theorem test_lzc_zero : lane (small 0 1 []) (.lzc 3 1 0) 3 0 = some 32 := by decide +kernel
theorem test_tzc : lane (small 0 1 [(32, 0x28)]) (.tzc 3 1 0) 3 0 = some 3 := by decide +kernel
theorem test_rvb : lane (small 0 1 [(32, 0x3)]) (.rvb 3 1 0) 3 0 = some 0xC0000000 := by decide +kernel
theorem test_bxt_signed : lane (small 0x1A00 1 [(32, 0x00000F00), (64, 0x0408)]) (.bxt 3 1 0 2 0) 3 0 = some 0xFFFFFFFF := by
  decide +kernel
theorem test_bdp : lane (small 0 1 [(32, 0xF), (64, 0x0204), (96, 0x100)]) (.bdp 3 1 0 2 0) 3 0 = some 0x130 := by decide +kernel
theorem test_sel : lane (small 0 3 [(32, 7), (33, 8), (96, 2)]) (.sel 3 1 0 2 0) 3 1 = some 8 := by decide +kernel
theorem test_cmplt_signed : lane (small 0x1A00 3 [(32, 0xFFFFFFFF), (33, 1)]) (.cmplt 3 1 0 2 0) 3 0 = some 1 := by decide +kernel
theorem test_add64_carry : lane (small 0 1 [(64, 0xFFFFFFFF), (128, 1)]) (.add64 6 2 0 4 0) 7 0 = some 1 := by decide +kernel
theorem test_lea_negative : lane (small (0x1A00 + 3 * 2 ^ 23) 1 [(64, 0x100), (128, 0xFFFFFFFF)]) (.lea 6 2 0 4 0) 6 0 =
    some 0xF8 := by decide +kernel
theorem test_sxt : lane (small 0 1 [(32, 0x80), (64, 8)]) (.sxt 3 1 0 2 0) 3 0 = some 0xFFFFFF80 := by decide +kernel
-- R54: a permute code moves operands between lanes.
theorem test_mov_reversed : lane (small 0 0xFFFFFFFF [(32, 9)]) (.mov 3 1 5) 3 31 = some 9 := by decide +kernel
-- R111 to R117.
theorem test_fadd : lane (small 0 1 [(32, 0x3F800000), (64, 0x40000000)]) (.fadd 3 1 0 2 0) 3 0 = some 0x40400000 := by
  decide +kernel
theorem test_fsub_exact_zero : lane (small 0 1 [(32, 0x3F800000)]) (.fsub 3 1 0 1 0) 3 0 = some 0 := by decide +kernel
theorem test_fmul_invalid : after (exec (.fmul 3 1 0 2 0) (small 0 1 [(32, 0x7F800000)])) (fun t => (t.reg 3 0, t.grp.fl)) =
    some (0x7FC00000, 1) := by decide +kernel
theorem test_ffma_once : lane (small 0 1 [(32, 0x3F800001), (96, 0xBF800002)]) (.ffma 3 1 0 1 0) 3 0 = some 0x28800000 := by
  decide +kernel
theorem test_ffms : lane (small 0 1 [(32, 0x40000000), (96, 0x3F800000)]) (.ffms 3 1 0 1 0) 3 0 = some 0xC0400000 := by
  decide +kernel
theorem test_fmin_zeros : lane (small 0 1 [(64, 0x80000000)]) (.fmin 3 1 0 2 0) 3 0 = some 0x80000000 := by decide +kernel
theorem test_fmax_number : lane (small 0 1 [(32, 0x7FC00000), (64, 0x3F800000)]) (.fmax 3 1 0 2 0) 3 0 = some 0x3F800000 := by
  decide +kernel
theorem test_fneg_nan : lane (small 0 1 [(32, 0x7F800001)]) (.fneg 3 1 0) 3 0 = some 0xFF800001 := by decide +kernel
theorem test_fcmplt_nan : after (exec (.fcmplt 3 1 0 2 0) (small 0 1 [(32, 0x7FC00000)])) (fun t => (t.reg 3 0, t.grp.fl)) =
    some (0, 1) := by decide +kernel
theorem test_fcmpeq_zeros : lane (small 0 1 [(64, 0x80000000)]) (.fcmpeq 3 1 0 2 0) 3 0 = some 1 := by decide +kernel
theorem test_fcls : lane (small 0 1 [(32, 0x80000000)]) (.fcls 3 1 0) 3 0 = some 8 := by decide +kernel
theorem test_fcvt_f16_overflow : lane (small (2 * 2 ^ 14) 1 [(32, 0x47800000)]) (.fcvt 3 1 0) 3 0 = some 0x7C00 := by
  decide +kernel
theorem test_fcvt_f16_saturates : lane (small (2 * 2 ^ 14 + 2 ^ 22) 1 [(32, 0x47800000)]) (.fcvt 3 1 0) 3 0 = some 0x7BFF := by
  decide +kernel
theorem test_fcvti_ties_to_even : lane (small (13 * 2 ^ 14) 1 [(32, 0x40200000)]) (.fcvti 3 1 0) 3 0 = some 2 := by
  decide +kernel
theorem test_fcvtf : lane (small 0x1A00 1 [(32, 0xFFFFFFFF)]) (.fcvtf 3 1 0) 3 0 = some 0xBF800000 := by decide +kernel
theorem test_frnd : lane (small 0 1 [(32, 0x40200000)]) (.frnd 3 1 0) 3 0 = some 0x40000000 := by decide +kernel
theorem test_fscl : lane (small 0 1 [(32, 0x3F800000), (64, 3)]) (.fscl 3 1 0 2 0) 3 0 = some 0x41000000 := by decide +kernel
theorem test_frcp_three : lane (small 0 1 [(32, 0x40400000)]) (.frcp 3 1 0) 3 0 = some 0x3EAAAAAB := by decide +kernel
theorem test_fsqrt_two : lane (small 0 1 [(32, 0x40000000)]) (.fsqrt 3 1 0) 3 0 = some 0x3FB504F3 := by decide +kernel
theorem test_frsq_four : lane (small 0 1 [(32, 0x40800000)]) (.frsq 3 1 0) 3 0 = some 0x3F000000 := by decide +kernel
theorem test_fex2 : lane (small 0 1 [(32, 0x40400000)]) (.fex2 3 1 0) 3 0 = some 0x41000000 := by decide +kernel
theorem test_flg2 : lane (small 0 1 [(32, 0x41000000)]) (.flg2 3 1 0) 3 0 = some 0x40400000 := by decide +kernel
theorem test_fsin_half : lane (small 0 1 [(32, 0x3F000000)]) (.fsin 3 1 0) 3 0 = some 0x3F800000 := by decide +kernel
theorem test_fcos_one : lane (small 0 1 [(32, 0x3F800000)]) (.fcos 3 1 0) 3 0 = some 0xBF800000 := by decide +kernel
-- R119: (1 + 2i)(3 + 4i) = -5 + 10i.
theorem test_zmul : after (exec (.zmul 6 2 0 4 0) (small (17 * 2 ^ 9) 1
    [(64, 0x3F800000), (96, 0x40000000), (128, 0x40400000), (160, 0x40800000)])) (fun t => (t.reg 6 0, t.reg 7 0)) =
    some (0xC0A00000, 0x41200000) := by decide +kernel
-- R120: 5 / 2 rounds to 2.
theorem test_srnd : after (exec (.srnd 3 1 0 2 0) (small (13 * 2 ^ 9 + 13 * 2 ^ 14) 1 [(32, 5), (64, 1)])) (fun t =>
    (t.reg 3 0, t.grp.fl)) = some (2, 0x10) := by decide +kernel
-- R123 to R126.
theorem test_lperm : lane (small 0 3 [(33, 9), (64, 1)]) (.lperm 3 1 0 2 0) 3 0 = some 9 := by decide +kernel
theorem test_lqAll : lane (small 0 3 [(32, 9)]) (.lqAll 3 1 0) 3 0 = some 0 := by decide +kernel
theorem test_gredAdd_control_lane : lane (small 0x1A00 6 [(32, 100), (33, 2), (34, 3)]) (.gredAdd 3 1 0) 3 0 = some 5 := by
  decide +kernel
theorem test_gredMin_empty : lane (small 0x1A00 0 []) (.gredMin 3 1 0) 3 0 = some 0x7FFFFFFF := by decide +kernel
theorem test_gscanAdd : lane (small 0x1A00 7 [(32, 1), (33, 2), (34, 3)]) (.gscanAdd 3 1 0) 3 2 = some 6 := by decide +kernel
theorem test_gscanMax : lane (small 0x1A00 7 [(32, 4), (33, 2), (34, 3)]) (.gscanMax 3 1 0) 3 2 = some 4 := by decide +kernel
-- R129: the two largest, with their lanes.
theorem test_topk : after (exec (.topk 6 1 0 0 1) (small 0x1A00 7 [(32, 4), (33, 9), (34, 5)])) (fun t =>
    (t.reg 6 0, t.reg 7 0, t.reg 6 1, t.reg 7 1)) = some (9, 1, 5, 2) := by decide +kernel
-- R130: the spec's example, depth 3.
theorem test_dgrp : after (exec (.dgrp 6 2 0 0 3) (small 0 15 [(64, 3), (66, 3), (67, 4)])) (fun t =>
    ([t.reg 6 0, t.reg 6 1, t.reg 6 2, t.reg 6 3], [t.reg 7 0, t.reg 7 1, t.reg 7 2])) =
    some ([0x08000000, 0x18000001, 0x6, 0x10000006], [0x1, 0x101, 0x202]) := by decide +kernel
-- R128: the spec's example.
theorem test_isect : after (exec (.isect 6 2 0 0) (small 0 31
    [(64, 2), (65, 5), (66, 9), (67, 14), (68, 0xFFFFFFFF), (96, 5), (97, 6), (98, 14), (99, 20), (100, 21)])) (fun t =>
    (t.reg 6 0, t.reg 6 1, t.reg 6 2, t.reg 7 0)) = some (0x1, 0x203, 0xFFFFFFFF, 0x00020504) := by decide +kernel

-- R226, R230 to R234: memory. Page 0 holds the word of the state itself at address 0.
theorem test_ld_word : lane (small 0 1 []) (.ld 8 2 0 0 0 4) 8 0 = some 0x01000000 := by decide +kernel
theorem test_ld_signed_byte : lane (let s := small 0 1 [(64, 0x80)]; { s with mem := { s.mem with bytes := [(0x80, 0x80)] } })
    (.ld 8 2 0 0 0 1) 8 0 = some 0xFFFFFF80 := by decide +kernel
theorem test_st_byte : after (exec (.st 8 2 0 0 0 0) (small 0 1 [(64, 0x80), (256, 0x11223344)])) (fun t =>
    (t.homeByte 0x80, t.homeByte 0x81)) = some (0x44, 0) := by decide +kernel
theorem test_stm_enables : after (exec (.stm 8 2 0 0 5) (small 0 1 [(64, 0x80), (256, 0x11223344)])) (fun t =>
    ((List.range 4).map fun k => t.homeByte (0x80 + k))) = some [0x44, 0, 0x22, 0] := by decide +kernel
theorem test_store_lane_order : after (exec (.st 8 2 0 0 0 0) (small 0 3 [(64, 0x80), (65, 0x80), (256, 1), (257, 2)])) (fun t =>
    t.homeByte 0x80) = some 2 := by decide +kernel
theorem test_sts : after (exec (.sts 8 2 0 0 4) (small 0 1 [(64, 0x100), (256, 0x11223344)])) (fun t =>
    ((List.range 4).map fun k => t.blk.byte (0x100 + k))) = some [0x44, 0x33, 0x22, 0x11] := by decide +kernel
theorem test_ld_no_page : after (exec (.ld 8 2 0 0 0 4) (small 0 1 [(64, 0x5000)])) (fun t =>
    (bits (sget 0 t.grp.trap 0) 7 0, sget 0 t.grp.trap 2, sget 0 t.grp.trap 6)) = some (4, 0x5000, 0) := by decide +kernel
-- R240, R238, R239.
theorem test_atomAdd : after (exec (.atomAdd 8 2 0 0 0 0) (small 0 1 [(64, 0x80), (256, 7)])) (fun t =>
    (t.reg 8 0, t.homeByte 0x80)) = some (0, 7) := by decide +kernel
theorem test_atomWinc_zero : after (exec (.atomWinc 8 2 0 0 0 0) (small 0 1 [(64, 0x80), (256, 1)])) (fun t =>
    (t.reg 8 0, t.homeByte 0x80)) = some (0, 0) := by decide +kernel
theorem test_atom_misaligned : after (exec (.atomAdd 8 2 0 0 0 0) (small 0 1 [(64, 0x82)])) (fun t =>
    bits (sget 0 t.grp.trap 0) 7 0) = some 3 := by decide +kernel
theorem test_sc_without_reservation : after (exec (.sc 8 2 0 0 0 0) (small 0 1 [(64, 0x80), (256, 7)])) (fun t =>
    (t.reg 8 0, t.homeByte 0x80)) = some (1, 0) := by decide +kernel
-- R242: the spec's example, a spill area that ends at 0x4_0000 and holds sp there.
theorem test_pushm_example : after (exec (.pushm 4 6 0) (let s := small 0 1 [(128, 0xAABBCCDD)]
    { s with grp := { s.grp with sp := 0x40000 }
             blk := { s.blk with banks := List.range 8, record := 0x0000001000000400 :: List.replicate 31 0 } })) (fun t =>
    (t.grp.sp, t.blk.byte 0x3FE80, t.blk.byte 0x3FE83)) = some (0x3FE80, 0xDD, 0xAA) := by decide +kernel
theorem test_popm_beyond : after (exec (.popm 4 6 0) (small 0 1 [])) (fun t => bits (sget 0 t.grp.trap 0) 7 0) = some 5 := by
  decide +kernel
-- R139, R166: bank 0 alone, FP32 by FP32, 16 columns: the handle is 0x8000.
theorem test_resv : after (exec (.resv 8 4 0 0) (small 0 0xFFFFFFFF [(128, 0x00080800)])) (fun t =>
    (t.reg 8 0, t.blk.resvs.length)) = some (0x8000, 1) := by decide +kernel
-- R376 to R383: the entry into the trap routine and the way back.
theorem test_trap : after (exec (.trap 42) (small 0x280000 5 [])) (fun t =>
    (t.spl.pc, t.spl.gm, t.spl.em, sget 0 t.grp.trap 0, sget 0 t.grp.trap 3, sget 0 t.grp.trap 4, sget 0 t.grp.trap 5)) =
    some (0x1000, 0, 0xFFFFFFFF, 0x2A0000009, 4, 5, 0x280000) := by decide +kernel
theorem test_rte_outside : after (exec .rte (small 0 1 [])) (fun t => bits (sget 0 t.grp.trap 0) 7 0) = some 5 := by decide +kernel
theorem test_rte : after (exec .rte (let s := small 0 1 []
    { s with grp := { s.grp with handler := some 0, trap := [(3, 0x20), (4, 6), (5, 0x280000)] } })) (fun t =>
    (t.spl.pc, t.spl.em, t.spl.gm, t.grp.handler)) = some (0x20, 6, 0x280000, none) := by decide +kernel
theorem test_tfence : after (exec .tfence (let s := small (2 ^ 33) 1 []
    { s with grp := { s.grp with fl := 1 } })) (fun t => bits (sget 0 t.grp.trap 0) 7 0) = some 8 := by decide +kernel
-- R355, R356: sys.rd of sp; sys.wr of an sp that is no multiple of 4.
theorem test_sysRd_sp : lane (small 0 1 []) (.sysRd 4 0) 4 0 = some 0x10000 := by decide +kernel
theorem test_sysWr_sp_unaligned : after (exec (.sysWr 4 0) (small 0 1 [(128, 0x10002)])) (fun t =>
    bits (sget 0 t.grp.trap 0) 7 0) = some 2 := by decide +kernel
-- R318, R324: a region opens in try slot 0 and an abort goes to its handler.
theorem test_try : after (exec (.tryOpen 20 6) (small 0 1 [])) (fun t => (t.spl.pc, t.grp.region.map (·.handler))) =
    some (4, some 24) := by decide +kernel
theorem test_commit_outside : after (exec (.commit 21) (small 0 1 [])) (fun t => bits (sget 0 t.grp.trap 0) 7 0) = some 2 := by
  decide +kernel
-- R314: the only group of a block completes the phase that it arrives in.
theorem test_bar_alone : after (exec (.bar 3) (small 0 1 [])) (fun t => (t.blk.phase 3, t.spl.pc)) = some (1, 4) := by
  decide +kernel
-- R374: a link falls asleep; R409: a code that is no command.
theorem test_linkSleep : after (exec (.linkSleep 5) (let s := State.reset
    { s with links := { s.links with state := [(5, 2)] } })) (fun t => t.linkST 5) = some 3 := by decide +kernel

/-! ## Witnesses of hypotheses -/

theorem noSpec (l : Sparse Split) (h : l.all (fun e => e.2.spec.isNone) = true) (k : Nat) : (sget {} l k).spec = none := by
  induction l with
  | nil => rfl
  | cons e r ih =>
    simp only [List.all_cons, Bool.and_eq_true, Option.isNone_iff_eq_none] at h
    unfold sget
    split
    · exact h.1
    · exact ih h.2

/-- Nothing of the issuing group watches memory, and no core holds a copy of a line beyond the module's HBM. -/
theorem unwatched_of {s : State} (h : (s.grp.lr.isEmpty && s.grp.region.isNone &&
    (s.grp.splits.all fun e => e.2.spec.isNone) && (s.mem.l1.all fun c => !c.peer) && s.links.copies.isEmpty) = true) :
    Unwatched s := by
  simp only [Bool.and_eq_true, List.isEmpty_iff, Option.isNone_iff_eq_none, List.all_eq_true, Bool.not_eq_true'] at h
  refine ⟨h.1.1.1.1, h.1.1.1.2,
    fun k => noSpec _ (List.all_eq_true.mpr fun e he => Option.isNone_iff_eq_none.mpr (h.1.1.2 e he)) k,
    fun c hc hp => ?_, h.2⟩
  rw [h.1.2 c hc] at hp
  exact absurd hp Bool.false_ne_true

/-- Is a trap of the issuing split delivered as its instruction ends? -/
def entersNow (s : State) : Bool :=
  s.grp.region.isNone && !s.outstanding && !s.othersBusy && s.spl.pending.isEmpty && s.spl.spec.isNone && s.grp.pendOthers s.cur == 0

theorem atOnce_of {s : State} (h : entersNow s = true) : AtOnce s := by
  simp only [entersNow, Bool.and_eq_true, Bool.not_eq_true', List.isEmpty_iff, Option.isNone_iff_eq_none, beq_iff_eq] at h
  exact ⟨h.1.1.1.1.1, h.1.1.1.1.2, h.1.1.1.2, h.1.1.2, h.1.2, fun _ => h.2⟩

theorem delivers_of {s : State} (h : (entersNow s && s.grp.handler.isNone && s.tvec s.blk.asid != 0 && decide (s.cur < 4)) = true) :
    Delivers s := by
  simp only [Bool.and_eq_true, Option.isNone_iff_eq_none, bne_iff_ne, decide_eq_true_eq] at h
  exact ⟨atOnce_of h.1.1.1, h.1.1.2, h.1.2, h.2⟩

/-- A state whose address space runs at level S and whose function owns address spaces 0 to 3. -/
def asSup (s : State) : State :=
  { s with iso := { s.iso with space := sset 0 s.iso.space 0 0x10000, vf := sset 0 s.iso.vf 1 0x0000000400000000 } }

/-- The small state of one active lane with registers. -/
abbrev one (regs : Sparse Word) : State := small 0 1 regs

/-- Lane k finds n bytes of memory at an address. -/
def finds (s : State) (k va n : Nat) (kind : Kind) : Bool :=
  match s.readLane k va n kind true with
  | .ok bs sp ps => !sp && bs.length == n && ps.length == n && ps.all fun at_ => at_.1 < 2 ^ 80 && (s.l2Entry (at_.1 / 64)).isNone
  | _ => false

/-- An access is checked and reaches memory. -/
def reaches' (s : State) (va n : Nat) (kind : Kind) : Bool :=
  match s.check s.me s.blk.asid va n kind s.inHandler with
  | .mem ps => ps.length == n
  | _ => false

-- R56, R57: a window of two instructions is told of the next one, and an outstanding store on its way counts.
theorem test_windowPasses : after (exec .nop ((one []).setSpl { (one []).spl with
    windows := [⟨0, 2, [(1, 1)], [], false, 0, [(32, 5)], 0⟩] })) (fun t => t.spl.windows.map fun w => (w.left, w.before)) =
    some [(1, [(32, 5)])] := by decide +kernel
theorem witness_delivers : Delivers (one []) := delivers_of (by decide +kernel)

theorem witness_encodeDecode : (Instr.add 6 6 0 7 0).wf = true ∧ encode (.add 6 6 0 7 0) = some 0x20186038 ∧
    reads [(0x20186038, .add 6 6 0 7 0)] = true := by decide +kernel

theorem witness_stepAnswers : State.reset.agenda = [] ∧ ∀ m < 4, State.reset.linkST (56 + m) < 2 := by decide +kernel
theorem witness_stepRunsDecoded : (one []).agenda = [] ∧ (one []).hostUp = true ∧ (one []).turn = true ∧ (one []).issuing = true ∧
    (match (one []).fetch with
     | (_, .ok w) => w == 0x01000000
     | _ => false) = true ∧ (one []).spl.pc.toNat % 4 = 0 ∧ reaches' (one []) 0 4 .fetch = true ∧
    (one []).l1iLine 0 0 = none ∧ (one []).unreadable 0 (0, 0) = none := by decide +kernel

theorem witness_stepRunsDecoded_misaligned : let s := (one []).setSpl { (one []).spl with pc := 2 }
    Delivers s ∧ s.agenda = [] ∧ s.hostUp = true ∧ s.turn = true ∧ s.issuing = true ∧ s.spl.pc.toNat % 4 ≠ 0 ∧ s.spl.redo = [] := by
  refine ⟨delivers_of (by decide +kernel), ?_⟩
  decide +kernel

theorem witness_memoryForm : Memory.wf (one []).mem := by decide +kernel

theorem witness_refusedInstructions : Delivers (one []) ∧ (one []).issuing = true ∧ (one []).spl.redo = [] ∧
    (Instr.call 5 2).wf = false ∧ (encode (.call 5 2)).isSome = true ∧
    (Instr.fadd 3 1 0 2 0).gmOk 0xC00 = false ∧ (Instr.fadd 3 1 0 2 0).wf = true ∧ (small 0xC00 1 []).issuing = true ∧
    (Instr.mma 1 0 0 0).isBank = true ∧ (one []).sup (one []).blk.asid = false ∧ (Instr.tlbinv 8 16 0 2 0).wf = true ∧
    (Instr.sysRd 4 0x100).wf = true := by
  exact ⟨witness_delivers, by decide +kernel⟩
theorem witness_refusedInstructions_far : Delivers { one [] with blk := { (one []).blk with core := 512 } } ∧
    ({ one [] with blk := { (one []).blk with core := 512 } } : State).issuing = true := by
  refine ⟨delivers_of (by decide +kernel), ?_⟩
  decide +kernel
theorem witness_refusedInstructions_noWord : let s := State.reset.placeWord 0xFFFFFFFF
    s.hostUp = true ∧ s.issuing = true ∧ (match s.fetch with
     | (_, .ok w) => match decode w with
       | .ok _ => false
       | .error _ => true
     | _ => false) = true := by decide +kernel

theorem witness_trapsAndReturns : ∀ i ∈ [.trap 42, .brk 255, .tfence], Runs i (one []) := runAll_of (by decide +kernel)
theorem witness_trapsAndReturns_raised : let s : State := { small 0x200000000 1 [] with grp := { (small 0x200000000 1 []).grp with fl := 1 } }
    Runs .tfence s ∧ s.grp.fl &&& gmTE s.spl.gm ≠ 0 ∧ Delivers s := by
  refine ⟨runs_of (by decide +kernel), by decide +kernel, delivers_of (by decide +kernel)⟩
theorem witness_trapsAndReturns_double : let s : State := { one [] with grp := { (one []).grp with handler := some 0 } }
    Runs (.trap 1) s ∧ s.grp.region = none ∧ s.spl.spec = none ∧ s.outstanding = false ∧ s.mgmt.removing = [] ∧
      s.grp.handler ≠ none := by
  refine ⟨runs_of (by decide +kernel), ?_⟩
  decide +kernel
theorem witness_trapsAndReturns_noVector : let s : State := { one [] with iso := { (one []).iso with tvec := [] } }
    Runs (.trap 1) s ∧ s.grp.handler = none ∧ s.tvec s.blk.asid = 0 := by
  refine ⟨runs_of (by decide +kernel), ?_⟩
  decide +kernel
theorem witness_trapsAndReturns_outside : Runs .rte (asSup (one [])) ∧ (asSup (one [])).grp.handler = none ∧
    Delivers (asSup (one [])) := by
  refine ⟨runs_of (by decide +kernel), by decide +kernel, delivers_of (by decide +kernel)⟩
theorem witness_trapsAndReturns_back : let s : State := { one [] with grp := { (one []).grp with handler := some 0, trap := [(0, 0x00800000), (3, 8), (4, 6), (6, 4)] } }
    Runs .rte s ∧ s.grp.handler ≠ none ∧ s.grp.pendCount = 0 ∧ bits (sget 0 s.grp.trap 0) 27 23 = 1 ∧
      bits (sget 0 s.grp.trap 3) 1 0 = 0 ∧ bits (sget 0 s.grp.trap 6) 1 0 = 0 := by
  refine ⟨runs_of (by decide +kernel), ?_⟩
  decide +kernel
theorem witness_trapsAndReturns_misaligned : let s : State := { one [] with grp := { (one []).grp with handler := some 0, trap := [(3, 2)] } }
    Runs .rte s ∧ s.grp.handler ≠ none ∧ bits (sget 0 s.grp.trap 3) 1 0 ≠ 0 := by
  refine ⟨runs_of (by decide +kernel), ?_⟩
  decide +kernel

theorem witness_systemReadsAndClocks : ∀ i ∈ [.sysRd 4 0, .sysRd 4 1, .sysRd 4 2, .sysRd 4 0x100, .sysRd 4 0x101, .sysRd 4 0x110,
    .sysRd 4 0x125, .sysRd 4 0x130, .sysRd 4 0x137, .sysRd 4 0x150, .sysRd 4 0x15F, .sysRd 4 0x200, .sysRd 4 0x203, .clk 4 0, .clk 4 1,
    .grn 4 0, .grn 4 1], Runs i (asSup (one [])) := runAll_of (by decide +kernel)
theorem witness_systemReadsAndClocks_index :
    (asSup (one [])).indexStop 0x203 3 = none ∧ (asSup (one [])).indexStop 0x203 4 = some tICONV ∧
    Runs (.sysRd 4 0x200) (asSup (one [(128, 131072)])) ∧ Delivers (asSup (one [(128, 131072)])) ∧
    (asSup (one [])).ownAsid 3 = true ∧ (asSup (one [])).ownAsid 4 = false := by
  refine ⟨by decide +kernel, by decide +kernel, runs_of (by decide +kernel), delivers_of (by decide +kernel), ?_⟩
  decide +kernel

theorem witness_systemWrites : ∀ i ∈ [.sysWr 4 0, .sysWr 4 1, .sysWr 4 2, .sysWr 4 0x100, .sysWr 4 0x101, .sysWr 4 0x130, .sysWr 4 0x137,
    .sysWr 4 0x113, .sysWr 4 3, .sysWr 4 6, .sysWr 4 0x140, .sysWr 4 0x200], Runs i (asSup (one [])) := runAll_of (by decide +kernel)
theorem witness_systemWrites_sp : let u := one [(128, 0x10000)]
    let v : DWord := u.reg 5 u.ctl ++ u.reg 4 u.ctl
    Runs (.sysWr 4 0) u ∧ v.toNat % 4 = 0 ∧ u.spillBottom ≤ v.toNat ∧ v.toNat ≤ u.spillTop := by
  refine ⟨runs_of (by decide +kernel), ?_⟩
  decide +kernel
theorem witness_systemWrites_misfit : Delivers (asSup (one [])) ∧
    ¬(asSup (one [])).spillBottom ≤ 0 ∧ (asSup (one [])).indexStop 0x200 0 = none ∧
    (match (asSup (one [])).writeSelector 0x200 0 0 with
     | .inl _ => true
     | .inr _ => false) = true ∧
    (match (asSup (one [])).writeSelector 0x100 0 2 with
     | .inl _ => false
     | .inr c => c == tICONV) = true := by
  refine ⟨delivers_of (by decide +kernel), ?_⟩
  decide +kernel

theorem witness_translations : let s := asSup (one [(2 * 32, 0), (4 * 32, 1)])
    Runs (.tlbinv 8 4 0 0 1) s ∧ Runs (.tlbinv 8 4 0 0 0) s ∧ Runs (.genBump 8 10 0 0) s ∧ s.grp.region = none ∧
      s.ownAsid 0 = true ∧ s.spaceValid 0 = true ∧ s.draining = false ∧ s.quiet = true ∧ s.oldBuffers 0 = false ∧
      s.mem.requests = [] ∧ s.mem.reductions = [] ∧ s.hub.commands = [] ∧ (s.operand64 4 0 s.ctl).toNat = 1 := by
  refine ⟨runs_of (by decide +kernel), runs_of (by decide +kernel), runs_of (by decide +kernel), ?_⟩
  decide +kernel
theorem witness_translations_range : let s := asSup (one [(4 * 32, 0x1000), (6 * 32, 1)])
    Runs (.tlbinv 8 4 0 0 0) s ∧ (s.operand64 4 0 s.ctl).toNat % 4096 = 0 ∧
      (s.operand64 4 0 s.ctl).toNat + 4096 * (s.operand 6 0 s.ctl).toNat ≤ 2 ^ 57 ∧ bits (s.operand 7 0 s.ctl) 31 16 = 0 := by
  refine ⟨runs_of (by decide +kernel), ?_⟩
  decide +kernel
theorem witness_translations_ack : (one []).underPages 0 0 0 1 ⟨0, 0, 0x80, 0x80, [(0, 7)], 0, 0, 0, 0, 0, 0, false, {}, none, false, none⟩ = true := by
  decide +kernel

theorem witness_integerArithmetic : (∀ i ∈ [.add 3 1 0 2 0, .sub 3 1 0 2 0, .neg 3 1 0, .abs 3 1 0, .addc 4 1 0 2 0, .subb 4 1 0 2 0,
      .min 3 1 0 2 0, .max 3 1 0 2 0], Runs i (small 0x1A00 1 [])) ∧ gmSAT (small 0x1A00 1 []).spl.gm = false ∧
    (∀ i ∈ [.add 3 1 0 2 0, .sub 3 1 0 2 0, .neg 3 1 0, .abs 3 1 0], Runs i (small 0x401A00 1 [])) ∧
    gmSAT (small 0x401A00 1 []).spl.gm = true :=
  ⟨runAll_of (by decide +kernel), by decide +kernel, runAll_of (by decide +kernel), by decide +kernel⟩
theorem witness_productsAndShifts : (∀ i ∈ [.mul 3 1 0 2 0, .mad 3 1 0 2 0, .mulh 3 1 0 2 0, .mulhn 3 1 0 2 0, .shl 3 1 0 2 0,
      .shr 3 1 0 2 0, .sar 3 1 0 2 0, .rot 3 1 0 2 0, .dsh 3 1 0 2 0], Runs i (small 0x1A00 1 [])) ∧
    gmSAT (small 0x1A00 1 []).spl.gm = false ∧
    (∀ i ∈ [.mul 3 1 0 2 0, .mad 3 1 0 2 0, .shl 3 1 0 2 0], Runs i (small 0x401A00 1 [])) ∧
    gmSAT (small 0x401A00 1 []).spl.gm = true :=
  ⟨runAll_of (by decide +kernel), by decide +kernel, runAll_of (by decide +kernel), by decide +kernel⟩
theorem witness_logicAndSelection : ∀ i ∈ [.and 3 1 0 2 0, .or 3 1 0 2 0, .xor 3 1 0 2 0, .andn 3 1 0 2 0, .not 3 1 0, .mov 3 1 7,
    .sel 3 1 0 2 0], Runs i (small 0x1A00 1 []) := runAll_of (by decide +kernel)
theorem witness_countsFieldsCompares : ∀ i ∈ [.lzc 3 1 0, .tzc 3 1 0, .ones 3 1 0, .rvb 3 1 0, .bxt 3 1 0 2 0, .bdp 3 1 0 2 0,
    .sxt 3 1 0 2 0, .zxt 3 1 0 2 0, .cmpeq 3 1 0 2 0, .cmpne 3 1 0 2 0, .cmplt 3 1 0 2 0, .cmple 3 1 0 2 0, .add64 6 2 0 4 0,
    .lea 6 2 0 4 0], Runs i (small 0x1A00 1 []) := runAll_of (by decide +kernel)
theorem witness_branches : (∀ i ∈ [.br 2, .bz 1 2, .bnz 1 2, .bmz 1 2, .bmnz 1 2], Runs i (one [])) ∧ Delivers (one []) :=
  ⟨runAll_of (by decide +kernel), witness_delivers⟩
theorem witness_branches_targets : (2 : BitVec 18).toInt = 2 ∧ (0x3FFFF : BitVec 18).toInt = -1 ∧ (one []).spl.pc.toNat = 0 := by
  decide +kernel
theorem witness_callsAndConstants : (∀ i ∈ [.call 4 2, .ret 4, .jmpr 4 0x3FFFF, .nop, .limm 3 5, .lhi 3 5, .idx 3 0, .idx 3 6],
      Runs i (one [])) ∧ Delivers (one []) ∧ (one []).blk.core < 640 :=
  ⟨runAll_of (by decide +kernel), witness_delivers, by decide +kernel⟩
theorem witness_modesAndMasks : (∀ i ∈ [.mode 8 4 0 6 0, .modei 0 127, .modei 10 13, .emSet 3 1 0, .emAnd 3 1 0, .emAndn 3 1 0, .emGet 3],
      Runs i (one [])) ∧ gmLegal (one []).spl.gm = true ∧ gmLegal 0x300000 = false ∧ Delivers (one []) :=
  ⟨runAll_of (by decide +kernel), by decide +kernel, by decide +kernel, witness_delivers⟩
theorem witness_splitting : let s := small 0 0xFFFFFFFF [(160, 0x55555555)]
    Runs (.split 4 1) s ∧ s.grp.isSplit = false ∧ s.grp.region = none ∧
      bits (s.reg 5 0 ++ s.reg 4 0 : DWord) 1 0 ≠ bits (s.reg 5 0 ++ s.reg 4 0 : DWord) 63 62 := by
  refine ⟨runs_of (by decide +kernel), ?_⟩
  decide +kernel

/-- Two splits of a group, the issuing one of lanes 0 to 15; the other with a status. -/
def twoSplits (st : SplitStatus) : State :=
  let s := one []
  { s with grp := { s.grp with splits := [(0, { s.spl with dm := 0xFFFF }), (1, { st := st, dm := 0xFFFF0000, em := 0xFFFF0000 })] } }

theorem witness_joinAndExit : (∀ i ∈ [.join 2, .exit], Runs i (twoSplits .live)) ∧ (twoSplits .live).cur < 4 ∧
    (twoSplits .live).grp.isSplit = true ∧ ((twoSplits .live).grp.splitAt 1).st = .live ∧
    Runs (.join 2) (twoSplits .joinWait) ∧ (twoSplits .joinWait).grp.isSplit = true ∧
    (∀ k ∈ [1, 2, 3], ((twoSplits .joinWait).grp.splitAt k).st ≠ .live) ∧
    (∀ i ∈ [.join 2, .exit], Runs i (one [])) ∧ (one []).grp.isSplit = false :=
  ⟨runAll_of (by decide +kernel), by decide +kernel, by decide +kernel, by decide +kernel, runs_of (by decide +kernel),
    by decide +kernel, by decide +kernel, runAll_of (by decide +kernel), by decide +kernel⟩

/-- A state in which register v3 bears a future of queue 0 of die 0. -/
def bearing (done : DWord) : State :=
  let s := one []
  { s with
    grp := { s.grp with futures := [(3, ⟨0, 0, 0, 1⟩)] }
    hub := { s.hub with cq := [(0, 4), (1, 1), (3, done), (4, 1)] } }

theorem witness_yielding : Runs (.yield 0) (one []) ∧ Runs (.yield 1023) (one []) ∧ Runs (.yieldc 3 2) (one []) ∧
    (one []).grp.futureOf 3 = none ∧ Runs (.yieldc 3 2) (bearing 1) ∧ (bearing 1).grp.futureOf 3 = some ⟨0, 0, 0, 1⟩ ∧
    1 ≤ (bearing 1).cqDone 0 0 ∧ Runs (.yieldc 3 2) (bearing 0) ∧ (bearing 0).cqDone 0 0 < 1 :=
  ⟨runs_of (by decide +kernel), runs_of (by decide +kernel), runs_of (by decide +kernel), by decide +kernel,
    runs_of (by decide +kernel), by decide +kernel, by decide +kernel, runs_of (by decide +kernel), by decide +kernel⟩
theorem witness_permuteAndVotes : ∀ i ∈ [.lperm 3 1 0 2 0, .lqAny 3 1 0, .lqAll 3 1 0, .lqSet 3 1 0], Runs i (one []) :=
  runAll_of (by decide +kernel)
theorem witness_integerReductions : (∀ i ∈ [.gredAnd 3 1 0, .gredOr 3 1 0, .gredXor 3 1 0, .gredAdd 3 1 0, .gredMin 3 1 0, .gredMax 3 1 0,
      .gscanAdd 3 1 0, .gscanMax 3 1 0], Runs i (small 0x1A00 1 []) ∧ Runs i (small 0x1A00 0 [])) ∧
    isArithFloat (gmTA (small 0x1A00 1 []).spl.gm) = false ∧ (small 0x1A00 0 []).active = [] ∧
    Runs (.gscanAdd 3 1 0) (small 0x401A00 1 []) :=
  ⟨fun i h => ⟨runAll_of (s := small 0x1A00 1 []) (by decide +kernel) i h, runAll_of (s := small 0x1A00 0 []) (by decide +kernel) i h⟩,
    by decide +kernel, by decide +kernel, runs_of (by decide +kernel)⟩
theorem witness_floatReductions : (∀ i ∈ [.gredAdd 4 2 0, .gredMin 4 2 0, .gredMax 4 2 0, .gscanAdd 4 2 0, .gscanMax 4 2 0],
      Runs i (one []) ∧ Runs i (small 0x200 1 [])) ∧ isArithFloat (gmTA (one []).spl.gm) = true ∧
    isArithFloat (gmTA (small 0x200 1 []).spl.gm) = true :=
  ⟨fun i h => ⟨runAll_of (s := one []) (by decide +kernel) i h, runAll_of (s := small 0x200 1 []) (by decide +kernel) i h⟩,
    by decide +kernel, by decide +kernel⟩
theorem witness_laneInstructionFrame : laneOnly (.add 3 1 0 2 0) = true ∧ laneOnly (.prune 4 2 0 0) = true ∧ laneOnly (.nop) = false ∧
    (∀ i ∈ [.add 3 1 0 2 0, .prune 4 2 0 0], Runs i (one [])) :=
  ⟨by decide +kernel, by decide +kernel, by decide +kernel, runAll_of (by decide +kernel)⟩
theorem witness_laneInstructionFrame_window :
    let s := (one [(32, 7)]).setSpl { (one []).spl with windows := [⟨0, 2, [(1, 1)], [], false, 0, [(32, 5)], 0⟩] }
    Runs (.mov 3 1 0) s ∧ s.reg 1 0 = 7 ∧ laneOnly (.mov 3 1 0) = true ∧ ∃ w ∈ s.spl.windows, 0 < w.left ∧ (32, 5) ∈ w.before :=
  ⟨runs_of (by decide +kernel), by decide +kernel, by decide +kernel, by decide +kernel⟩
theorem witness_selectionAndGrouping : (∀ i ∈ [.isect 6 2 0 0, .topk 6 1 0 0 31, .dgrp 6 2 0 0 24, .prune 4 2 0 0], Runs i (one [])) ∧
    (one []).spl.dm = 0xFFFFFFFF := ⟨runAll_of (by decide +kernel), by decide +kernel⟩
theorem witness_floatArithmetic : (∀ i ∈ [.fadd 4 2 0 6 0, .fsub 4 2 0 6 0, .fmul 4 2 0 6 0, .ffma 4 2 0 6 0, .ffms 4 2 0 6 0, .fcvt 4 2 0,
      .fscl 4 2 0 6 0], Runs i (one []) ∧ Runs i (small 0x200 1 []) ∧ Runs i (small 0x280000 1 [])) ∧
    Runs (.fcvti 4 2 0) (small (13 * 2 ^ 14) 1 []) ∧ Runs (.fcvtf 4 2 0) (small 0x1A00 1 []) :=
  ⟨fun i h => ⟨runAll_of (s := one []) (by decide +kernel) i h, runAll_of (s := small 0x200 1 []) (by decide +kernel) i h,
    runAll_of (s := small 0x280000 1 []) (by decide +kernel) i h⟩, runs_of (by decide +kernel), runs_of (by decide +kernel)⟩
theorem witness_floatFunctions : ∀ i ∈ [.frcp 4 2 0, .frsq 4 2 0, .fsqrt 4 2 0, .fex2 4 2 0, .flg2 4 2 0, .fsin 4 2 0, .fcos 4 2 0, .frnd 4 2 0],
    Runs i (one []) := runAll_of (by decide +kernel)
theorem witness_floatChoiceAndCompare : ∀ i ∈ [.fmin 4 2 0 6 0, .fmax 4 2 0 6 0, .fabs 4 2 0, .fneg 4 2 0, .fcmpeq 4 2 0 6 0,
    .fcmplt 4 2 0 6 0, .fcmple 4 2 0 6 0, .fcmpun 4 2 0 6 0, .fcls 4 2 0], Runs i (one []) ∧ Runs i (small 0x200 1 []) :=
  fun i h => ⟨runAll_of (s := one []) (by decide +kernel) i h, runAll_of (s := small 0x200 1 []) (by decide +kernel) i h⟩
theorem witness_complexArithmetic : ∀ i ∈ [.zmul 8 4 0 12 0, .zfma 8 4 0 12 0, .zcnj 8 4 0],
    Runs i (small 0x2200 1 []) ∧ Runs i (small 0x2400 1 []) :=
  fun i h => ⟨runAll_of (s := small 0x2200 1 []) (by decide +kernel) i h, runAll_of (s := small 0x2400 1 []) (by decide +kernel) i h⟩
theorem witness_requantisingAndBlocks : (∀ i ∈ [.mxscl 3 1 0 2 0, .mxpak 3 1 0 2 0, .mxunp 3 1 0 2 0], Runs i (small (7 * 2 ^ 14) 1 [])) ∧
    Runs (.srnd 3 1 0 2 0) (small (13 * 2 ^ 9 + 11 * 2 ^ 14) 1 []) ∧
    fmtD (gmTB (small (13 * 2 ^ 9 + 11 * 2 ^ 14) 1 []).spl.gm) = .int true 8 :=
  ⟨runAll_of (by decide +kernel), runs_of (by decide +kernel), by decide +kernel⟩
theorem witness_exactArithmetic : Exactly (.fin true 3 (-1)) (-3 / 2) := by norm_num [Exactly]
theorem witness_roundsToNearest : Fmt.f32.isFloat = true ∧ Exactly (.fin true 3 (-1)) (-3 / 2) ∧
    (roundTo 0 false 0 (.fin true 3 (-1)) .f32).2 &&& (fOF ||| fSA) = 0 :=
  ⟨by decide, witness_exactArithmetic, by decide +kernel⟩
theorem witness_representableStays : ∃ n m e, decodeVal .f32 1 = .fin n m e ∧ (1 : Nat) < 2 ^ Fmt.f32.width :=
  ⟨_, _, _, by rfl, by decide⟩
theorem witness_rootBrackets : (2 : Nat) ≠ 0 := by decide

/-- Lane 0 has the address 0x80 in v2 and an odd value in v8. -/
abbrev pointed : State := one [(64, 0x80), (256, 7)]

theorem pointed_unwatched : Unwatched pointed := unwatched_of (by decide +kernel)

theorem witness_loads : (∀ i ∈ [.ld 8 2 0 0 0 4, .ld 8 2 0 0 2 6, .ldc 8 2 0 0 0 5, .lds 8 2 0 0 4, .ldacq 8 2 0 0 0 0, .ldacq 8 2 0 0 4 1,
      .pref 2 0 0 1], Runs i pointed) ∧ pointed.spl.redo = [] ∧ pointed.active = [0] ∧ finds pointed 0 0x80 4 .load = true ∧
    finds pointed 0 0x80 8 .acquire = true ∧ pointed.unreadable 0 (0x80, 0) = none ∧
    pointed.ownByte false 0x80 = none ∧ pointed.l1Line 0 2 = none ∧ pointed.mem.requests = [] ∧ pointed.mem.reductions = [] ∧
    pointed.readsWait true [(0, [0, 0, 0, 0], false, [(0x80, 0), (0x81, 0), (0x82, 0), (0x83, 0)])] = false ∧
    (match pointed.readSpad 0 0x80 4 0 with
      | .ok _ _ _ => true
      | _ => false) = true := ⟨runAll_of (by decide +kernel), by decide +kernel⟩
theorem witness_loads_fault : let s := small 0 3 [(64, 0x80), (65, 0x5000)]
    Runs (.ld 8 2 0 0 0 4) s ∧ Delivers s ∧ s.spl.redo = [] ∧ s.active = [0, 1] ∧ finds s 0 0x80 4 .load = true ∧
      (match s.readLane 1 0x5000 4 .load false with
       | .bad e dn => e.listed && e.code == tPAGE && e.lane == 1 && !dn
       | _ => false) = true := by
  refine ⟨runs_of (by decide +kernel), delivers_of (by decide +kernel), ?_⟩
  decide +kernel

/-- Every write of a list succeeds, to one policy for each line, and no hold stops a scratchpad line. -/
def goesOut (u : State) (ws : List LaneWrite) : Bool :=
  (splitWrites ws).2.isEmpty && ((splitWrites ws).1.all fun h => !h.spad || !u.lineHeld u.who true (h.addr / 64)) &&
    (splitWrites ws).1.all fun g => (splitWrites ws).1.all fun h =>
      g.spad || h.spad || g.addr / 64 != h.addr / 64 || g.cp == h.cp

theorem witness_stores : (∀ i ∈ [.st 8 2 0 0 0 4, .stm 8 2 0 0 5, .sts 8 2 0 0 4, .strel 8 2 0 0 0 0, .strel 8 2 0 0 4 1], Runs i pointed) ∧
    Unwatched pointed ∧ pointed.quiet = true ∧
    goesOut pointed [pointed.writeLane 0 0x80 4 .store (numbered (pointed.storeBytes 8 0 4))] = true ∧
    goesOut pointed [pointed.writeSpad 0 0 [(0x80, 7)] 0x80 1] = true ∧
    goesOut pointed [pointed.writeLane 0 0x80 8 .release (numbered (pointed.storeBytes 8 0 8))] = true :=
  ⟨runAll_of (by decide +kernel), pointed_unwatched, by decide +kernel⟩

/-- An open region of the pointed state. -/
def region0 : Region :=
  { slot := 0, perLane := true, handler := 24, lane := 0, reg := 20, regs := [], em := 1, gm := 0, sp := 0x10000, gs := []
    buffer := [], reads := [], failed := 0, flags := [], doomed := none, holding := false }

/-- The pointed state inside a region. -/
def inside (r : Region) : State := { pointed with grp := { pointed.grp with region := some r } }

theorem witness_stores_buffered : Runs (.st 8 2 0 0 0 4) (inside region0) ∧ (inside region0).grp.region = some region0 ∧
    let w := splitWrites [(inside region0).writeLane 0 0x80 4 .store (numbered ((inside region0).storeBytes 8 0 4))]
    w.2 = [] ∧ bufferLines (region0.buffer ++ w.1) ≤ 32 := by
  refine ⟨runs_of (by decide +kernel), rfl, ?_⟩
  decide +kernel

theorem witness_atomics : (∀ i ∈ [.atomAdd 8 2 0 0 0 0, .atomSub 8 2 0 0 0 0, .atomMin 8 2 0 0 0 0, .atomMax 8 2 0 0 0 0, .atomAnd 8 2 0 0 0 0,
      .atomOr 8 2 0 0 0 0, .atomXor 8 2 0 0 0 0, .atomXchg 8 2 0 0 0 1, .atomCas 8 2 0 0 4 1, .atomWinc 8 2 0 0 0 0, .atomFadd 8 2 0 0 0 0],
      Runs i pointed) ∧ pointed.active = [0] ∧ finds pointed 0 0x80 4 .rmw = true ∧ finds pointed 0 0x80 8 .rmw = true ∧
    pointed.lineHeld pointed.who false 2 = false ∧ Unwatched pointed ∧ pointed.quiet = true :=
  ⟨runAll_of (by decide +kernel), by decide +kernel, by decide +kernel, by decide +kernel, by decide +kernel, pointed_unwatched,
    by decide +kernel⟩

/-- The pointed state with a protected reservation of lane 0 on the line it points to. -/
def holding : State := { pointed with grp := { pointed.grp with lr := [(0, ⟨0, 2, 0, true⟩)] } }

theorem witness_reservedPairs : Runs (.lr 8 2 0 0 0 0) pointed ∧ Runs (.sc 8 2 0 0 0 0) pointed ∧ Runs (.sc 8 2 0 0 0 1) holding ∧
    finds pointed 0 0x80 4 .rmw = true ∧ holding.scLive [(0, [(0x80, 0)])] 0 2 = true ∧ lineOf [(0x80, 0)] = 2 ∧ holding.priorityHolds holding.who false 2 = false ∧
    holding.quiet = true ∧ holding.grp.region = none ∧ pointed.protector 2 = none ∧ holding.protector 2 = some (0, 0, 0, 0) ∧ pointed.spl.spec = none ∧ pointed.quiet = true ∧ pointed.grp.region = none ∧
    holding.blk.record ≠ [] ∧ holding.writeWaits 2 = false :=
  ⟨runs_of (by decide +kernel), runs_of (by decide +kernel), runs_of (by decide +kernel), by decide +kernel⟩

theorem witness_reductions : (∀ i ∈ [.redAdd 8 2 0 0 0, .redMin 8 2 0 0 0, .redMax 8 2 0 0 0, .redAnd 8 2 0 0 0, .redOr 8 2 0 0 0,
      .redXor 8 2 0 0 1, .redFadd 8 2 0 0 0], Runs i pointed) ∧ finds pointed 0 0x80 8 .rmw = true :=
  ⟨runAll_of (by decide +kernel), by decide +kernel⟩
/-- The small state with a context under removal. -/
def leaving (stage : Nat) : State := { one [] with mgmt := { (one []).mgmt with removing := [(0, 0x11, stage)] } }

/-- A request of the issuing split on its way, and one for the sum of a word. -/
def request1 (gen : Nat) (rejected : Bool) : Request :=
  ⟨0, gen, 0x80, 0x80, [(0, 7)], 0, 0, 0, 8, 0, 0, rejected, { stamp := 1, mask := 1, va := 0x80 }, none, false, none⟩
def seven : Reduction := { op := 0, bytes := 4, value := 7, ta := 12, rm := 0, lanes := 1 }
def sum1 (gen : Nat) : Request := { request1 gen false with data := [], red := some seven }

theorem witness_reductions_apply : let s : State := { pointed with mem := { pointed.mem with reductions := [sum1 0] } }
    s.mem.reductions[0]? = some (sum1 0) ∧ (sum1 0).red = some seven ∧ (sum1 1).gen ≠ s.gen 0 ∧
      s.fresh 0 0 0 = true ∧ s.carried 0 0x80 = true ∧ ({ s with links := { s.links with routes := [] } } : State).carried 0 (2 ^ 58) = false ∧
      s.refusedAtHome (sum1 0) = false ∧ s.removalAt 0 5 = false ∧ (leaving 5).removalAt 0 5 = true ∧
      s.priorityHolds none false 2 = false ∧ s.protectedFrom (some (0, 0, 0)) 2 = false ∧ s.mem.l2 = [] := by decide +kernel

theorem witness_spillStack : (∀ i ∈ [.pushm 4 7 0, .popm 4 4 0], Runs i pointed ∧ Runs i (small 0 0 [])) ∧ (small 0 0 []).active = [] ∧
    pointed.active ≠ [] ∧ pointed.spillBottom + 128 * 4 = pointed.spAt ∧ pointed.spAt = pointed.spillTop ∧
    pointed.blk.computing (pointed.spAt - 512) 512 = false ∧ Delivers pointed ∧ Unwatched pointed ∧
    ∀ line, pointed.lineHeld pointed.who true line = false :=
  ⟨fun i h => ⟨runAll_of (s := pointed) (by decide +kernel) i h, runAll_of (s := small 0 0 []) (by decide +kernel) i h⟩,
    by decide +kernel, by decide +kernel, by decide +kernel, by decide +kernel, by decide +kernel,
    delivers_of (by decide +kernel), pointed_unwatched, fun _ => rfl⟩
theorem witness_spillStack_pop : let s : State := { pointed with grp := { pointed.grp with sp := 0xFF80 } }
    Runs (.popm 4 4 0) s ∧ s.spAt + 128 ≤ s.spillTop ∧ s.spillBottom ≤ s.spAt ∧ (∀ k ∈ s.domLanes,
      s.bankUpset (s.spAt + 4 * k) 4 = false ∧ s.spadWaits [s.spAt + 4 * k] = false) ∧ s.grp.region = none ∧ s.spl.spec = none := by
  refine ⟨runs_of (by decide +kernel), ?_⟩
  decide +kernel

theorem witness_fencesAndLines : let s := one [(128, 0x1000), (192, 0x80)]
    (∀ i ∈ [.fence 0 4, .bind 8 4 0 0, .unbind 8 4 0 0, .acq 8 6 0 0 3, .rel 6 0 0 4, .cln 8 6 0 0, .inv 8 6 0 0 2], Runs i s) ∧
      reaches' s 0x80 8 .rmw = true ∧ finds s 0 0x80 8 .rmw = true ∧ s.quiet = true ∧ Unwatched s ∧
      s.lineHeld s.who false 2 = false ∧ s.mem.bindings = [] ∧ s.mustWait true [(0x80, 0)] = false :=
  ⟨runAll_of (by decide +kernel), by decide +kernel, by decide +kernel, by decide +kernel, unwatched_of (by decide +kernel),
    by decide +kernel, by decide +kernel⟩
theorem witness_fencesAndLines_clean : let s := one [(192, 0x80), (256, 64)]
    Runs (.cln 8 6 0 0) s ∧ pagesOf (s.addr 6 0 s.ctl) (s.reg 8 s.ctl).toNat = [0] ∧
      (match s.translate s.me s.blk.asid 0 with
       | some (f, leaf) => leaf.getLsbD 1 && !leaf.getLsbD 4 && !walkDenied leaf && leafCP leaf != 1 &&
           s.passes s.blk.asid s.me (4096 * f + 0x80) .load
       | none => false) = true ∧ s.mem.stale = [] := by
  refine ⟨runs_of (by decide +kernel), ?_⟩
  decide +kernel
theorem witness_fencesAndLines_complete :
    let f : Spec := { pc := 0, scope := 2, regs := [], em := 1, gm := 0, windows := [], buffer := [], monitored := [] }
    let s := pointed.setSpl { pointed.spl with spec := some f }
    s.spl.spec = some f ∧ s.blk.record ≠ [] ∧ s.quiet = true := by decide +kernel

/-- A reservation of bank 0: i8 by i8, 16 columns, two K-blocks, 16 accumulator lines; its handle is 0x8000. -/
def bank0 (mode : Nat) (work : List Work) : Resv :=
  { w0 := BitVec.ofNat 64 (11 * 2 ^ 47 + 11 * 2 ^ 42 + 2 ^ 19 + 2 * 2 ^ 11)
    w1 := BitVec.ofNat 64 (0x8000 * 2 ^ 48 + mode * 2 ^ 30 + 15), work := work }

/-- A state of all lanes whose register block 1 describes a tile of that reservation: row and column 0, one valid row. -/
def tiled (mode : Nat) (work : List Work) (word7 : Word) : State :=
  let s := small 0 0xFFFFFFFF [(128, 0x8000), (352, 0x8000), (384, 1), (448, 16), (480, word7)]
  { s with blk := { s.blk with resvs := [bank0 mode work] } }

theorem witness_reservations : (∀ i ∈ [.resv 8 12 0 0, .resvRd 8 4 0 0, .resvFree 8 4 0 0, .bankCm 4 0 0, .bankSm 4 0 0],
      Runs i (tiled 0 [] 0)) ∧ (tiled 0 [] 0).blk.resv 0x8000 = some (bank0 0 []) ∧ (bank0 0 []).work = [] ∧
    (tiled 0 [] 0).blk.filling (bank0 0 []) = false ∧ (tiled 0 [] 0).writing (bank0 0 []) = false ∧
    (tiled 0 [] 0).engineWriting (bank0 0 []) = false ∧ (tiled 0 [] 0).resvUpset (bank0 0 []) = false ∧
    (tiled 0 [] 0).blk.resv 0 = none ∧ Delivers (tiled 0 [] 0) ∧
    (let s : State := { tiled 0 [] 0 with mem := { (tiled 0 [] 0).mem with upsets := [(2, bankPlace 0 0, 0)] } }
     s.resvUpset (bank0 0 []) = true ∧ runs s (.bankCm 4 0 0) = true ∧ entersNow s = true ∧ s.grp.handler = none ∧
       s.tvec s.blk.asid ≠ 0 ∧ s.cur < 4) ∧
    (one []).resvCode (bank0 0 []) = 0 ∧ (tiled 0 [] 0).resvCode (bank0 0 []) = 3 ∧ (one []).resvCode { w0 := 0, w1 := 0 } = 1 :=
  ⟨runAll_of (by decide +kernel), by decide +kernel, by decide +kernel, by decide +kernel, by decide +kernel, by decide +kernel,
    by decide +kernel, by decide +kernel, delivers_of (by decide +kernel), by decide +kernel⟩
theorem witness_accumulatorAccess : (∀ i ∈ [.accRd 8 4 0 0 0, .accWr 4 8 0 0 0, .accClr 4 0 0 0, .accClr 4 0 0 1], Runs i (tiled 0 [] 0)) ∧
    Addresses (tiled 0 [] 0) 0x8000 0 (bank0 0 []) ∧ Addresses (tiled 0 [] 0) 0x000F8000 0 (bank0 0 []) ∧
    (tiled 0 [] 0).updating = false ∧ (bank0 0 []).accb + (bank0 0 []).accl < 512 ∧ 0 < (bank0 0 []).rowLines ∧
    ∀ k ∈ (tiled 0 [] 0).active, (tiled 0 [] 0).accUpset ((bank0 0 []).partEntry 0 k 0) = false :=
  ⟨runAll_of (by decide +kernel), by constructor <;> decide +kernel, by constructor <;> decide +kernel, by decide +kernel⟩
theorem witness_matrixIssue : (∀ i ∈ [.mma 1 0 1 0, .mmas 1 0 1 40 1 0], Runs i (tiled 1 [] 0)) ∧
    Runs (.desc 1 0 1 30 0) (tiled 1 [] 0x04000040) ∧
    (bank0 1 []).mmaStop ((tiled 1 [] 0).newWork 0 1 1 0 0 0 0) 0 = none ∧
    (bank0 1 []).mmaStop ((tiled 1 [] 0).newWork 1 1 1 0 40 1 ((tiled 1 [] 0).indexRegs 1 0 1)) ((tiled 1 [] 0).indexRegs 1 0 1) = none ∧
    (tiled 1 [] 0x04000040).blk.descStop (bank0 1 []) ((tiled 1 [] 0x04000040).newWork 2 1 1 0 30 0 0) = none ∧
    (bank0 0 []).mmaStop ((tiled 0 [] 0).newWork 0 1 1 0 0 0 0) 0 = some tBANKMODE ∧ (tiled 1 [] 0).quiet = true ∧
    Delivers (tiled 1 [] 0) :=
  ⟨runAll_of (by decide +kernel), runs_of (by decide +kernel), by decide +kernel, by decide +kernel, by decide +kernel,
    by decide +kernel, by decide +kernel, delivers_of (by decide +kernel)⟩

/-- The work of the tile, not yet or already at its row slot. -/
def tileWork (kind : Nat) (started : Bool) (word7 : Word) : Work :=
  { (tiled 1 [] word7).newWork kind 1 1 0 0 0 0 with started := started }

theorem settled_tiled (work : List Work) (word7 : Word) : Settled (tiled 1 work word7) :=
  ⟨List.cons_ne_nil _ _, fun _ h => absurd h List.not_mem_nil, fun _ h => absurd h List.not_mem_nil⟩

/-- Does the tile's row have bytes of A, and does nothing stop it? -/
def rowGoes (s : State) (w : Work) (r : Resv) (m : Nat) : Bool :=
  (match s.rowA w r m with
   | .ok raw => raw.length == 64
   | .error _ => false) && (s.rowCheck w r m).isNone

/-- Of a single row that is still to fetch the choice is that row. -/
theorem nextRow_one {w : Work} {m : Nat} (h : w.unfetched = [m]) (tick : Nat) : w.nextRow tick = some m := by
  unfold Work.nextRow
  rw [h]
  simp [Nat.mod_one]

/-- What every move of matrix work asks for, of one piece of work alone in its reservation. -/
theorem witness_matrixMoves : ∀ w ∈ [tileWork 0 false 0, tileWork 0 true 0, { tileWork 0 true 0 with row := 1 }],
    let s := tiled 1 [w] 0
    Settled s ∧ s.workAt 0 0 0 = some (0x8000, w) ∧ w.slot = s.grp.slot ∧ w.spl = s.cur ∧ s.blk.resv 0x8000 = some (bank0 1 [w]) ∧
      (∀ o ∈ (bank0 1 [w]).work, o.stamp = w.stamp → o = w) ∧ (∀ o ∈ s.works s.blk.core, w.stamp ≤ o.2.stamp) := by
  intro w hw
  refine ⟨settled_tiled _ _, ?_⟩
  revert w
  decide +kernel
theorem witness_matrixMoves_slot : let w := tileWork 0 false 0
    w.started = false ∧ (bank0 1 [w]).slotBusy w = false ∧ (bank0 1 [w]).mode = 1 ∧ w.kind ≠ 2 := by decide +kernel
theorem witness_matrixMoves_rows : let w := tileWork 0 true 0
    let s := tiled 1 [w] 0
    w.started = true ∧ w.kind ≠ 2 ∧ w.row < w.vr ∧ w.fetched w.row = none ∧ w.unfetched = [w.row] ∧ rowGoes s w (bank0 1 [w]) 0 = true ∧
      ({ w with row := 1 } : Work).vr ≤ 1 := by decide +kernel
theorem witness_matrixMoves_fault : let w : Work := { tileWork 0 true 0 with words := (tileWork 0 true 0).words.set 0 0x5000 }
    w.row < w.vr ∧ w.fetched w.row = none ∧ w.unfetched = [w.row] ∧ (match (tiled 1 [w] 0).rowA w (bank0 1 [w]) 0 with
      | .ok _ => false
      | .error (e, dn) => e.code == tPAGE && !dn) = true := by decide +kernel
theorem witness_matrixMoves_ahead : let v := tileWork 0 true 0
    let w : Work := { v with stamp := 5 }
    let s := tiled 1 [v, w] 0
    s.workAt 0 0 1 = some (0x8000, w) ∧ (∃ o ∈ s.works s.blk.core, o.2.stamp < w.stamp) ∧ w.unfetched = [w.row] ∧
      rowGoes s w (bank0 1 [v, w]) 0 = true := by decide +kernel
theorem witness_matrixMoves_desc : let w := tileWork 2 true 0x04000040
    let s := tiled 1 [w] 0x04000040
    w.kind = 2 ∧ s.workAt 0 0 0 = some (0x8000, w) ∧ w.unfetched = [w.row] ∧ rowGoes s w (bank0 1 [w]) 0 = true ∧
      s.blk.computing w.side w.sideSize = false ∧ ({ w with ahead := [(0, List.replicate 64 0)] } : Work).unfetched = [] ∧ s.sideHeld w = false ∧
      (∀ o ∈ s.blk.resvs, ∀ x ∈ o.work, x.slot = w.slot → w.stamp ≤ x.stamp) ∧
      (s.grp.lr.isEmpty && s.grp.region.isNone && (s.grp.splits.all fun e => e.2.spec.isNone) &&
        (s.mem.l1.all fun c => !c.peer) && s.links.copies.isEmpty) = true := by
  decide +kernel
theorem witness_matrixRows : let w := tileWork 0 true 0
    let r := bank0 1 [w]
    let s := tiled 1 [w] 0
    isFpClass r.ta = false ∧ [0, 1].Nodup ∧ w.vr = 1 ∧ (match s.rowA w r 0 with
      | .ok raw => raw.length == 64
      | .error _ => false) = true ∧ s.rowCheck w r 0 = none ∧ w.cb + w.vc ≤ r.ncol ∧ w.rb + 1 < r.mcap ∧ r.accb + r.accl < 512 := by
  decide +kernel
theorem witness_matrixRows_sum : let r := bank0 1 []
    isBlockType r.ta = false ∧ isBlockType r.tb = false ∧
      Exactly (decodeVal (fmtD r.ta) (rowCode (List.replicate 64 3) r.width 0)) 3 ∧
      Exactly ((tiled 1 [] 0).blk.bVal r 0 0 0 0) 0 := by
  refine ⟨by decide +kernel, by decide +kernel, ?_, ?_⟩
  · have h : decodeVal (fmtD (bank0 1 []).ta) (rowCode (List.replicate 64 3) (bank0 1 []).width 0) = .fin false 3 0 := by decide +kernel
    rw [h]; norm_num [Exactly]
  · have h : (tiled 1 [] 0).blk.bVal (bank0 1 []) 0 0 0 0 = .fin false 0 0 := by decide +kernel
    rw [h]; norm_num [Exactly]

/-- A state with copy queue 0 of die 0 in memory from 0x400 on, of sixteen slots, some of its commands done and issued. -/
def queued (done issued : DWord) (regs : Sparse Word) (cs : List Command) : State :=
  let s := one regs
  { s with
    hub := { s.hub with cq := [(0, 0x404), (1, 1), (3, done), (4, issued)], commands := cs }
    mem := { s.mem with tlb := ⟨1000, 0, 0, 0, 0xF, 0⟩ :: s.mem.tlb } }

/-- A command of the queue; its entry copies one unit. -/
def command1 (kind seq : Nat) : Command := ⟨kind, 0, 0, seq, [0x80, 0, 0xC0, 0, 4], 0, 0, 0, 0, false, none, 0⟩

/-- Does a result stand for a success? -/
def isOk {ε α : Type} : Except ε α → Bool
  | .ok _ => true
  | .error _ => false

theorem witness_enqueuing : (∀ i ∈ [.copy 8 16 0 0, .copyx 8 16 0 0, .gath 8 16 0 0, .coll 8 16 0 0, .qfence 8 16 0 0],
      Runs i (queued 0 0 [] [])) ∧ isOk ((queued 0 0 [] []).queueOf 0) = true ∧ isOk ((queued 0 0 [] []).queueOf 1) = false ∧
    Delivers (queued 0 0 [] []) ∧ entryOk 0 [0x80, 0, 0xC0, 0, 4, 0, 0, 0, 0, 0, 0, 0] = true ∧
    (queued 0 0 [] []).kindOk 0 [0x80, 0, 0xC0, 0, 4, 0, 0, 0, 0, 0, 0, 0] = true ∧
    entryOk 0 [0, 0, 0, 0, 0, 0, 0, 0, 0x10000] = false ∧ (queued 0 0 [] []).quiet = true ∧
    (queued 0 0 [] []).cqLsz 0 0 = 4 ∧ (queued 0 0 [] []).coreFutures 0 = 0 ∧
    reaches' (queued 0 0 [] []) 0x440 64 .store = true ∧ (queued 0 0 [] []).anyHeld [0x440] = false ∧
    (queued 0 0 [] []).grp.futures = [] :=
  ⟨runAll_of (by decide +kernel), by decide +kernel, by decide +kernel, delivers_of (by decide +kernel), by decide +kernel⟩
theorem witness_enqueuing_join :
    (queued 0 0 [] []).joinOk 0 0 [0, 0, 0, 0, 0, 0, 0, 0x40000000] = true ∧
    (queued 0 0 [] []).joinOk 0 0 [1, 0, 0, 0, 0, 0, 0, 0x40000000] = false := by decide +kernel
theorem witness_enqueuing_owner : let s := { queued 0 0 [] [] with hub := { (queued 0 0 [] []).hub with cq := [(0, 0x404), (1, 0x1000000000001)] } }
    Runs (.copy 8 16 0 0) s ∧ (match s.queueOf 0 with
      | .error c => c == tPROT
      | .ok _ => false) = true := ⟨runs_of (by decide +kernel), by decide +kernel⟩

/-- A unit of a command succeeds and leaves the queues as they were. -/
def unitGoes (s : State) (z : Except Failed Prog) : Bool :=
  match z with
  | .ok p => decide (p.st.hub = s.hub) && p.todo.length == 1
  | .error _ => false

/-- The commands of the three kinds that move data by units: four bytes, one row, one element. -/
def copying : Command := command1 0 1
def striding : Command := { command1 1 1 with entry := [0x80, 0, 0xC0, 0, 0x10004, 4, 4, 1] }
def gathering : Command := { command1 2 1 with entry := [0x80, 0, 0xC0, 0, 0, 0x84, 0, 0x101] }

theorem witness_engineMoves : (queued 0 0 [] []).headCommand 0 0 = none ∧
    (∀ c ∈ [copying, striding, gathering, command1 4 1], (queued 0 1 [] [c]).headCommand 0 0 = some c ∧ c.seq < 2 ^ 64 ∧
      c.cancelled = false ∧ (queued 0 1 [] [c]).completionHeld c [] = false) ∧
    (queued 0 1 [] [{ copying with cancelled := true }]).headCommand 0 0 = some { copying with cancelled := true } ∧
    copySized copying.entry 0x80 0xC0 4 = true ∧ copySized copying.entry 0x81 0xC0 4 = false ∧
    rowsSized striding.entry = true ∧ rowsSized [0x81] = false ∧ eXf striding.entry = 0 ∧ (queued 0 1 [] [command1 4 1]).joined (command1 4 1) = true ∧
    (queued 0 1 [] []).joined { command1 4 1 with entry := [1, 0, 0, 0, 0, 0, 0, 0x40000000] } = false := by decide +kernel
theorem witness_engineMoves_units :
    let io := enginePort ((queued 0 1 [] []).engineOf 0 0) 0
    let s := fun (c : Command) => queued 0 1 [] [c]
    unitGoes (s copying) (copyUnit io copying.entry 0 ⟨copying.progress, s copying, []⟩) = true ∧ copyUnits copying.entry 4 = 1 ∧
      unitGoes (s striding) (rowUnit io striding.entry 0 ⟨striding.progress, s striding, []⟩) = true ∧ ef striding.entry 4 31 16 = 1 ∧
      unitGoes (s gathering) (gatherUnit io gathering.entry 0 ⟨gathering.progress, s gathering, []⟩) = true ∧
      ef gathering.entry 7 31 8 = 1 := by decide +kernel
theorem witness_engineMoves_word :
    let c : Command := { copying with run := some { unit := 1, todo := [[((0xC0, 0), 7), ((0xC1, 0), 8)]] } }
    let s := queued 0 1 [] [c]
    s.headCommand 0 0 = some c ∧ s.lineHeld none false 3 = false ∧ s.mem.l2 = [] ∧ [(0xC0, 0), (0xC1, 0)].Nodup ∧
      c.progress.todo ≠ [] ∧ 1 ≤ c.progress.unit := by decide +kernel
theorem witness_engineMoves_fails :
    let c : Command := { copying with entry := [0x5000, 0, 0xC0, 0, 4] }
    let s := queued 0 1 [] [c]
    (match copyUnit (enginePort (s.engineOf 0 0) 0) c.entry 0 ⟨c.progress, s, []⟩ with
      | .ok _ => false
      | .error (code, t) => code != 0 && decide (t.hub = s.hub)) = true := by decide +kernel
theorem witness_engineMoves_bank : let e : List Word := [0x80, 0, 0x8000, 0, 0, 0, 0, 0, 0, 0x70000000, 0x8000]
    let c : Command := { command1 1 1 with entry := e, run := some { geom := some ((bank0 0 []).w0, (bank0 0 []).w1) } }
    let s : State := { queued 0 1 [] [c] with blk := (tiled 0 [] 0).blk }
    (match s.bankOf c with
      | some r => !s.bankHeld c r c.progress.unit
      | none => false) = true ∧ s.headCommand 0 0 = some c := by decide +kernel

/-- A contribution of the one rank of a collective that moves four bytes. -/
def contributing : Command := { command1 3 1 with entry := [0x80, 0, 0xC0, 0, 4, 9, 0x10000, 0] }

theorem witness_engineMoves_collective :
    let c := contributing
    let s := queued 0 1 [] [c]
    (s.hub.commands.find? fun e => e.die == 0 && e.qn == 0 && e.kind == 3 && cIdent e == 9) = some c ∧ c.run = none ∧
      s.collMembers c = some [c] ∧ s.canBegin [c] = true ∧ collSized [c] = true ∧ isOk (s.collSources [c]) = true ∧
      collSized [{ c with entry := [0x80, 0, 0xC0, 0, 3, 9, 0x10000, 0] }] = false ∧ s.completionHeld c [] = false ∧
      (queued 0 1 [] []).collMembers { c with entry := [0x80, 0, 0xC0, 0, 4, 9, 0x20000, 0] } = none := by decide +kernel
theorem witness_engineMoves_collectiveUnit :
    let c : Command := { contributing with run := some { data := [1, 2, 3, 4], src := 0x80, dst := 0xC0 } }
    let s := queued 0 1 [] [c]
    unitGoes s (collUnit (enginePort (s.engineOf 0 0) 0) 0 ⟨c.progress, s, []⟩) = true ∧ c.progress.data.length / 4 = 1 := by decide +kernel
theorem witness_engineMoves_port : let io : Port := ⟨.core 0, 0, fun _ _ n => .ok (List.replicate n 7), fun s _ _ => .ok (s, [])⟩
    eXf [] = 0 ∧ isOk (io.read State.reset 0x80 4) = true ∧ (match io.write State.reset 0xC0 [7, 7, 7, 7] with
      | .ok (t, todo) => decide (t = State.reset) && todo.isEmpty
      | .error _ => false) = true := by decide +kernel

theorem witness_futures : (∀ i ∈ [.cqSeq 8 4 0 0 0, .cqSeq 8 4 0 0 1, .futMov 8 4 0 0, .futTest 8 4 0 0, .futWait 8 4 0 0, .futCncl 8 4 0 0],
      Runs i (queued 0 2 [(128, 2)] [command1 0 1, command1 0 2])) ∧
    isOk ((queued 0 2 [] []).queueOf 0) = true ∧ fullSeq 2 2 = 2 ∧
    (queued 0 2 [] []).cqDone 0 0 + 1 < 2 ∧ 2 ≤ (queued 2 2 [] []).cqDone 0 0 ∧ (queued 0 2 [] []).cqIssued 0 0 = 2 ∧
    Delivers (queued 0 0 [(128, 0x10000)] []) ∧ Runs (.cqSeq 8 4 0 0 0) (queued 0 0 [(128, 0x10000)] []) :=
  ⟨runAll_of (by decide +kernel), by decide +kernel, by decide +kernel, by decide +kernel, by decide +kernel, by decide +kernel,
    delivers_of (by decide +kernel), runs_of (by decide +kernel)⟩
theorem witness_futures_borne : let s := { queued 1 1 [(128, 1)] [] with grp := { (queued 1 1 [(128, 1)] []).grp with futures := [(4, ⟨0, 0, 0, 1⟩)] } }
    Runs (.futWait 8 4 0 0) s ∧ s.grp.futureOf 4 = some ⟨0, 0, 0, 1⟩ ∧ 1 ≤ s.cqDone 0 0 ∧ fullSeq 1 1 = 1 := by
  refine ⟨runs_of (by decide +kernel), ?_⟩
  decide +kernel

/-- A state whose function owns K-die 0 and has a quota, with a record of type `rt` for K-die 0 at 0x100. -/
def recorded (rt : Byte) : State :=
  let s := one [(64, 0x100)]
  { s with
    iso := { s.iso with vf := [(0, 0x100000000), (1, 0x0000000400000001), (2, 100)] }
    mem := { s.mem with
      bytes := [(0x100, rt), (0x130, 1)]
      tlb := ⟨999, 0, 0, 0, 0xF, 0⟩ :: s.mem.tlb } }

/-- The record's words. -/
def record1 (rt : DWord) : List DWord := [rt, 0, 0, 0, 0, 0, 1] ++ List.replicate 25 0

theorem witness_taskSubmission : Runs (.task 8 2 0 0) (recorded 2) ∧ (recorded 2).addr 2 0 (recorded 2).ctl % 64 = 0 ∧
    (match (recorded 2).readLane 0 0x100 256 .load true with
      | .ok bs _ ps => recordWords bs == record1 2 && !(recorded 2).mustWait true ps
      | _ => false) = true ∧ (recorded 2).quiet = true ∧ (recorded 2).rejectCode 0 0 (record1 2) true = 0 ∧
    (recorded 2).rejectCode 0 0 (record1 1) true = 1 ∧ (recorded 2).tunCount < 4096 ∧ Unwatched (recorded 2) :=
  ⟨runs_of (by decide +kernel), by decide +kernel, by decide +kernel, by decide +kernel, by decide +kernel, by decide +kernel,
    by decide +kernel, unwatched_of (by decide +kernel)⟩
theorem witness_taskSubmission_misaligned : Runs (.task 8 2 0 0) (one [(64, 0x120)]) ∧ Delivers (one [(64, 0x120)]) ∧
    (one [(64, 0x120)]).addr 2 0 0 % 64 ≠ 0 := by
  refine ⟨runs_of (by decide +kernel), delivers_of (by decide +kernel), ?_⟩
  decide +kernel
theorem witness_taskSubmission_alias : let s := one [(64, 0xFFE00000), (96, 0x01FFFFFF)]
    Runs (.task 8 2 0 0) s ∧ Delivers s ∧ s.addr 2 0 0 % 64 = 0 ∧ aliasBase ≤ s.addr 2 0 0 := by
  refine ⟨runs_of (by decide +kernel), delivers_of (by decide +kernel), ?_⟩
  decide +kernel
theorem witness_taskSubmission_full :
    let t : Task := ⟨0, 0, 0, 0, 0, [], 0, [], [], false, none⟩
    4096 ≤ ({ recorded 2 with hub := { (recorded 2).hub with tasks := List.replicate 4096 t } } : State).tunCount := by
  decide +kernel

theorem witness_barriers : (∀ i ∈ [.barArr 15, .bar 0, .barWt 3, .spanbar], Runs i (one [])) ∧ (one []).grp.isSplit = false ∧
    (one []).quiet = true ∧ (one []).arrivedNow 16 = false ∧ (one []).atBarrier 3 = false ∧
    (∀ i ∈ [.barArr 15, .bar 0, .barWt 3, .spanbar], Runs i (twoSplits .live)) ∧ Delivers (twoSplits .live) ∧
    Runs (.barWt 3) { one [] with grp := { (one []).grp with arrived := [(3, 1)] } } ∧
    ({ one [] with grp := { (one []).grp with arrived := [(3, 1)] } } : State).arrivedNow 3 = true :=
  ⟨runAll_of (by decide +kernel), by decide +kernel, by decide +kernel, by decide +kernel, by decide +kernel,
    runAll_of (by decide +kernel), delivers_of (by decide +kernel), runs_of (by decide +kernel), by decide +kernel⟩
theorem witness_barriers_waited : let s := (one []).setSpl { (one []).spl with wait := some (.barrier 3, 0) }
    Runs (.bar 3) s ∧ s.atBarrier 3 = true ∧ s.arrivedNow 3 = false := by
  refine ⟨runs_of (by decide +kernel), ?_⟩
  decide +kernel

theorem witness_barrierObjects : (∀ i ∈ [.boInit 8 4 0 0 15, .boArr 8 0 0, .boWt 8 4 0 0 3, .ldsp 8 2 0 0 0 0, .ldsp 8 2 0 0 0 1],
      Runs i pointed) ∧ objFL (pointed.blk.object 15) = objFI (pointed.blk.object 15) ∧ reached16 0 0 = true ∧ reached24 0 0 = true ∧
    reached24 0 1 = false ∧ pointed.sampled 3 = none ∧ Delivers pointed ∧ Runs (.boInit 8 4 0 0 15) (one [(128, 0x10000)]) ∧
    bits (0x10000 : Word) 31 16 ≠ 0 ∧ pointed.active ≠ [] ∧ finds pointed 0 0x80 16 .load = true ∧
    pointed.readsWait false [(0, [], false, [(0x80, 0)])] = false ∧ (match pointed.writeSpad 0 0 [] (pointed.reg 8 0).toNat 16 with
      | .ok _ => true
      | .bad _ _ => false) = true :=
  ⟨runAll_of (by decide +kernel), by decide +kernel, by decide +kernel, by decide +kernel, by decide +kernel, by decide +kernel,
    delivers_of (by decide +kernel), runs_of (by decide +kernel), by decide +kernel⟩
theorem witness_barrierObjects_landing : let f : Fill := ⟨0, [[(0x40, 1), (0x41, 2)]]⟩
    let s : State := { one [] with blk := { (one []).blk with fills := [f] } }
    Settled s ∧ s.blk.fills[0]? = some f ∧ f.left = [(0x40, 1), (0x41, 2)] :: [] ∧ s.lineHeld none true 1 = false :=
  ⟨⟨List.cons_ne_nil _ _, fun _ h => absurd h List.not_mem_nil, fun _ h => absurd h List.not_mem_nil⟩, rfl, rfl, by decide +kernel⟩
theorem witness_barrierObjects_sampled : let s := (one []).setSpl { (one []).spl with wait := some (.fills 3 0, 0) }
    Runs (.boWt 8 4 0 0 3) s ∧ s.sampled 3 = some 0 := ⟨runs_of (by decide +kernel), by decide +kernel⟩

theorem witness_tryRegions : (∀ i ∈ [.tryOpen 20 6, .trylOpen 20 6, .tstat 5, .abort 255], Runs i pointed) ∧ pointed.grp.region = none ∧
    pointed.grp.isSplit = false ∧ (List.range 4).find? (fun k => !(pointed.slotsUsed pointed.blk.core).contains k) = some 0 ∧
    Delivers pointed ∧ Runs (.tryOpen 20 6) (twoSplits .live) ∧ (∀ i ∈ [.abort 255, .tryOpen 20 6, .trylOpen 20 6], Runs i (inside region0)) ∧ (inside region0).cur = 0 ∧ region0.lane < 32 ∧
    (inside region0).grp.region = some region0 ∧ (inside region0).blk.record ≠ [] :=
  ⟨runAll_of (by decide +kernel), by decide +kernel, by decide +kernel, by decide +kernel, delivers_of (by decide +kernel),
    runs_of (by decide +kernel), runAll_of (by decide +kernel), by decide +kernel⟩
theorem witness_tryRegions_doomed : (inside { region0 with doomed := some 2 }).grp.region = some { region0 with doomed := some 2 } ∧
    ({ region0 with doomed := some 2 } : Region).doomed = some 2 := by decide +kernel

theorem witness_committing : Runs (.commit 21) (inside region0) ∧ Runs (.tabl 8 0) (inside region0) ∧
    Runs (.tabl 9 0) (inside region0) ∧ Runs (.commit 21) pointed ∧ Runs (.tabl 9 0) pointed ∧ Delivers pointed ∧
    (inside region0).quiet = true ∧ OnePolicy region0.buffer ∧ (inside region0).grp.lr = [] ∧
    (∀ k, ((inside region0).grp.splitAt k).spec = none) ∧ (inside region0).mem.l1 = [] ∧ (inside region0).links.copies = [] ∧
    ((inside region0).active.filter fun k => (inside region0).operand 8 0 k ≠ 0) = [0] ∧
    ((inside region0).active.filter fun k => (inside region0).operand 9 0 k ≠ 0) = [] :=
  ⟨runs_of (by decide +kernel), runs_of (by decide +kernel), runs_of (by decide +kernel), runs_of (by decide +kernel),
    runs_of (by decide +kernel), delivers_of (by decide +kernel), by decide +kernel, fun _ h => absurd h List.not_mem_nil,
    by decide +kernel, fun k => noSpec _ (by decide +kernel) k, by decide +kernel⟩
theorem witness_committing_lane : let s : State := { small 0 3 [(257, 1)] with grp := { (small 0 3 [(257, 1)]).grp with region := some region0 } }
    Runs (.tabl 8 0) s ∧ (s.active.filter fun k => s.operand 8 0 k ≠ 0) = [1] ∧ s.ctl = 0 := by
  refine ⟨runs_of (by decide +kernel), ?_⟩
  decide +kernel

/-- The small state with requests. -/
def sending (rs : List Request) : State := { one [] with mem := { (one []).mem with requests := rs } }

theorem witness_groupMoves : Runs (.phint 16) (one []) ∧ (one []).mgmt.preempt = [] ∧
    (match (one []).readLane 0 64 48 .load false with
      | .ok bs sp ps => (livenessRecord (one []).blk.spadSize bs).isSome && !(one []).readsWait false [(0, bs, sp, ps)]
      | _ => false) = true ∧
    (∀ r ∈ [request1 0 false, request1 1 false, sum1 0], (sending [r]).mem.requests[0]? = some r) ∧
    (one []).fresh 0 0 0 = true ∧ (one []).fresh 0 1 0 = false ∧ (one []).carried 0 0x80 = true ∧ (one []).asleep 0 0 0x80 = none ∧
    (request1 0 false).red = none ∧ (request1 0 false).spad = false ∧ (sum1 0).red.isSome = true ∧
    (sending [request1 0 false]).lineHeld (some (0, 0, 0)) false 2 = false ∧ (request1 1 false).gen ≠ (one []).gen 0 ∧
    ((request1 0 false).data.map (·.1)).Nodup ∧ (one []).mem.l2 = [] ∧ (one []).mem.reductions = [] ∧
    (sending [request1 0 true]).mem.requests[0]? = some (request1 0 true) ∧ (one []).blk.record ≠ [] ∧
    (match (sending [request1 0 true]).recheck (request1 0 true) with
      | .mem _ => true
      | _ => false) = true := by
  refine ⟨runs_of (by decide +kernel), ?_⟩
  decide +kernel
theorem witness_groupMoves_asleep : let s : State := { sending [request1 0 false] with links := { (one []).links with state := [(32, 3)] } }
    s.asleep 0 0 0x80 = some 32 ∧ s.fresh 0 0 0 = true ∧ s.carried 0 0x80 = true ∧
      ({ s with links := { s.links with state := [(32, 4)] } } : State).asleep 0 0 0x80 = some 32 := by decide +kernel
theorem witness_groupMoves_replayFault : let r := { request1 0 true with va := 0x5000 }
    let s := sending [r]
    (match s.recheck r with
      | .fault c _ _ _ _ => c == tPAGE
      | _ => false) = true ∧ s.mem.requests = [r] ∧ r.origin.handler = false ∧ r.core = s.blk.core ∧ r.slot = s.grp.slot ∧
      ({ r with origin := { r.origin with handler := true } } : Request).origin.handler = true := by decide +kernel
theorem witness_groupMoves_yield : let s := (one []).setSpl { (one []).spl with wait := some (.clk, 0) }
    s.blk.record ≠ [] ∧ s.spl.wait = some (.clk, 0) := by decide +kernel
theorem witness_groupMoves_pending : let f : Pending := ⟨{ code := 4 }, 8, 0, false⟩
    let s := (one []).setSpl { (one []).spl with pending := [f] }
    Settled s ∧ s.cur < 4 ∧ (∀ k < 4, s.splitBusy k = false) ∧ s.spl.pending = f :: [] ∧
      (∀ k < s.cur, (s.grp.splitAt k).pending = []) ∧ s.grp.handler = none ∧ s.grp.trapping = none ∧ s.grp.region = none ∧
      s.tvec s.blk.asid ≠ 0 ∧ f.info.code < 256 := by
  refine ⟨⟨List.cons_ne_nil _ _, fun _ h => absurd h List.not_mem_nil, fun _ h => absurd h List.not_mem_nil⟩, ?_⟩
  decide +kernel
theorem witness_groupMoves_deadline : let s : State := { one [] with mgmt := { (one []).mgmt with preempt := [(0, 0x0E)] } }
    Settled s ∧ s.mgmt.preempt.find? (·.1 == 0) = some (0, 0x0E) ∧ s.drained 0 = true ∧ s.bankCopies 0 = false ∧
      s.mgmt.removing = [] ∧ s.unsaved 0 = [(s.blk.core, s.grp.slot)] ∧ ∀ bg ∈ s.allGroups, bg.2.lr = [] ∧ bg.2.region = none := by
  refine ⟨⟨List.cons_ne_nil _ _, fun _ h => absurd h List.not_mem_nil, fun _ h => absurd h List.not_mem_nil⟩, ?_⟩
  decide +kernel
theorem witness_groupMoves_waited :
    let s := (one []).setSpl { (one []).spl with waitCount := 5 }
    let t : State := { s with grp := { s.grp with waitCount := 1024 } }
    1024 ≤ t.grp.waitCount ∧ (one []).grp.waitCount < 1024 ∧ (∀ k < 4, (t.grp.splitAt k).urged = false) ∧ t.blk.record ≠ [] ∧
      ∃ k < 4, (t.grp.splitAt k).st = .live ∧ (t.grp.splitAt k).waitCount ≠ 0 := by decide +kernel

/-- The recorded state with the record in work queue 0, `n` records waiting. -/
def waiting1 (rt : Byte) (n : DWord) : State :=
  { recorded rt with hub := { (recorded rt).hub with wq := [(0, 0x100), (1, 1), (3, n)] } }

/-- A grid of the record, with steal ranges. -/
def grid1 (r : List DWord) (ranges : List (Nat × Nat × Nat)) : Grid :=
  { id := 5, queue := 0, asid := 0, vf := 0, record := r, recordAddr := 0x100, ranges := ranges }

/-- The recorded state with a grid. -/
def gridded (g : Grid) : State := { recorded 1 with hub := { (recorded 1).hub with grids := [g] } }

theorem witness_launching : (recorded 1).nextQueue = none ∧ (waiting1 1 1).nextQueue = some 0 ∧ (waiting1 1 1).wqWaiting 0 = 1 ∧
    (waiting1 1 2).nextQueue = some 0 ∧ 2 ^ 0 < (waiting1 1 2).wqWaiting 0 ∧
    ((waiting1 1 1).hubRead 0 0x100 256).map recordWords = some (record1 1) ∧ (waiting1 1 1).rejectCode 0 0 (record1 1) false = 0 ∧
    (waiting1 2 1).rejectCode 0 0 (record1 2) false = 0 ∧ (waiting1 3 1).rejectCode 0 0 (record1 3) false = 1 ∧
    (waiting1 1 1).tickets < 4096 ∧ (waiting1 1 1).tunCount < 4096 ∧ lRT (record1 1) = 1 ∧ lRT (record1 2) ≠ 1 := by decide +kernel
theorem witness_launching_unreadable :
    ({ waiting1 1 1 with mem := { (waiting1 1 1).mem with tlb := [] } } : State).hubRead 0 0x100 256 = none := by decide +kernel
theorem witness_launching_claim : let g := grid1 (record1 1) []
    let s := gridded g
    s.hub.grids.find? (·.id == 5) = some g ∧ lCK g.record = false ∧ 0 ∈ lDies g.record ∧ s.claimable g = true ∧
      s.offered g 0 = true ∧ (s.chooseCores g.record 0).isSome = true ∧ lSTEAL g.record = false ∧ g.ticket < lNB g.record ∧
      g.ticket + lSPB g.record < g.reported + 256 ∧ lNB g.record ≤ 1 := by decide +kernel
theorem witness_launching_steal : let g := grid1 ([1, 0, 0, 9, 0, 0, 0x20000000003] ++ List.replicate 25 0) [(0, 2, 8), (1, 5, 5)]
    let s := gridded g
    s.hub.grids.find? (·.id == 5) = some g ∧ lSTEAL g.record = true ∧
      g.ranges.find? (fun x => x.1 == 0 && x.2.1 < x.2.2) = some (0, 2, 8) ∧ victimOf g.ranges = some (0, 2, 8) ∧
      g.ranges.find? (·.1 == 1) = some (1, 5, 5) := by decide +kernel
theorem witness_launching_fill : let s : State := { one [] with blk := { (one []).blk with started := false } }
    Settled s ∧ s.blk.started = false ∧ s.stoppedContext s.blk.asid = false ∧ ∀ k < 8, bindV s.blk.record k = false := by
  refine ⟨⟨List.cons_ne_nil _ _, fun _ h => absurd h List.not_mem_nil, fun _ h => absurd h List.not_mem_nil⟩, ?_⟩
  decide +kernel
theorem witness_launching_end : let g := grid1 (record1 1) []
    let s : State := { gridded g with grp := { (gridded g).grp with ended := true }, blk := { (gridded g).blk with grid := 5 } }
    Settled s ∧ s.blockDone s.wholeBlk = true ∧ s.mgmt.removing = [] ∧ s.hub.grids.find? (·.id == s.blk.grid) = some g ∧
      g.ended = [] ∧ g.reported = s.blk.idx ∧ lNB g.record ≤ s.blk.idx + 1 := by
  refine ⟨⟨List.cons_ne_nil _ _, fun _ h => absurd h List.not_mem_nil, fun _ h => absurd h List.not_mem_nil⟩, ?_⟩
  decide +kernel

/-- A task of the record. -/
def task1 : Task := ⟨5, 0, 3, 0, 0, record1 2, 0x100, [(true, false, 0x400, 8)], [], false, none⟩

theorem witness_launching_tasks : let s : State := { recorded 2 with hub := { (recorded 2).hub with arriving := [task1] } }
    let t : State := { recorded 2 with hub := { (recorded 2).hub with tasks := [task1] } }
    s.hub.arriving = task1 :: [] ∧ task1 ∈ t.hub.tasks ∧ t.taskReady task1 = true ∧ t.tickets < 4096 := by decide +kernel
theorem witness_launching_watchdog : let g := grid1 (record1 1) []
    let s : State := { gridded g with blk := { (gridded g).blk with grid := 5 } }
    s.hub.grids.find? (·.id == 5) = some g ∧ (∃ b ∈ s.allBlocks, b.grid = 5) ∧ s.mgmt.saved = [] ∧ s.mgmt.removing = [] := by
  decide +kernel

theorem witness_recoveryMoves : (one []).mgmt.removing = [] ∧ (leaving 0).mgmt.removing.find? (·.1 == 0) = some (0, 0x11, 0) ∧
    (leaving 0).stageDrained 0 0 = true ∧ (leaving 7).stageDrained 0 7 = true ∧ (leaving 8).stageDrained 0 8 = true ∧
    ({ leaving 3 with hub := { (leaving 3).hub with commands := [command1 0 1] } } : State).stageDrained 0 3 = false ∧
    (leaving 8).recordHeld 0 = false ∧ (one []).spaceValid 0 = true ∧
    (([(0, 5, 5)] : List (Nat × Nat × Nat)).map (·.1)).Nodup := by decide +kernel
theorem witness_recoveryMoves_stalled :
    let s : State := { leaving 3 with
      hub := { (leaving 3).hub with commands := [command1 0 1] }
      mgmt := { (leaving 3).mgmt with stageCounts := [(0, 0, 1)] } }
    s.stageDrained 0 3 = false ∧ s.stalledDies 0 3 = [0] ∧ s.stageCount 0 3 0 = 1 ∧
      (∃ b ∈ s.allBlocks, dieOf b.core ∈ s.stalledDies 0 3) ∧
      ({ s with mgmt := { s.mgmt with stageCounts := [(0, 0, 2)] } } : State).stalledDies 0 3 = [] := by decide +kernel
theorem witness_recoveryMoves_boot : ({ one [] with mgmt := { (one []).mgmt with bootst := 1 } } : State).bootPH = 1 ∧
    ({ one [] with iso := { (one []).iso with recal := true } } : State).iso.recal = true := by decide +kernel
theorem witness_recoveryMoves_bank : let s : State := { one [] with blk := { (one []).blk with resvs := [bank0 1 []] } }
    (∃ b ∈ s.allBlocks, ∃ r ∈ b.resvs, r.mode ≠ 0 ∧ b.core = 0 ∧ 0 ∈ (b.banks.drop r.first).take r.count) ∧
    (∀ b ∈ (one []).allBlocks, b.resvs = []) ∧
    ∃ x, ((2, bankPlace 0 0, x) : Nat × Nat × Nat) ∈ ({ s with mem := { s.mem with upsets := [(2, 0, 7)] } } : State).mem.upsets := by
  refine ⟨by decide +kernel, by decide +kernel, 7, ?_⟩
  decide +kernel
theorem witness_recoveryMoves_power : (one []).mgmt.powerCap = 2600 ∧ (one []).dieMHz 3 = 1800 ∧ (one []).isHot 3 = false ∧
    ({ one [] with mgmt := { (one []).mgmt with hot := [(3, 1)] } } : State).isHot 3 = true ∧
    (∀ d < 32, ({ one [] with mgmt := { (one []).mgmt with dvfs := (List.range 40).map fun d => (d, 900 * 2 ^ 32) } } : State).dieMHz d ≤ 1800) ∧
    ringFull (sget 0 (one []).mgmt.ewi 1024) (sget 0 (one []).mgmt.eri 1024) = false := by decide +kernel

/-- The small state with the link states of K-dies 0 to 3: down, training, up and asleep; die 5 wakes. -/
def linked : State :=
  { one [] with links := { (one []).links with state := [(1, 1), (2, 2), (3, 3), (5, 4), (40, 2)], deadTimer := [1], fails := [(0, 8)] } }

theorem witness_linksAndHost : linked.linkST 2 = 2 ∧ linked.linkST 3 = 3 ∧ linked.linkST 5 = 4 ∧ linked.linkST 1 = 1 ∧
    linked.linkST 0 < 2 ∧ linked.links.snoops = [] ∧ 1 ∈ linked.links.deadTimer ∧ linked.linkST 1 ≠ 2 ∧ linked.portUp 0 = true ∧
    linked.linkBusy 2 = false ∧ (0, 8) ∈ linked.links.fails ∧ 8 ≤ sget 0 linked.links.fails 0 ∧ linked.linkST 40 ≠ 0 ∧
    linked.linkST 41 = 0 ∧ sget 0 linked.links.retrains 0 < 2 ∧
    ringFull (sget 0 linked.mgmt.ewi 1024) (sget 0 linked.mgmt.eri 1024) = false := by decide +kernel

/-- A flit of 244 zero bytes under a header, with its CRC-32. -/
def flitOf (hdr : Nat) : List Byte :=
  let body := bytesOfNat 8 hdr ++ List.replicate 244 0
  body ++ bytesOfNat 4 (crc32 body).toNat

-- R372: the check value of CRC-32, that of the nine digits, as IEEE 802.3 and its users give it.
theorem test_crc32 : crc32 [0x31, 0x32, 0x33, 0x34, 0x35, 0x36, 0x37, 0x38, 0x39] = 0xCBF43926 := by decide +kernel
theorem length_bytesOfNat (n v : Nat) : (bytesOfNat n v).length = n := by simp [bytesOfNat]

theorem natOfBytes_four (n : Nat) : natOfBytes (bytesOfNat 4 n) = n % 2 ^ 32 := by
  simp only [natOfBytes, bytesOfNat, List.range, List.range.loop, List.map_cons, List.map_nil, List.foldr_cons, List.foldr_nil,
    BitVec.toNat_ofNat]
  omega

theorem flitGood_flitOf (hdr : Nat) : flitGood (flitOf hdr) = true := by
  have h : (bytesOfNat 8 hdr ++ List.replicate 244 0).length = 252 := by
    rw [List.length_append, length_bytesOfNat, List.length_replicate]
  have h4 := length_bytesOfNat 4
  unfold flitGood flitOf
  rw [List.length_append, h, h4, List.drop_left' h, List.take_left' h, List.take_of_length_le (by rw [h4]), natOfBytes_four,
    Nat.mod_eq_of_lt (BitVec.isLt _), beq_self_eq_true, beq_self_eq_true, Bool.and_true]

theorem flitHeader_flitOf (hdr : Nat) : flitHeader (flitOf hdr) = BitVec.ofNat 64 (natOfBytes (bytesOfNat 8 hdr)) := by
  unfold flitHeader flitOf
  rw [List.append_assoc, List.take_left' (length_bytesOfNat 8 hdr)]

theorem flitOf_eq (hdr : Nat) : ∃ rest, flitOf hdr = bytesOfNat 8 hdr ++ rest := ⟨_, List.append_assoc _ _ _⟩

theorem witness_linksAndHost_flits : (sget 0 linked.links.rxSeq 0 + 1) % 4096 = 1 ∧ flitGood (bytesOfNat 8 0 ++ []) = false ∧
    flitGood (flitOf (2 ^ 52)) = true ∧ flitSEQ (flitHeader (flitOf (2 ^ 52))) = 1 ∧ flitKIND (flitHeader (flitOf (2 ^ 52))) = 0 ∧
    flitGood (flitOf (2 ^ 52 + 2 ^ 38)) = true ∧ flitSEQ (flitHeader (flitOf (2 ^ 52 + 2 ^ 38))) = 1 ∧
    flitKIND (flitHeader (flitOf (2 ^ 52 + 2 ^ 38))) = 1 ∧
    flitGood (flitOf 0) = true ∧ flitSEQ (flitHeader (flitOf 0)) = 0 := by
  simp only [flitGood_flitOf, flitHeader_flitOf]
  decide +kernel
theorem witness_linksAndHost_memory : (one []).hdmTarget 0 0x80 = none ∧
    (let s : State := { one [] with mgmt := { (one []).mgmt with hdm := [(1, 0x100000000)] } }
     s.hdmTarget 0 0x80 = some 0x80 ∧ s.hostMay 0 0x80 = false) ∧
    let s : State := { recorded 1 with mgmt := { (recorded 1).mgmt with hdm := [(1, 0x100000000)] } }
    s.hdmTarget 0 0x80 = some 0x80 ∧ s.hostMay 0 0x80 = true ∧ s.lineHeld none false 2 = false := by decide +kernel
theorem witness_linksAndHost_peer : let s : State := { one [] with
      links := { (one []).links with exports := [(0, BitVec.ofNat 64 (7 * 2 ^ 57 + 2 ^ 54)), (2, 0x1000)] }
      mem := { (one []).mem with tlb := ⟨999, 0, 0, 0, 0xF, 0⟩ :: (one []).mem.tlb } }
    hMod 0 = s.ownModule ∧ exST (s.exportWord 0 0) = 1 ∧ sget 0 s.links.serial 0 = hSer 0 ∧ bits (s.exportWord 0 0) 47 32 = hChk 0 ∧
      bits (s.exportWord 0 0) 47 32 ≠ hChk 0x1000000000000 ∧ hMod 0x1000000000000 = s.ownModule ∧ hMod 0x800000000 ≠ s.ownModule ∧
      0x80 + 8 ≤ bits (s.exportWord 0 2) 40 0 ∧ (bits (s.exportWord 0 0) 59 57).testBit 2 = true ∧
      s.exportPlace 0 0x80 .rmw 0 = .at_ 0x80 4 ∧ (match s.exportPlace 0 0x5000 .rmw 0 with
        | .gone _ _ _ => true
        | .at_ _ _ => false) = true ∧ s.lineHeld none false 2 = false := by decide +kernel
theorem witness_linksAndHost_doorbell : (0 : Nat) ≤ bits ((one []).vfWord 0 1) 19 8 ∧ bits ((one []).vfWord 0 1) 19 8 < 1 ∧
    (one []).cmdBusy 1024 = false := by decide +kernel

/-- The recorded state with a command of the physical function under way in phase READY. -/
def commanding (code : DWord) (args : List DWord) : State :=
  let s := recorded 1
  { s with mgmt := { s.mgmt with bootst := 2, status := [(1024, 0x8000000000000000)], running := [⟨1024, code :: args, false⟩] } }

/-- Is a command of a code under way for the physical function, with clean arguments? -/
def isUnderWay (s : State) (code : Nat) (masks : List Nat) : Bool :=
  s.cmdRuns 1024 && bits (s.cmdWord 1024 0) 7 0 == code && s.bootPH == 2 && bits (s.cmdWord 1024 0) 63 26 == 0 &&
    bits (s.cmdWord 1024 0) 15 8 == 0 && s.argsClean 1024 masks && !s.noTarget 1024

theorem underWay_of {s : State} {code : Nat} {forVf : Bool} {masks : List Nat} (h : isUnderWay s code masks = true) :
    UnderWay s physicalFn code forVf masks := by
  simp only [isUnderWay, Bool.and_eq_true, beq_iff_eq, Bool.not_eq_true'] at h
  exact ⟨h.1.1.1.1.1.1, h.1.1.1.1.1.2, h.1.1.1.1.2, .inl rfl, ⟨h.1.1.1.2, h.1.1.2, h.1.2⟩, fun _ => h.2⟩

theorem witness_commands : ∀ x ∈ ([(0x01, []), (0x02, [63]), (0x03, [anyArg, anyArg, anyArg, 1]), (0x04, []), (0x05, [63, anyArg]),
      (0x06, [1023, 255]), (0x07, [1023, anyArg, anyArg]), (0x08, [63, anyArg, anyArg]), (0x09, [anyArg]), (0x0A, [0xF013F]),
      (0x0B, [0xF013F]), (0x0C, [63]), (0x10, [0x7FFFF, anyArg, anyArg, anyArg]), (0x11, [anyArg, 0x7FF1F]), (0x12, [0, 0xFF1F]),
      (0x13, [anyArg]), (0x14, [0xFFFFFFFF00000FFF]), (0x15, [0xFFF]), (0x16, []), (0x18, [0xFFFF]), (0x19, [0xFFFF]), (0x1A, [0xFFFF]),
      (0x1B, [anyArg, anyArg, 1])] : List (Nat × List Nat)),
    ∀ forVf, UnderWay (commanding (BitVec.ofNat 64 x.1) []) physicalFn x.1 forVf x.2 := by
  intro x hx forVf
  have h : ([(0x01, []), (0x02, [63]), (0x03, [anyArg, anyArg, anyArg, 1]), (0x04, []), (0x05, [63, anyArg]),
      (0x06, [1023, 255]), (0x07, [1023, anyArg, anyArg]), (0x08, [63, anyArg, anyArg]), (0x09, [anyArg]), (0x0A, [0xF013F]),
      (0x0B, [0xF013F]), (0x0C, [63]), (0x10, [0x7FFFF, anyArg, anyArg, anyArg]), (0x11, [anyArg, 0x7FF1F]), (0x12, [0, 0xFF1F]),
      (0x13, [anyArg]), (0x14, [0xFFFFFFFF00000FFF]), (0x15, [0xFFF]), (0x16, []), (0x18, [0xFFFF]), (0x19, [0xFFFF]), (0x1A, [0xFFFF]),
      (0x1B, [anyArg, anyArg, 1])] : List (Nat × List Nat)).all
        (fun y => isUnderWay (commanding (BitVec.ofNat 64 y.1) []) y.1 y.2) = true := by decide +kernel
  exact underWay_of (List.all_eq_true.mp h x hx)
theorem witness_commands_refused : (commanding 0x1C []).cmdRuns 1024 = true ∧ knownCmd 0x1C = false ∧
    (commanding 0x02 [64]).argsClean 1024 [63] = false ∧ (one []).cmdRuns 1024 = false ∧
    ({ commanding 0x05 [] with mgmt := { (commanding 0x05 []).mgmt with bootst := 1 } } : State).bootPH ≠ 2 := by decide +kernel
theorem witness_commands_dies : (commanding 0x02 [39]).arg 1024 1 < 40 ∧ 40 ≤ (commanding 0x02 [40]).arg 1024 1 ∧
    isUnderWay (commanding 0x02 [40]) 0x02 [63] = true ∧
    (let s := commanding 0x0A [0x10105]
     isUnderWay s 0x0A [0xF013F] = true ∧ bits (s.cmdWord 1024 1) 5 0 = 5 ∧ (s.cmdWord 1024 1).getLsbD 8 = true ∧
       (coresOf 5)[1]?.isSome = true ∧ ∀ b ∈ s.allBlocks, dieOf b.core ≠ 5) := by decide +kernel
theorem witness_commands_firmware : let s := commanding 0x03 [0, 0x1000, 0x1000, 0]
    isUnderWay s 0x03 [anyArg, anyArg, anyArg, 1] = true ∧ s.arg 1024 2 % 4096 = 0 ∧ s.arg 1024 3 = 4096 ∧ s.arg 1024 4 = 0 ∧
      s.mgmt.idleVerified = false := by decide +kernel
theorem witness_commands_partset : let s := commanding 0x05 [0, 0]
    let t := commanding 0x05 [1, 0]
    let r := wordsAt (s.hostBytes 0 48) 6
    partitionClean r = true ∧ pEN r = false ∧ s.usesMoved (s.partRecord 0) r 0 = true ∧ s.usersOf 0 = [0] ∧
      (∃ b ∈ s.allBlocks, b.asid ∈ s.usersOf 0 ∧ losesCore (s.partRecord 0) r b.core = true) ∧
      t.usesMoved (t.partRecord 1) r 0 = false ∧ t.usersOf 1 = [] ∧ t.arg 1024 1 = 1 := by decide +kernel
theorem witness_commands_granset : let s := commanding 0x06 [1, 0x80]
    isUnderWay s 0x06 [1023, 255] = true ∧ (BitVec.ofNat 8 (s.arg 1024 2)).getLsbD 6 = false ∧ 32 ∉ s.mgmt.offline ∧
      (sget 0 s.iso.granule 1).getLsbD 7 = false := by decide +kernel
theorem witness_commands_vfset : let s := commanding 0x07 [3, 0, 0]
    s.vfOk 3 (wordsAt (s.hostBytes 0 32) 4) = true ∧ s.vfOk 3 [0x4000000] = false ∧
      ∀ k < 8, hostRangeOk (lw (wordsAt (s.hostBytes 0 128) 16) (2 * k)) (lw (wordsAt (s.hostBytes 0 128) 16) (2 * k + 1)) = true := by
  decide +kernel
theorem witness_commands_fallback : let s := commanding 0x08 [0, 0x1000, 0x2000]
    isUnderWay s 0x08 [63, anyArg, anyArg] = true ∧ s.arg 1024 2 % 4096 = 0 ∧ s.arg 1024 2 + s.arg 1024 3 ≤ 2 ^ 40 ∧ 0 < s.arg 1024 3 ∧
      ∀ a, s.arg 1024 2 ≤ a → a < s.arg 1024 2 + s.arg 1024 3 → (sget 0 s.iso.granule (a / 2 ^ 30)).getLsbD 7 = true ∧
        bits (sget 0 s.iso.granule (a / 2 ^ 30)) 5 0 = s.arg 1024 1 := by
  refine ⟨by decide +kernel, by decide +kernel, by decide +kernel, by decide +kernel, ?_⟩
  intro a _ h
  have h1 : (commanding 0x08 [0, 0x1000, 0x2000]).arg 1024 2 + (commanding 0x08 [0, 0x1000, 0x2000]).arg 1024 3 = 0x3000 := by
    decide +kernel
  rw [h1] at h
  have h2 : a / 2 ^ 30 = 0 := Nat.div_eq_of_lt (by omega)
  rw [h2]
  decide +kernel
theorem witness_commands_turnedAway : (commanding 0x1B [0, 64, 1]).hostWritable 0 0 64 = false ∧
    2 ^ 50 < (commanding 0x05 [0, 2 ^ 50]).arg 1024 2 + 48 ∧
    (commanding 0x11 [0x800000000, 0]).portsTo (hMod ((commanding 0x11 [0x800000000, 0]).cmdWord 1024 1)) = [] ∧
    (let s : State := { commanding 0x11 [0x800000000, 0] with links := { (one []).links with routes := [(1, 1)] } }
     hMod (s.cmdWord 1024 1) = 1 ∧ hMod (s.cmdWord 1024 1) ≠ s.ownModule ∧ s.portsTo 1 ≠ [] ∧ s.slotArg 1024 = some 0) ∧
    (let s : State := { commanding 0x12 [0, 0] with links := { (one []).links with peerHandle := [(0, 0x800000000)] }
                                                    mem := { (one []).mem with requests := [{ request1 0 false with pa := 2 ^ 58 + 2 ^ 54 }] } }
     s.slotArg 1024 = some 0 ∧ s.underWay (sget 0 s.links.peerHandle 0) (· == 0) = true) := by decide +kernel
theorem witness_commands_power : (commanding 0x09 [1200]).arg 1024 1 = 1200 ∧ (commanding 0x09 [2601]).arg 1024 1 = 2601 ∧
    isUnderWay (commanding 0x09 [1200]) 0x09 [anyArg] = true := by decide +kernel

/-- The map that lists a value under every fourth key holds it there. -/
theorem sget_fourths (w : DWord) (k : Nat) : ∀ l : List Nat, k ∈ l → sget 0 (l.map fun j => (4 * j, w)) (4 * k) = w := by
  intro l
  induction l with
  | nil => intro h; exact absurd h List.not_mem_nil
  | cons j r ih =>
    intro h
    simp only [List.map_cons, sget]
    split
    · rfl
    · rename_i hne
      rcases List.mem_cons.mp h with rfl | h
      · exact absurd rfl hne
      · exact ih h

theorem witness_commands_export : let s := commanding 0x10 [0, 0x1000, 0x2000, 0]
    isUnderWay s 0x10 [0x7FFFF, anyArg, anyArg, anyArg] = true ∧ s.vfHolds (s.targetVf 1024) 0 = true ∧
      s.vfHolds (s.targetVf 1024) 4 = false ∧ exST (s.exportWord 0 0) = 0 ∧ sget 0 s.links.serial 0 < 2 ^ 21 := by decide +kernel
/-- The small state with export entries. -/
def crowded (l : Sparse DWord) : State := { one [] with links := { (one []).links with exports := l } }

theorem exports_crowded (l : Sparse DWord) : (crowded l).links.exports = l := rfl

theorem witness_commands_exportsFull : ∀ k < 16384,
    exST ((crowded ((List.range 16384).map fun j => (4 * j, 0x40000000000000))).exportWord k 0) ≠ 0 := by
  intro k hk
  unfold State.exportWord
  rw [exports_crowded, Nat.add_zero, sget_fourths _ _ _ (List.mem_range.mpr hk)]
  decide

/-- The commanding state with a live export of address space 0, without ALLOW entries. -/
def exporting (code : DWord) (args : List DWord) (w3 : DWord) : State :=
  let s := commanding code args
  { s with links := { s.links with exports := [(0, 0x0E40000000000000), (2, 0x1000), (3, w3)] } }

theorem witness_commands_import : let s := exporting 0x11 [0, 0] 0
    s.slotArg 1024 = some 0 ∧ bits (sget 0 s.links.peerSlot 0) 63 62 = 0 ∧ hMod (s.cmdWord 1024 1) = s.ownModule ∧
      exST (s.exportWord 0 0) = 1 ∧ sget 0 s.links.serial 0 = hSer (s.cmdWord 1024 1) ∧
      bits (s.exportWord 0 0) 47 32 = hChk (s.cmdWord 1024 1) ∧
      (exporting 0x11 [0, 31] 0).slotArg 1024 = none ∧
      bits (s.exportWord 0 0) 47 32 ≠ hChk ((exporting 0x11 [0x1000000000000, 0] 0).cmdWord 1024 1) ∧
      s.allowed (s.exportWord 0 3) (s.partOf (s.targetVf 1024)) = true ∧ s.allowed 0x2000 0 = false ∧ s.mem.requests = [] ∧
      s.vfHolds (s.targetVf 1024) (exASID (s.exportWord 0 0)) = true ∧
      s.underWay (s.cmdWord 1024 1) (fun _ => true) = false ∧ s.underWay (sget 0 s.links.peerHandle 0) (· == 0) = false := by decide +kernel
theorem witness_commands_keys : let s := commanding 0x14 [0]
    let t : State := { s with iso := { s.iso with key := [], session := [(0, ⟨1, 0, []⟩)] } }
    s.ownsSlot 0 0 = true ∧ s.ownsSlot 0 1 = false ∧ bits (sget 0 s.iso.key 0) 63 62 ≠ 0 ∧ bits (sget 0 t.iso.key 0) 63 62 = 0 ∧
      t.freshSession 0 = true ∧ s.freshSession 0 = false := by decide +kernel
theorem witness_commands_contexts : let s := commanding 0x18 [0]
    s.contextArg 1024 = some 0 ∧ (commanding 0x18 [4]).contextArg 1024 = none ∧ s.isSaved 0 = false ∧ s.mgmt.removing = [] ∧
      s.mgmt.preempt = [] ∧ s.unsaved 0 ≠ [] ∧ (∀ bg ∈ s.allGroups, bg.2.parked = false) ∧
      (s.mgmt.running.head?).any (·.begun) = false := by decide +kernel
theorem witness_commands_restore : let v : Saved := ⟨0, 0x0E, true, [], 64, none, 0⟩
    let s : State := { commanding 0x19 [0] with
      mgmt := { (commanding 0x19 [0]).mgmt with saved := [v] }
      mem := { (commanding 0x19 [0]).mem with bytes := [(1, 4)] } }
    s.contextArg 1024 = some 0 ∧ (commanding 0x19 [0]).validImage 0 = none ∧ (s.validImage 0).map (·.1) = some v ∧
      (State.placeAll 0 0 [] (reloadBlocks s v.blocks []) s).isSome = true := by decide +kernel
theorem witness_commands_restoreBusy : let v : Saved := ⟨0, 0x0E, true, [{ (one []).blk with groups := [(one []).grp] }], 2048, none, 0⟩
    let s : State := { commanding 0x19 [0] with
      mgmt := { (commanding 0x19 [0]).mgmt with saved := [v], offlineCores := List.range 16 }
      mem := { (commanding 0x19 [0]).mem with bytes := [(1, 4)] } }
    (s.validImage 0).isSome = true ∧ (State.placeAll 0 0 [] (reloadBlocks s v.blocks []) s).isNone = true := by decide +kernel
/-- Whatever the length of a census, one of the two cases of a buffer of 2 ^ 49 bytes holds, and no line of host memory is
held. -/
theorem witness_commands_census : let s := commanding 0x1B [0, 0x2000000000000, 0]
    let n := (s.census none).length
    isUnderWay s 0x1B [anyArg, anyArg, 1] = true ∧ s.arg 1024 3 = 0 ∧ (s.arg 1024 2 < n ∨ n ≤ s.arg 1024 2 ∧ s.arg 1024 1 + n ≤ 2 ^ 50) ∧
      ∀ line, s.lineHeld none false line = false := by
  refine ⟨by decide +kernel, by decide +kernel, ?_, fun _ => rfl⟩
  have h1 : (commanding 0x1B [0, 0x2000000000000, 0]).arg 1024 1 = 0 := by decide +kernel
  have h2 : (commanding 0x1B [0, 0x2000000000000, 0]).arg 1024 2 = 2 ^ 49 := by decide +kernel
  rw [h1, h2]
  omega

/-! ## Further witnesses: links, waits and bounds -/

theorem opens_of {s : State} {pas : List Nat} (h : pas.all (s.wayOpen s.blk.asid s.blk.core) = true) : s.opens pas :=
  List.all_eq_true.mp h

/-- A value of a map that meets a test on every entry, or the default, meets it. -/
theorem sget_all {α : Type} {d : α} {P : α → Bool} (hd : P d = true) : ∀ {l : Sparse α}, l.all (fun e => P e.2) = true →
    ∀ k, P (sget d l k) = true
  | [], _, _ => hd
  | e :: r, h, k => by
    simp only [List.all_cons, Bool.and_eq_true] at h
    unfold sget
    split
    · exact h.1
    · exact sget_all hd h.2 k

/-- Where no link sleeps, no module is routed and nothing is under way, every access may cross its links. -/
theorem wayOpen_of {s : State} (h1 : s.links.state.all (fun e => bits e.2 3 0 != 3 && bits e.2 3 0 != 4) = true)
    (h2 : s.links.routes = []) (h3 : s.mem.requests = []) (a core pa : Nat) : s.wayOpen a core pa = true := by
  have hp : ∀ m, s.portsFor a m = [] := by
    intro m
    simp [State.portsFor, State.portsTo, h2, sget]
  have h4 : s.asleep a core pa = none := by
    unfold State.asleep
    rw [List.find?_eq_none]
    intro l _
    have := sget_all (d := 0) (P := fun w => bits w 3 0 != 3 && bits w 3 0 != 4) (by decide) h1 l
    simp only [Bool.and_eq_true, bne_iff_ne] at this
    exact by simpa [State.linkST, State.linkWord] using this
  simp [State.wayOpen, h4, State.portWaits, h3, State.portOf, hp]

/-- The small state with links in the given states besides. -/
def withLinks (s : State) (l : Sparse DWord) : State := { s with links := { s.links with state := l ++ s.links.state } }

theorem witness_opens : pointed.opens [0x80, 0x81, 0x82, 0x83] ∧ (one []).opens [] ∧ ¬(withLinks pointed [(32, 3)]).opens [0x80] ∧
    Runs (.ld 8 2 0 0 0 4) (withLinks pointed [(32, 3)]) ∧ Runs (.st 8 2 0 0 0 4) (withLinks pointed [(32, 3)]) := by
  refine ⟨opens_of (by decide +kernel), opens_of (by decide +kernel), fun h => absurd (h 0x80 (List.mem_singleton.mpr rfl)) ?_,
    runs_of (by decide +kernel), runs_of (by decide +kernel)⟩
  decide +kernel
theorem witness_opens_misses :
    (withLinks pointed [(32, 3)]).readsMiss false [(0, [1, 2, 3, 4], false, [(0x80, 0), (0x81, 0), (0x82, 0), (0x83, 0)])] =
      [0x80, 0x81, 0x82, 0x83] ∧
    (withLinks pointed [(32, 3)]).outNow [⟨false, 0x80, 7, 0, 0, 0, 0, 0, {}⟩] = [0x80] := by decide +kernel
theorem witness_opens_all : ∀ pa, (tiled 1 [] 0).opens [pa] := fun _ _ _ =>
  wayOpen_of (by decide +kernel) (by decide +kernel) (by decide +kernel) _ _ _
theorem witness_stepRunsDecoded_fetch : (one []).mayFetch = true ∧ (one []).fetchWay = [0] ∧ (one []).protections = [] ∧
    (let s := withLinks (one []) [(0, 3)]
     s.mayFetch = false ∧ s.fetchWay = [0] ∧ 0 ∈ s.route s.blk.asid s.blk.core 0 ∧ s.linkST 0 = 3 ∧ s.agenda = [] ∧
       s.hostUp = true ∧ s.turn = true ∧ s.issuing = true) ∧ holding.protections.length = 1 := by decide +kernel

/-- A fence that a split runs past, alone in its group. -/
def fence0 : Spec := { pc := 0, scope := 1, regs := [], em := 1, gm := 0, windows := [], buffer := [], monitored := [], alone := true }

theorem witness_partialLoads_kept : let u := small 0 3 [(64, 0x80), (65, 0x5000)]
    let s := u.setSpl { u.spl with spec := some fence0 }
    Runs (.ld 8 2 0 0 0 4) s ∧ s.spl.redo = [] ∧ s.spl.pending = [] ∧ s.grp.region = none ∧ s.spl.spec ≠ none ∧ s.active = [0, 1] ∧
      finds s 0 0x80 4 .load = true ∧ (match s.readLane 1 0x5000 4 .load false with
       | .bad e dn => e.listed && e.code == tPAGE && e.lane == 1 && !dn
       | _ => false) = true ∧ s.readsWait false [(0, [0, 0, 0, 0], false, [(0x80, 0), (0x81, 0), (0x82, 0), (0x83, 0)])] = false := by
  refine ⟨runs_of (by decide +kernel), ?_⟩
  decide +kernel
theorem witness_partialLoads_now : let s := small 0 3 [(64, 0x80), (65, 0x5000)]
    s.foundLate (.ld 8 2 0 0 0 4) = false ∧ s.opens [0x80, 0x81, 0x82, 0x83] :=
  ⟨by decide +kernel, opens_of (by decide +kernel)⟩

/-- Where a lane finds its location. -/
def placesOf (s : State) (k va : Nat) : List (Nat × Nat) :=
  match s.readLane k va 4 .rmw true with
  | .ok _ _ ps => ps
  | _ => []

theorem witness_atomics_lanes : let s := small 0 3 [(64, 0x80), (65, 0x80), (256, 7), (257, 5)]
    let t := small 0 3 [(64, 0x80), (65, 0xC0), (256, 7), (257, 5)]
    Runs (.atomAdd 8 2 0 0 0 0) s ∧ Runs (.atomFadd 8 2 0 0 0 0) t ∧ s.active = [0, 1] ∧ finds s 0 0x80 4 .rmw = true ∧
      finds s 1 0x80 4 .rmw = true ∧ placesOf s 0 0x80 = placesOf s 1 0x80 ∧ finds t 1 0xC0 4 .rmw = true ∧
      (∀ x ∈ placesOf t 0 0x80, ∀ y ∈ placesOf t 1 0xC0, x.1 / 64 ≠ y.1 / 64) ∧ s.mem.stale = [] ∧
      (∀ a ∈ placesOf s 0 0x80, a.1 < 2 ^ 58 ∧ s.lineHeld s.who false (a.1 / 64) = false ∧ s.oldAt 0 a = s.readAt 0 a) := by
  refine ⟨runs_of (by decide +kernel), runs_of (by decide +kernel), ?_⟩
  decide +kernel
theorem witness_atomics_opens : pointed.opens ((placesOf pointed 0 0x80).map (·.1)) ∧
    (small 0 3 [(64, 0x80), (65, 0xC0)]).opens [0x80, 0xC0] := ⟨opens_of (by decide +kernel), opens_of (by decide +kernel)⟩
theorem witness_atomics_alias : let s := one [(64, 0xFFE00000), (96, 0x01FFFFFF)]
    Runs (.atomAdd 8 2 0 0 0 0) s ∧ Delivers s ∧ s.active = [0] ∧ aliasBase ≤ s.addr 2 0 0 ∧ s.addr 2 0 0 < 2 ^ 57 ∧ s.quiet = true := by
  refine ⟨runs_of (by decide +kernel), delivers_of (by decide +kernel), ?_⟩
  decide +kernel

theorem witness_reductions_refused : let s : State := { pointed with iso := { pointed.iso with granule := [] } }
    s.refusedAtHome (sum1 0) = true ∧ s.removalAt 0 5 = false ∧ (leaving 5).removalAt 0 5 = true ∧ (sum1 1).gen ≠ (leaving 5).gen 0 := by
  decide +kernel

/-- A store of the issuing split on its way to the scratchpad line below sp, in the window of its instruction. -/
def spilling : State :=
  let s : State := { pointed with mem := { pointed.mem with requests := [{ request1 0 false with pa := 0xFE00, spad := true }] } }
  s.setSpl { s.spl with windows := [⟨0, 2, [], [], true, 1, [], 0⟩] }

theorem witness_spillStack_held : Runs (.pushm 4 7 0) spilling ∧ spilling.active ≠ [] ∧ spilling.spillBottom + 128 * 4 ≤ spilling.spAt ∧
    spilling.spAt ≤ spilling.spillTop ∧ Unwatched spilling ∧ spilling.blk.computing (spilling.spAt - 512) 512 = false ∧
    spilling.spAt - 512 = 0xFE00 ∧ spilling.ownOnLine true (0xFE00 / 64) = true ∧ 0 ∈ spilling.domLanes :=
  ⟨runs_of (by decide +kernel), by decide +kernel, by decide +kernel, by decide +kernel, unwatched_of (by decide +kernel),
    by decide +kernel⟩
theorem witness_spillStack_upset : let s : State := { pointed with
      grp := { pointed.grp with sp := 0xFF80 }, mem := { pointed.mem with upsets := [(2, bankPlace 0 1, 4082)] } }
    Runs (.popm 4 4 0) s ∧ Delivers s ∧ s.foundLate (.popm 4 4 0) = false ∧ s.spAt + 128 ≤ s.spillTop ∧ s.spillBottom ≤ s.spAt ∧
      (s.domLanes.find? fun k => (List.range 1).any fun j => s.bankUpset (s.spAt + 128 * j + 4 * k) 4) = some 4 := by
  refine ⟨runs_of (by decide +kernel), delivers_of (by decide +kernel), ?_⟩
  decide +kernel

theorem witness_reservations_codes : (one []).resvCode { bank0 0 [] with w0 := (bank0 0 []).w0 + BitVec.ofNat 64 (2 * 2 ^ 58) } = 2 ∧
    (one []).resvCode { bank0 0 [] with w1 := BitVec.ofNat 64 (0x8000 * 2 ^ 48 + 511 * 2 ^ 9 + 1) } = 4 ∧
    (one []).resvCode { bank0 0 [] with w1 := BitVec.ofNat 64 (0x8000 * 2 ^ 48 + 510 * 2 ^ 9 + 1) } = 0 := by decide +kernel

/-- A state as `tiled`, with another word of its register block. -/
def tiledWith (j : Nat) (v : Word) (word7 : Word) : State :=
  { tiled 1 [] word7 with grp := { (tiled 1 [] word7).grp with regs := sset 0 (tiled 1 [] word7).grp.regs (32 * (8 + j)) v } }

theorem witness_matrixIssue_checks :
    ∀ x ∈ [(3, 0x00028000, tICONV), (1, 0x02000000, tICONV), (6, 0x00080010, tICONV), (4, 0x7F000001, tICONV)],
      runs (tiledWith x.1 x.2.1 0) (.mma 1 0 1 0) = true ∧
      (bank0 1 []).mmaStop ((tiledWith x.1 x.2.1 0).newWork 0 1 1 0 0 0 0) 0 = some x.2.2 := by decide +kernel
theorem witness_matrixIssue_desc :
    (tiled 1 [] 0).blk.descStop (bank0 1 []) ((tiled 1 [] 0x04000000).newWork 2 1 1 0 30 0 0) = some tICONV ∧
    (tiled 1 [] 0).blk.descStop (bank0 1 []) ((tiled 1 [] 0x7FFC0040).newWork 2 1 1 0 30 0 0) = some tPROT ∧
    (bank0 1 []).mmaStop ((tiled 1 [] 8).newWork 0 1 1 0 0 0 0) 0 = some tICONV := by decide +kernel
theorem witness_matrixMoves_open (work : List Work) (word7 : Word) : ∀ pa, (tiled 1 work word7).opens [pa] := fun pa x hx =>
  wayOpen_of (s := tiled 1 work word7)
    (show (small 0 0 []).links.state.all (fun e => bits e.2 3 0 != 3 && bits e.2 3 0 != 4) = true by decide +kernel)
    (show (small 0 0 []).links.routes = [] by decide +kernel) (show (small 0 0 []).mem.requests = [] by decide +kernel) _ _ x

theorem witness_engineMoves_ways : let s := queued 0 1 [] [copying]
    s.wayClear copying [0x80, 0xC0] = true ∧ (withLinks s [(0, 3)]).wayClear copying [0x80] = false ∧
      s.wordRefused copying (0xC0, 0) = false ∧ ({ s with iso := { s.iso with granule := [] } } : State).wordRefused copying (0xC0, 0) = true ∧
      (collReaders [contributing]) = [contributing] ∧
      s.wayClear contributing (s.touch (s.engineOf 0 0) 0 (ed contributing.entry 0) (ew contributing.entry 4)).2 = true := by
  decide +kernel

theorem witness_barrierObjects_full : let s : State := { pointed with blk := { pointed.blk with objects := [(0, 0x00FFFF0000000000)] } }
    Runs (.ldsp 8 2 0 0 0 0) s ∧ s.active ≠ [] ∧ (objFI (s.blk.object 0) + 1 + 2 ^ 24 - objFL (s.blk.object 0)) % 2 ^ 24 = 65536 ∧
      Runs (.ldsp 8 2 0 0 0 0) (small 0 0 []) ∧ (small 0 0 []).active = [] := by
  refine ⟨runs_of (by decide +kernel), by decide +kernel, by decide +kernel, runs_of (by decide +kernel), by decide +kernel⟩

theorem witness_tryRegions_priority : let s : State := { pointed with grp := { pointed.grp with ts := 0x20000 } }
    Runs (.tryOpen 20 6) s ∧ bits s.grp.ts 17 14 = 8 ∧ ∀ bg ∈ s.allGroups, bg.2.region = none := by
  refine ⟨runs_of (by decide +kernel), ?_⟩
  decide +kernel

/-- A request of the issuing split to module 1, and the pointed state in which port 0, which is up, leads to that module. -/
def away : Request := { request1 0 false with va := 0x80, pa := 2 ^ 58 + 2 ^ 54 }
def routed (rs : List Request) : State :=
  let s := withLinks (one []) [(40, 2)]
  { s with
    links := { s.links with routes := [(1, 1)] }
    iso := { s.iso with partition := sset 0 s.iso.partition (8 * 0 + 4) 0x100000000 }
    mem := { s.mem with requests := rs } }

theorem portFor_one (line p : Nat) : portFor line [p] = p := by simp [portFor, Nat.mod_one]

theorem portOf_one {s : State} {a m p : Nat} (h : s.portsFor a m = [p]) (hu : s.portUp p = true) (line : Nat) :
    s.portOf a m line = some p := by
  simp [State.portOf, h, hu, portFor_one]

theorem witness_groupMoves_port : (routed []).portsFor 0 1 = [0] ∧ (routed []).portUp 0 = true ∧
    (routed [away]).fresh 0 0 0 = true ∧ (routed [away]).refusedAtHome away = false ∧ away.port = none ∧
    ({ away with port := some 5 } : Request).port ≠ none ∧ (sending [request1 0 false]).portWaits 0 0x80 = false := by decide +kernel
theorem witness_groupMoves_carried : (routed [away]).carried 0 (2 ^ 58 + 2 ^ 54) = true ∧
    (routed [away]).asleep 0 0 (2 ^ 58 + 2 ^ 54) = none ∧
    (routed [away, { away with port := some 5 }]).portWaits 0 (2 ^ 58 + 2 ^ 54) = true := by
  have h : ∀ l : List Request, ∀ line, (routed l).portOf 0 1 line = some 0 := fun l =>
    portOf_one (show (routed []).portsFor 0 1 = [0] by decide +kernel) (show (routed []).portUp 0 = true by decide +kernel)
  have hp : ∀ l : List Request, (routed l).portsFor 0 1 = [0] := fun l => show (routed []).portsFor 0 1 = [0] by decide +kernel
  have hm : moduleOf (2 ^ 58 + 2 ^ 54) = 1 := by decide
  refine ⟨?_, ?_, ?_⟩
  · unfold State.carried; rw [hm, h]; decide
  · unfold State.asleep State.route; rw [hm, h]; decide +kernel
  · unfold State.portWaits; rw [hm, h, hp]; simp only [portFor_one]; decide +kernel
theorem witness_groupMoves_refused : let s : State := { sending [request1 0 false] with iso := { (one []).iso with granule := [] } }
    s.refusedAtHome (request1 0 false) = true ∧ (one []).refusedAtHome (request1 0 false) = false ∧
      (request1 0 false).lines = [2] := by decide +kernel
theorem witness_groupMoves_accepted : let q : Request := { sum1 0 with pa := 0x100 }
    let s := sending [sum1 0, q]
    s.mem.requests[0]? = some (sum1 0) ∧ (sum1 0).red = some seven ∧ q.sameInstr (sum1 0) = true ∧ q.red.isSome = true ∧
      (∀ r ∈ (sending [sum1 0]).mem.requests.eraseIdx 0, r.sameInstr (sum1 0) = false) ∧ (sum1 0).core = s.blk.core ∧
      (sum1 0).slot = s.grp.slot ∧ s.mem.requests.take 0 = [] := by decide +kernel
theorem witness_groupMoves_removed : let r := request1 0 true
    let s : State := { leaving 5 with mem := { (leaving 5).mem with requests := [r] } }
    r.core ≠ 9999 ∧ s.removalAt r.asid 5 = true ∧ s.mem.requests[0]? = some r ∧ (one []).removalAt 0 5 = false := by decide +kernel
theorem witness_groupMoves_record : let r := { request1 0 true with va := 0x5000, core := 9999 }
    (sending [r]).mem.requests[0]? = some r ∧ (match (sending [r]).recheck r with
      | .fault _ _ _ _ _ => true
      | _ => false) = true := by decide +kernel
theorem witness_groupMoves_undrawn : let d : Reduction := { seven with op := 6, seeds := [(0, 5)] }
    let r : Request := { sum1 0 with rejected := true, va := 0x5000, red := some d }
    (sending [r]).mem.requests[0]? = some r ∧ r.red = some d ∧ d.seeds = [(0, 5)] ∧
      ((sending [r]).grp.splitAt r.spl).pending = [] ∧ (match (sending [r]).recheck r with
      | .fault _ _ _ _ _ => true
      | _ => false) = true := by decide +kernel
theorem witness_groupMoves_phintWaits : let s := withLinks (one []) [(32, 3)]
    Runs (.phint 16) s ∧ (s.readsMiss false [(0, [0], false, [(64, 0)])]).any (fun pa => !s.wayOpen 0 0 pa) = true := by
  refine ⟨runs_of (by decide +kernel), ?_⟩
  decide +kernel

theorem witness_launching_feeds : let g := { grid1 ([1, 0, 0, 9, 0, 0, 0x20000000003] ++ List.replicate 25 0) [(0, 2, 8), (1, 5, 5)] with isTask := true }
    g.feeds 0 = true ∧ g.feeds 1 = false ∧ (gridded g).offered g 0 = true := by decide +kernel

theorem witness_recoveryMoves_rejected : let s : State := { leaving 5 with mem := { (leaving 5).mem with
      requests := [request1 0 true, { request1 0 true with core := 9999 }] } }
    s.mgmt.removing.find? (·.1 == 0) = some (0, 0x11, 5) ∧ s.stageDrained 0 5 = true ∧
      (∃ r ∈ s.mem.requests, r.asid = 0 ∧ r.core ≠ 9999 ∧ r.rejected = true) := by decide +kernel

theorem witness_linksAndHost_ports : let s : State := { linked with links := { linked.links with
      state := (40, 0) :: linked.links.state, deadTimer := [40], snoops := [(40, 7, 3)], copies := [(3, 9, 0)]
      replay := [(0, 5), (1, 5), (0, 6)] } }
    s.linkST 40 = 0 ∧ 40 ∈ s.links.deadTimer ∧ (∃ x ∈ s.links.snoops, x.1 = 40) ∧ (∀ x ∈ s.links.snoops, x.1 = 40 → x.2.2 = 3) ∧
      (0, 5 % 4096) ∈ s.links.replay ∧ (s.links.replay.filter (·.1 == 0)).dropWhile (· != (0, 5)) = [(0, 5), (0, 6)] := by
  decide +kernel
theorem witness_linksAndHost_uses : (routed [away]).usesPort 0 away = true := by
  have h : ∀ line, (routed [away]).portOf 0 1 line = some 0 :=
    portOf_one (show (routed []).portsFor 0 1 = [0] by decide +kernel) (show (routed []).portUp 0 = true by decide +kernel)
  have hm : moduleOf away.pa = 1 := by decide
  unfold State.usesPort
  rw [hm, show away.asid = 0 from rfl, h]
  decide
theorem witness_linksAndHost_behind : let s : State := { recorded 1 with
      mgmt := { (recorded 1).mgmt with hdm := [(1, 0x100000000)] }
      mem := { (recorded 1).mem with held := [([2], .nop)] } }
    s.hdmTarget 0 0x80 = some 0x80 ∧ s.hostMay 0 0x80 = true ∧ (∃ h ∈ s.mem.held, 0x80 / 64 ∈ h.1) := by decide +kernel

theorem witness_commands_noTarget : let s := commanding 0x3F0018 []
    s.cmdRuns 1024 = true ∧ s.bootPH = 2 ∧ bits (s.cmdWord 1024 0) 7 0 = 0x18 ∧ bits (s.cmdWord 1024 0) 63 26 = 0 ∧
      bits (s.cmdWord 1024 0) 15 8 = 0 ∧ s.argsClean 1024 [0xFFFF] = true ∧
      (s.vfWord (bits (s.cmdWord 1024 0) 25 16) 1).getLsbD 0 = false := by decide +kernel
theorem witness_commands_revokeWaits : let s := exporting 0x13 [0] 0
    let t : State := { s with mem := { s.mem with held := [([2], .peerRequest 0 0x80 1 4 [])] } }
    t.peerHeld 0 = true ∧ s.peerHeld 0 = false ∧ s.underWay 0 (fun _ => true) = false ∧ hMod (t.cmdWord 1024 1) = t.ownModule ∧
      exST (t.exportWord 0 0) = 1 := by decide +kernel

theorem witness_opens_others : (queued 0 0 [] []).opens [0x440] ∧ (recorded 2).opens [0x100, 0x1FF] ∧ (inside region0).opens [] ∧
    (one [(128, 0x1000), (192, 0x80)]).opens [0x80] ∧ holding.opens [0x80] ∧ (one []).opens [64] :=
  ⟨opens_of (by decide +kernel), opens_of (by decide +kernel), opens_of (by decide +kernel), opens_of (by decide +kernel),
    opens_of (by decide +kernel), opens_of (by decide +kernel)⟩

-- R188: two lanes at one location, one after another; R374: a load wakes the link on its way; R320: PRI where CC is 8.
theorem test_atomAdd_lanes : after (exec (.atomAdd 8 2 0 0 0 0) (small 0 3 [(64, 0x80), (65, 0x80), (256, 7), (257, 5)]))
    (fun t => (t.reg 8 0, t.reg 8 1, t.byteAt (0x80, 0))) = some (0, 7, 12) := by decide +kernel
theorem test_ld_wakes : after (exec (.ld 8 2 0 0 0 4) (withLinks pointed [(32, 3)])) (fun t => (t.linkST 32, t.spl.pc)) =
    some (4, 0) := by decide +kernel
theorem test_try_priority : after (exec (.tryOpen 20 6) ({ pointed with grp := { pointed.grp with ts := 0x20000 } } : State))
    (fun t => t.grp.ts) = some 0x23000 := by decide +kernel

end Sys2Proof.Tests
end

section
/-! SUPPORT. Traps taken at once, the instructions that set their split's modes and masks, and the obligation about them. -/

namespace Sys2Proof.Machine

/-! ## What the state of the operands keeps (R256) -/

theorem event_eq (s : State) (fn code : Nat) (tag : Word) (d0 d1 : DWord) :
    s.event fn code tag d0 d1 = { s with mgmt := (s.event fn code tag d0 d1).mgmt } := by
  unfold State.event; dsimp only; split <;> rfl

/-- The state `t` is `s` but for counts of denials and the management controller's records. -/
def SameButReports (s t : State) : Prop := t = { s with iso := { s.iso with violations := t.iso.violations }, mgmt := t.mgmt }

theorem sameButReports_denied (s : State) (asid addr r : Nat) : SameButReports s (s.denied asid addr r) := by
  unfold SameButReports State.denied State.deniedBy; dsimp only
  rw [event_eq, event_eq]

theorem sameButReports_noteExportDenial (s : State) (idx off : Nat) : SameButReports s (s.noteExportDenial idx off) := by
  unfold State.noteExportDenial; dsimp only
  split
  · split <;> exact sameButReports_denied ..
  · rfl

theorem sameButReports_noteFault (s : State) (u : Unit') (asid va r : Nat) : SameButReports s (s.noteFault u asid va r) := by
  unfold State.noteFault
  split
  · rfl
  · extract_lets pa die
    split
    · exact sameButReports_denied ..
    · split
      · extract_lets h
        split
        · exact sameButReports_noteExportDenial ..
        · exact sameButReports_denied ..
      · exact sameButReports_denied ..

theorem sameButReports_noteDeniedAt (s : State) (u : Unit') (asid va n : Nat) (k : Kind) (r : Nat) :
    SameButReports s (s.noteDeniedAt u asid va n k r) := by
  unfold State.noteDeniedAt
  split
  · exact sameButReports_noteFault ..
  · rfl

/-- What of `s` stands in `t` where a future of the group has ended: the group but for registers and bearings, the block,
the trap routines, and the requests on their way. -/
structure FuturesAside (s t : State) : Prop where
  group : t.grp = { s.grp with regs := t.grp.regs, futures := t.grp.futures }
  cur : t.cur = s.cur
  block : t.blk = s.blk
  vector : t.iso.tvec = s.iso.tvec
  requests : t.mem.requests = s.mem.requests
  reductions : t.mem.reductions = s.mem.reductions

theorem FuturesAside.refl (s : State) : FuturesAside s s := ⟨rfl, rfl, rfl, rfl, rfl, rfl⟩

theorem FuturesAside.trans {s t u : State} (h : FuturesAside s t) (k : FuturesAside t u) : FuturesAside s u where
  group := by rw [k.group, h.group]
  cur := k.cur.trans h.cur
  block := k.block.trans h.block
  vector := k.vector.trans h.vector
  requests := k.requests.trans h.requests
  reductions := k.reductions.trans h.reductions

theorem futuresAside_resolveFuture (s : State) (r : Nat) (f : Future) : FuturesAside s (s.resolveFuture r f) := by
  unfold State.resolveFuture State.noteStatus
  rw [State.reach_eq, sameButReports_noteDeniedAt]
  exact ⟨rfl, rfl, rfl, rfl, rfl, rfl⟩

theorem futuresAside_endFutures (s : State) (i : Instr) : FuturesAside s (s.endFutures i) := by
  unfold State.endFutures
  split
  · exact .refl s
  · generalize readsAll i s = l
    suffices h : ∀ t, FuturesAside s t → FuturesAside s (l.foldl _ t) from h s (.refl s)
    induction l with
    | nil => exact fun _ h => h
    | cons x l ih =>
      intro t h
      refine ih _ ?_
      dsimp only
      split
      · split
        · exact h
        · exact h.trans (futuresAside_resolveFuture ..)
      · exact h

theorem outstanding_closeWindows {s : State} (h : s.outstanding = false) : s.closeWindows.outstanding = false := by
  unfold State.closeWindows
  split
  · exact h
  · simp only [State.outstanding, spl_setSpl, Bool.or_eq_false_iff] at h ⊢
    exact ⟨⟨rfl, h.1.2⟩, h.2⟩

theorem busy_hideFlags (s : State) : s.hideFlags.spl.windows.any (·.busy) = s.spl.windows.any (·.busy) := by
  unfold State.hideFlags; dsimp only
  split
  · rfl
  · rw [spl_setSpl, List.any_map]
    have hm : s.spl.windows = ((List.range s.spl.windows.length).zip s.spl.windows).map Prod.snd := by
      rw [List.map_snd_zip (by simp)]
    conv_rhs => rw [hm, List.any_map]
    congr 1
    funext x
    dsimp only [Function.comp]
    split <;> rfl

theorem outstanding_hideFlags {s : State} (h : s.outstanding = false) : s.hideFlags.outstanding = false := by
  have hq : s.hideFlags.ownRequests = s.ownRequests ∧ s.hideFlags.ownReductions = s.ownReductions := by
    simp [State.ownRequests, State.ownReductions]
  rw [State.outstanding, busy_hideFlags, hq.1, hq.2]
  exact h

theorem outstanding_endFutures (s : State) (i : Instr) : (s.endFutures i).outstanding = s.outstanding := by
  have h := futuresAside_endFutures s i
  have hs : (s.endFutures i).grp.slot = s.grp.slot := by rw [h.group]
  simp only [State.outstanding, State.ownRequests, State.ownReductions, spl_endFutures, h.requests, h.reductions, h.block,
    h.cur, hs]

theorem outstanding_ready {s : State} (i : Instr) (h : s.outstanding = false) : (s.ready i).outstanding = false := by
  have he := (outstanding_endFutures s i).trans h
  unfold State.ready; dsimp only
  split
  · exact outstanding_closeWindows he
  · exact outstanding_hideFlags he

/-- But for the windows of the split, what stands when futures end stands when the operands are read. -/
theorem windowsAside_ready (s : State) (i : Instr) : ∃ v, FuturesAside s v ∧ v.spl = s.spl ∧ WindowsAside v (s.ready i) := by
  refine ⟨_, futuresAside_endFutures s i, spl_endFutures s i, ?_⟩
  unfold State.ready; dsimp only
  split
  · exact windowsAside_close _
  · exact windowsAside_hide _

/-! ## Traps taken at once (R377) -/

/-- A trap taken in this state is delivered, and its record counts no fault of another split: what `Delivers` comes to in the
state in which the operands are read. -/
structure Receives (s : State) : Prop where
  region : s.grp.region = none
  handler : s.grp.handler = none
  vector : s.tvec s.blk.asid ≠ 0
  earlier : s.spl.pending = []
  others : s.grp.pendOthers s.cur = 0
  fits : s.cur < 4

theorem receives_of_delivers {s : State} (h : Delivers s) : Receives s :=
  ⟨h.atOnce.region, h.handler, h.vector, h.atOnce.earlier, h.atOnce.first h.handler, h.fits⟩

theorem Receives.futuresAside {s t : State} (h : Receives s) (hp : t.spl = s.spl) (w : FuturesAside s t) : Receives t where
  region := by rw [w.group]; exact h.region
  handler := by rw [w.group]; exact h.handler
  vector := by rw [State.tvec, w.vector, w.block]; exact h.vector
  earlier := hp ▸ h.earlier
  others := by rw [w.group, w.cur]; exact h.others
  fits := w.cur ▸ h.fits

theorem pendOthers_windowsAside {s t : State} (w : WindowsAside s t) : t.grp.pendOthers s.cur = s.grp.pendOthers s.cur := by
  unfold Group.pendOthers
  congr 1
  refine List.filter_congr fun k _ => ?_
  by_cases hk : k = s.cur
  · simp [hk]
  · rw [w.others k hk]

theorem Receives.windowsAside {s t : State} (h : Receives s) (w : WindowsAside s t) : Receives t := by
  have hc : t.cur = s.cur := by rw [w.rest]
  obtain ⟨ws, hp⟩ := w.own
  exact {
    region := by rw [w.rest]; exact h.region
    handler := by rw [w.rest]; exact h.handler
    vector := by rw [w.rest]; exact h.vector
    earlier := by rw [hp]; exact h.earlier
    others := by rw [hc, pendOthers_windowsAside w]; exact h.others
    fits := hc ▸ h.fits }

theorem receives_ready {s : State} (h : Delivers s) (i : Instr) : Receives (s.ready i) := by
  obtain ⟨v, hf, hp, hw⟩ := windowsAside_ready s i
  exact ((receives_of_delivers h).futuresAside hp hf).windowsAside hw

theorem trapHere_delivers {s : State} (h : Receives s) (t : TrapInfo) :
    ∃ list npc, s.trapHere t = s.deliver t list npc := by
  have ht : ∀ list npc, s.takeTrap t list npc = s.deliver t list npc := fun list npc => by
    simp [State.takeTrap, h.region, h.handler, show ¬s.tvec s.blk.asid = 0#64 from h.vector]
  simp only [State.trapHere, h.earlier, ht]
  exact ⟨_, _, rfl⟩

theorem sget_foldl_sset_ne {α β : Type} [DecidableEq α] {dflt : α} {key : β → Nat} (val : β → α) {n : Nat} :
    ∀ (l : List β) (m : Sparse α), (∀ x ∈ l, n ≠ key x) →
      sget dflt (l.foldl (fun m x => sset dflt m (key x) (val x)) m) n = sget dflt m n
  | [], _, _ => rfl
  | x :: l, m, h => by
    rw [List.foldl_cons, sget_foldl_sset_ne val l _ fun y hy => h y (List.mem_cons_of_mem _ hy),
      sget_sset_ne _ _ _ (h x (List.mem_cons_self ..))]

/-- The first words of the record that a delivery writes (R380). -/
theorem deliver_record (s : State) (t : TrapInfo) (list : List (Addr × Word)) (npc : Addr) :
    let v := s.deliver t list npc
    sget 0 v.grp.trap 0 = trapWord0 t s.cur (s.grp.pendOthers s.cur) (list.take 16).length ∧
      sget 0 v.grp.trap 4 = s.spl.em.setWidth 64 ∧ sget 0 v.grp.trap 5 = s.spl.gm := by
  have hne : ∀ n, n < 6 → ∀ k ∈ List.range 16, n ≠ 6 + k := by omega
  unfold State.deliver
  refine ⟨?_, ?_, ?_⟩ <;> dsimp only <;> rw [sget_foldl_sset_ne _ _ _ (hne _ (by decide))] <;> simp [sget_sset]

/-- The code and the split of a record of a fault that says no more (R380). -/
theorem trapWord0_code {code spl : Nat} (hc : code < 256) (hs : spl < 4) (n : Nat) :
    bits (trapWord0 { code := code } spl 0 n) 7 0 = code ∧ bits (trapWord0 { code := code } spl 0 n) 16 15 = spl := by
  simp [trapWord0, bits]
  omega

/-- A delivery of a fault that says no more than its code enters the trap routine. -/
theorem entered_deliver {s : State} (h : Receives s) {code : Nat} (hc : code < 256) (list : List (Addr × Word)) (npc : Addr) :
    Entered s (s.deliver { code := code } list npc) code := by
  obtain ⟨h0, h4, h5⟩ := deliver_record s { code := code } list npc
  rw [h.others] at h0
  obtain ⟨hw, hs⟩ := trapWord0_code hc h.fits (list.take 16).length
  exact {
    handler := deliver_handler ..
    pc := by rw [deliver_split]
    gm := by rw [deliver_split]
    em := by rw [deliver_split]
    code := by rw [h0, hw]
    split := by rw [h0, hs]
    oldMask := h4
    oldMode := h5 }

theorem entered_of_landFlags {s t : State} {code : Nat} (h : Entered s.landFlags t code) : Entered s t code := by
  have w := windowsAside_land s
  obtain ⟨ws, hp⟩ := w.own
  have hv : s.landFlags.tvec s.landFlags.blk.asid = s.tvec s.blk.asid := by simp [State.tvec]
  exact {
    handler := by simpa using h.handler
    pc := hv ▸ h.pc
    gm := h.gm
    em := by rw [h.em, hp]
    code := h.code
    split := by simpa using h.split
    oldMask := by rw [h.oldMask, hp]
    oldMode := by rw [h.oldMode, hp] }

/-- The end of a step adds energy and time to what a trap leaves. -/
theorem Entered.charged {s t : State} {code : Nat} (h : Entered s t code) (i : Instr) (s0 : State) (die : Nat) :
    Entered s { (t.chargeInstr i s0).pass die with turn := false } code :=
  ⟨h.handler, h.pc, h.gm, h.em, h.code, h.split, h.oldMask, h.oldMode⟩

theorem SameData.charged {s t : State} (h : SameData s t) (i : Instr) (s0 : State) (die : Nat) :
    SameData s { (t.chargeInstr i s0).pass die with turn := false } := by
  obtain ⟨regs, home, spad, blocks, ⟨hub, links, acc, spaces, rights⟩, ⟨flags, seeds, region⟩⟩ := h
  exact ⟨regs, home, spad, blocks, ⟨hub, links, acc, spaces, rights⟩, ⟨flags, seeds, region⟩⟩

/-- What keeps the data of a state whose flags have landed keeps those of the state before. -/
theorem sameData_of_landFlags {s t : State} (hr : t.grp.regs = s.landFlags.grp.regs) (hf : t.grp.fl = s.landFlags.grp.fl)
    (hg : t.grp.gs = s.landFlags.grp.gs) (hn : t.grp.region = s.landFlags.grp.region) (hm : t.mem = s.landFlags.mem)
    (hb : t.blk = s.landFlags.blk) (hbs : t.blocks = s.landFlags.blocks) (hd : KeptDevice s.landFlags t) :
    SameData s t := by
  obtain ⟨hub, links, acc, spaces, rights⟩ := hd
  simp only [State.landFlags_grp_regs, State.landFlags_grp_gs, State.landFlags_grp_region, State.landFlags_mem,
    State.landFlags_blk, State.landFlags_blocks, State.landFlags_hub, State.landFlags_links, State.landFlags_cores,
    State.landFlags_iso] at hr hg hn hm hb hbs hub links acc spaces rights
  exact {
    regs := fun r k => by simp only [State.reg, Group.reg, hr]
    home := fun _ _ => byteAt_of (by rw [hm]) (by rw [hm]) _
    spad := fun _ => by rw [hb]
    blocks := hbs
    device := ⟨hub, links, acc, spaces, rights⟩
    flags := ⟨hf.trans (fl_landFlags s), hg, hn⟩ }

theorem sameData_deliver (s : State) (x : TrapInfo) (list : List (Addr × Word)) (npc : Addr) :
    SameData s (s.landFlags.deliver x list npc) := by
  obtain ⟨hr, hf, hg, hn, hm, hb, hbs, hd⟩ := deliver_keeps s.landFlags x list npc
  exact sameData_of_landFlags hr hf hg hn hm hb hbs hd

/-- A kept trap leaves registers, memory, blocks and the device's records, and fl. -/
theorem keepTrap_keeps (s0 s : State) (i : Instr) (x : TrapInfo) :
    let v := s0.keepTrap i s x
    v.grp.regs = s.grp.regs ∧ v.grp.fl = s.grp.fl ∧ v.grp.gs = s.grp.gs ∧ v.grp.region = s.grp.region ∧
      v.grp.handler = s.grp.handler ∧ v.mem = s.mem ∧ v.blk = s.blk ∧ v.blocks = s.blocks ∧ KeptDevice s v := by
  unfold State.keepTrap Group.pend
  refine ⟨?_, ?_, ?_, ?_, ?_, ?_, ?_, ?_, ?_⟩
  case refine_9 => constructor <;> simp
  all_goals simp

theorem sameData_keepTrap (s0 s : State) (i : Instr) (x : TrapInfo) : SameData s (s0.keepTrap i s.landFlags x) := by
  obtain ⟨hr, hf, hg, hn, -, hm, hb, hbs, hd⟩ := keepTrap_keeps s0 s.landFlags i x
  exact sameData_of_landFlags hr hf hg hn hm hb hbs hd

theorem advance_pending (p : Split) (ws : List Window) (target : Option Addr) : (p.advance ws target).pending = p.pending := by
  unfold Split.advance
  repeat' split
  all_goals rfl

/-- A kept trap is among the faults of its split, with its address (R378). -/
theorem keepTrap_pending {s : State} (h : s.spl.pending = []) (x : TrapInfo) (i : Instr) (s0 : State) :
    ∃ f ∈ (s0.keepTrap i s x).spl.pending, f.pc = s.spl.pc ∧ f.info = x := by
  have hp : (s.grp.splitAt s.cur).pending = [] := h
  unfold State.keepTrap; dsimp only
  rw [spl_setSpl', advance_pending]
  unfold State.spl Group.pend
  dsimp only
  rw [hp, sget_sset_self]
  exact ⟨_, List.mem_append_right _ (List.mem_cons_self ..), rfl, rfl⟩

/-- A meaning that comes to a trap with a code and nothing performed. -/
theorem traps_of_trapCode {i : Instr} {s : State} {f : State → Res} {code : Nat} (h : Runs i s) (he : exec i s = gate i s f)
    (hu : f (s.ready i) = trapCode (s.ready i) code) (hd : Delivers s) (hc : code < 256) (hne : code ≠ tECC) :
    Traps i s code := by
  have hl : Receives (s.ready i).landFlags := (receives_ready hd i).windowsAside (windowsAside_land _)
  cases hf : s.foundLate i with
  | false =>
    obtain ⟨list, npc, ht⟩ := trapHere_delivers hl { code := code }
    have hg := gate_trap h hu hd.atOnce hf (outstanding_ready i hd.atOnce.settled)
    simp only [countRoute_of_ne _ hne, ht] at hg
    exact ⟨_, he.trans hg, (sameData_deliver _ _ list npc).charged i s _,
      fun _ => (entered_of_landFlags (entered_deliver hl hc list npc)).charged i s _, fun hx => absurd hx (by simp [hf])⟩
  | true =>
    have hw : s.trapWaits i (s.ready i) = true := by simp [State.trapWaits, hf]
    have hg := gate_trap_kept h hu rfl hd.atOnce.region hw
    simp only [countRoute_of_ne _ hne] at hg
    obtain ⟨q, hq, hpc, hx⟩ := keepTrap_pending hl.earlier { code := code } i s
    obtain ⟨-, -, -, -, hh, -⟩ := keepTrap_keeps s (s.ready i).landFlags i { code := code }
    obtain ⟨ws, hp⟩ := (windowsAside_land (s.ready i)).own
    refine ⟨_, he.trans hg, sameData_keepTrap .., fun hx => absurd hx (by simp [hf]), fun _ => ⟨?_, q, hq, ?_, by rw [hx]⟩⟩
    · rw [hh, hl.handler, hd.handler]
    · rw [hpc, hp]; exact pc_ready s i

/-! ## Fields of gm (R61, R62) -/

/-- A bit of a number split at two places: a field of `len` bits at `lo`, what lies below it and what lies above. -/
theorem testBit_field {a m lo len j : Nat} (b : Nat) (ha : a < 2 ^ lo) (hm : m < 2 ^ len) :
    (2 ^ lo * (2 ^ len * b + m) + a).testBit j =
      if j < lo then a.testBit j else if j - lo < len then m.testBit (j - lo) else b.testBit (j - lo - len) := by
  rw [Nat.testBit_two_pow_mul_add _ ha, Nat.testBit_two_pow_mul_add _ hm]

/-- `setBits` puts the low bits of the value in the field and keeps every other bit. -/
theorem getLsbD_setBits {n : Nat} (w : BitVec n) {lo len j : Nat} (hlen : 0 < len) (v : Nat) (hj : j < n) :
    (setBits w (lo + len - 1) lo v).getLsbD j =
      if lo ≤ j ∧ j < lo + len then v.testBit (j - lo) else w.getLsbD j := by
  have hl : lo + len - 1 + 1 - lo = len := by omega
  have ha : w.toNat % 2 ^ lo < 2 ^ lo := Nat.mod_lt _ (by positivity)
  have hm : w.toNat / 2 ^ lo % 2 ^ len < 2 ^ len := Nat.mod_lt _ (by positivity)
  have hv : v % 2 ^ len < 2 ^ len := Nat.mod_lt _ (by positivity)
  have hw : w.toNat = 2 ^ lo * (2 ^ len * (w.toNat / 2 ^ lo / 2 ^ len) + w.toNat / 2 ^ lo % 2 ^ len) + w.toNat % 2 ^ lo := by
    rw [Nat.div_add_mod, Nat.div_add_mod]
  have hs : w.toNat - w.toNat / 2 ^ lo % 2 ^ len * 2 ^ lo + v % 2 ^ len * 2 ^ lo =
      2 ^ lo * (2 ^ len * (w.toNat / 2 ^ lo / 2 ^ len) + v % 2 ^ len) + w.toNat % 2 ^ lo := by
    rw [Nat.mul_add] at hw ⊢
    rw [Nat.mul_comm _ (2 ^ lo), Nat.mul_comm _ (2 ^ lo)]
    omega
  have hb : w.getLsbD j = w.toNat.testBit j := rfl
  rw [hw, testBit_field _ ha hm] at hb
  unfold setBits bits
  rw [BitVec.getLsbD_ofNat, hl, hs, testBit_field _ ha hv, hb, Nat.testBit_mod_two_pow]
  by_cases h1 : j < lo
  · simp [hj, h1]
  · have h2 : j - lo < len ↔ j < lo + len := by omega
    by_cases h3 : j < lo + len <;> simp [hj, h1, h2, h3, Nat.le_of_not_lt h1]

/-- The selectors of `modei`, each with the lowest bit of its field of gm and the field's width (R62). -/
def modeiFields : List (BitVec 6 × Nat × Nat) :=
  [(0, 0, 7), (1, 9, 5), (2, 14, 5), (3, 19, 3), (4, 22, 1), (5, 23, 5), (6, 28, 5), (7, 33, 6), (8, 39, 1), (9, 9, 10),
    (10, 19, 4)]

theorem forall_modeiFields {P : BitVec 6 × Nat × Nat → Prop} : (∀ x ∈ modeiFields, P x) ↔
    P (0, 0, 7) ∧ P (1, 9, 5) ∧ P (2, 14, 5) ∧ P (3, 19, 3) ∧ P (4, 22, 1) ∧ P (5, 23, 5) ∧ P (6, 28, 5) ∧ P (7, 33, 6) ∧
      P (8, 39, 1) ∧ P (9, 9, 10) ∧ P (10, 19, 4) := by simp [modeiFields]

/-- `modei` replaces the field of its selector. -/
theorem modeiGm_field (gm : DWord) (v : Nat) : ∀ x ∈ modeiFields,
    modeiGm gm x.1.toNat v = setBits gm (x.2.1 + x.2.2 - 1) x.2.1 v ∧ 0 < x.2.2 :=
  forall_modeiFields.2 (by simp [modeiGm])

/-- A selector takes the immediates that its field of gm holds with no reserved value. -/
theorem modeiOk_field (i : BitVec 18) : ∀ x ∈ modeiFields, modeiOk x.1 i = true ↔
    i.toNat < 2 ^ x.2.2 ∧ gmLegal (BitVec.ofNat 64 (i.toNat * 2 ^ x.2.1)) = true := by
  refine forall_modeiFields.2 ?_
  simp only [modeiOk, gmLegal, gmRM, gmTA, gmTB, typeCode, bits, BitVec.toNat_ofNat]
  refine ⟨?_, ?_, ?_, ?_, ?_, ?_, ?_, ?_, ?_, ?_, ?_⟩ <;> simp <;> omega

theorem modeiOk_selector {sl : BitVec 6} {i : BitVec 18} (h : modeiOk sl i = true) : ∃ x ∈ modeiFields, sl = x.1 := by
  have hs : sl.toNat ≤ 10 := by
    unfold modeiOk at h
    split at h
    case h_12 => simp at h
    all_goals omega
  have : ∀ s : BitVec 6, s.toNat ≤ 10 → ∃ x ∈ modeiFields, s = x.1 := by decide
  exact this sl hs

/-! ## Instructions that set the modes and masks of their split -/

theorem checkForm_none_of_runs {i : Instr} {s : State} (h : Runs i s) : checkForm i s = none := by
  have hs := h.2
  unfold State.stopped firstStop at hs
  split at hs
  · simp at hs
  · assumption

/-- An instruction that runs is well-formed (R53, R67). -/
theorem wf_of_runs {i : Instr} {s : State} (h : Runs i s) : i.wf = true := by
  have hc := checkForm_none_of_runs h
  unfold checkForm at hc
  split at hc
  · simp at hc
  · simp_all

/-- The instruction completes with `em` and `gm` the mask and the modes of its split: it writes the registers that `new`
names, raises no flag, goes on at the next word and leaves everything else as it was. -/
def SetsModes (i : Instr) (s : State) (em : Word) (gm : DWord) (new : Nat → Nat → Option Word) : Prop :=
  ∃ t, exec i s = .next t ∧ t.spl.em = em ∧ t.spl.gm = gm ∧ RegsBecome (s.ready i) t new ∧ KeptTable (s.ready i) t ∧
    KeptGroup (s.ready i).grp t.grp ∧ KeptDevice (s.ready i) t ∧ KeptMemory (s.ready i) t ∧ KeptFlags (s.ready i) t ∧
    Onward s t

/-- A meaning that writes registers and then the mask and the modes of its split. -/
theorem setsModes_of_setSpl {i : Instr} {s w : State} {f : State → Res} {new : Nat → Nat → Option Word} {em : Word}
    {gm : DWord} (h : Runs i s) (he : exec i s = gate i s f)
    (hu : f (s.ready i) = .next (w.setSpl { (s.ready i).spl with em := em, gm := gm })) (hs : SameButRegs (s.ready i) w)
    (hr : ∀ r k, k < 32 → w.reg r k = (new r k).getD ((s.ready i).reg r k)) : SetsModes i s em gm new := by
  obtain ⟨R, rfl⟩ : ∃ R, w = { s.ready i with grp := { (s.ready i).grp with regs := R } } := ⟨_, hs⟩
  generalize hv : State.setSpl _ _ = v at hu
  have hp : v.spl = { (s.ready i).spl with em := em, gm := gm } := hv ▸ spl_setSpl ..
  have hlanded : v.landed = (s.ready i).landed := landed_of (by rw [hp]) (by rw [← hv]; rfl)
  have ho : ∀ k, k ≠ (s.ready i).cur → v.grp.splitAt k = (s.ready i).grp.splitAt k := fun k hk => by
    rw [← hv]; exact sget_sset_ne _ _ _ hk
  obtain ⟨flags, seeds, region⟩ := keptFlags_retire s v i none
  obtain ⟨⟨place, stack, tries, trap, reserved, arrived, alive⟩, ⟨⟨cur, status, domain, others⟩, mask, mode⟩,
    ⟨hub, links, acc, spaces, rights⟩, ⟨home, block, blocks⟩⟩ := kept_retire s v i none
  have hb : RegsBecome (s.ready i) (s.retire i v none) new := regsBecome_retire none (by rw [hp]) (by rw [← hv]; exact hr)
  have hn : Onward s (s.retire i v none) := onward_retire i (by rw [hp, ← pc_ready s i]) (by rw [hp, ← redo_ready s i])
  rw [hp] at status domain mask mode
  rw [hlanded] at flags
  have hc : v.cur = (s.ready i).cur := by rw [← hv]; rfl
  rw [hc] at cur others
  replace others := fun k hk => (others k hk).trans (ho k hk)
  subst hv
  exact ⟨_, he.trans (gate_next h hu), mask, mode, hb, ⟨cur, status, domain, others⟩,
    ⟨place, stack, tries, trap, reserved, arrived, alive⟩, ⟨hub, links, acc, spaces, rights⟩, ⟨home, block, blocks⟩,
    ⟨flags, seeds, region⟩, hn⟩

theorem gm_ready (s : State) (i : Instr) : (s.ready i).spl.gm = s.spl.gm := by
  obtain ⟨_, h⟩ := spl_ready s i
  rw [h]

theorem em_ready (s : State) (i : Instr) : (s.ready i).spl.em = s.spl.em := by
  obtain ⟨_, h⟩ := spl_ready s i
  rw [h]

theorem dm_ready (s : State) (i : Instr) : (s.ready i).spl.dm = s.spl.dm := by
  obtain ⟨_, h⟩ := spl_ready s i
  rw [h]

/-- Registers written and gm set: the split is as it was but for gm. -/
theorem setGm_of_sameButRegs {u w : State} (h : SameButRegs u w) (gm : DWord) :
    w.setGm gm = w.setSpl { u.spl with em := u.spl.em, gm := gm } := by
  rw [State.setGm, spl_of_sameButRegs h]

theorem setsModes_of_setGm {i : Instr} {s w : State} {f : State → Res} {new : Nat → Nat → Option Word} {gm : DWord}
    (h : Runs i s) (he : exec i s = gate i s f) (hu : f (s.ready i) = .next (w.setGm gm)) (hs : SameButRegs (s.ready i) w)
    (hr : ∀ r k, k < 32 → w.reg r k = (new r k).getD ((s.ready i).reg r k)) :
    SetsModes i s (s.ready i).spl.em gm new :=
  setsModes_of_setSpl h he (hu.trans (congrArg Res.next (setGm_of_sameButRegs hs gm))) hs hr

/-- gm after `mode` with a value and a mask (R61). -/
def modeGm (u : State) (a : Reg) (p : Perm) (b : Reg) (q : Perm) : DWord :=
  let m := join64 (u.operandB b.toNat q u.ctl) (u.operandB (b.toNat + 1) q u.ctl)
  (u.spl.gm &&& ~~~m) ||| (u.operand64 a.toNat p u.ctl &&& m)

theorem execMode_eq (d a : Reg) (p : Perm) (b : Reg) (q : Perm) (s : State) :
    exec (.mode d a p b q) s = gate (.mode d a p b q) s fun u =>
      if gmLegal (modeGm u a p b q) then .next ((u.setPair d.toNat u.ctl u.spl.gm).setGm (modeGm u a p b q))
      else trapCode u tILLEGAL := rfl

/-- `mode` to a gm without reserved values (R61). -/
theorem setsModes_mode {d a : Reg} {p : Perm} {b : Reg} {q : Perm} {s : State} (h : Runs (.mode d a p b q) s)
    (hl : gmLegal (modeGm (s.ready (.mode d a p b q)) a p b q) = true) :
    SetsModes (.mode d a p b q) s (s.ready (.mode d a p b q)).spl.em (modeGm (s.ready (.mode d a p b q)) a p b q)
      (inCtlPair (s.ready (.mode d a p b q)) d s.spl.gm) := by
  refine setsModes_of_setGm h (execMode_eq ..) (if_pos hl) (sameButRegs_setPair ..) fun r k hk => ?_
  rw [State.reg_setPair _ _ (ctl_lt _) hk, gm_ready]
  unfold inCtlPair
  split
  · split
    · rfl
    · split <;> rfl
  · rfl

/-- `mode` to a gm with a reserved value (R61). -/
theorem traps_mode {d a : Reg} {p : Perm} {b : Reg} {q : Perm} {s : State} (h : Runs (.mode d a p b q) s)
    (hl : gmLegal (modeGm (s.ready (.mode d a p b q)) a p b q) = false) (hd : Delivers s) :
    Traps (.mode d a p b q) s tILLEGAL :=
  traps_of_trapCode h (execMode_eq ..) (if_neg (by simp [hl])) hd (by decide) (by decide)

theorem execModei_eq {sl : BitVec 6} {i : BitVec 18} {s : State} : exec (.modei sl i) s =
    gate (.modei sl i) s fun u => .next (u.setGm (modeiGm u.spl.gm sl.toNat i.toNat)) := rfl

/-- `modei` (R62). -/
theorem setsModes_modei {sl : BitVec 6} {i : BitVec 18} {s : State} (h : Runs (.modei sl i) s) :
    SetsModes (.modei sl i) s (s.ready (.modei sl i)).spl.em (modeiGm s.spl.gm sl.toNat i.toNat) nowhere := by
  rw [← gm_ready s (.modei sl i)]
  exact setsModes_of_setGm h execModei_eq rfl (sameButRegs_refl _) fun _ _ _ => rfl

/-- An operation on em keeps it within the domain and writes the old one to the control lane (R24, R308). -/
theorem setsModes_maskOp {i : Instr} {d a : Reg} {p : Perm} {f : Word → Word → Word} {s : State} (h : Runs i s)
    (he : exec i s = gate i s (maskOp d a p f)) :
    SetsModes i s (f s.spl.em ((s.ready i).operand a.toNat p (s.ready i).ctl) &&& s.spl.dm) (s.ready i).spl.gm
      (inCtl (s.ready i) d s.spl.em) := by
  rw [← em_ready s i, ← dm_ready s i]
  exact setsModes_of_setSpl h he rfl (sameButRegs_setReg ..) fun _ _ hk => State.reg_setCtl _ _ _ hk

theorem modei_wf (sl : BitVec 6) (i : BitVec 18) : (Instr.modei sl i).wf = modeiOk sl i := by
  cases h : modeiOk sl i <;> simp [Instr.wf, Instr.check, Instr.checks, firstFail, h]

/-- `modei` is well-formed where its selector names a field that holds the immediate (R62). -/
theorem modei_wf_iff (sl : BitVec 6) (i : BitVec 18) : (Instr.modei sl i).wf = true ↔ ∃ x ∈ modeiFields, sl = x.1 ∧
    i.toNat < 2 ^ x.2.2 ∧ gmLegal (BitVec.ofNat 64 (i.toNat * 2 ^ x.2.1)) = true := by
  rw [modei_wf]
  constructor
  · intro h
    obtain ⟨x, hx, rfl⟩ := modeiOk_selector h
    exact ⟨x, hx, rfl, (modeiOk_field i x hx).1 h⟩
  · rintro ⟨x, hx, rfl, h⟩
    exact (modeiOk_field i x hx).2 h

/-- The bits of gm after `modei`: those of the immediate in the field, those of the old gm elsewhere. -/
theorem getLsbD_modeiGm (gm : DWord) (i : BitVec 18) {x : BitVec 6 × Nat × Nat} (hx : x ∈ modeiFields) {j : Nat}
    (hj : j < 64) : (modeiGm gm x.1.toNat i.toNat).getLsbD j =
      if x.2.1 ≤ j ∧ j < x.2.1 + x.2.2 then i.getLsbD (j - x.2.1) else gm.getLsbD j := by
  obtain ⟨h, hlen⟩ := modeiGm_field gm i.toNat x hx
  rw [h]
  exact getLsbD_setBits gm hlen i.toNat hj

/-- Settles O18: `mode` and `modei` complete with the gm that they name and the em operations with em, by the one shape of
an instruction that writes registers and then its split's modes and masks. -/
theorem modesAndMasks : Obligations.ModesAndMasks := by
  unfold Obligations.ModesAndMasks
  refine ⟨fun s d a p b q sl i => ⟨fun h => ⟨fun hl => ?_, fun hl hd => ?_⟩, fun h => ?_, modei_wf_iff sl i⟩,
    fun s d a p => ⟨fun h => setsModes_maskOp (f := fun _ x => x) h rfl,
      fun h => setsModes_maskOp (f := fun e x => e &&& x) h rfl,
      fun h => setsModes_maskOp (f := fun e x => e &&& ~~~x) h rfl, fun h => ?_⟩⟩
  · rw [← gm_ready s (.mode d a p b q)] at hl
    obtain ⟨t, he, hem, hgm, hrest⟩ := setsModes_mode h hl
    exact ⟨t, he, hgm.trans (by rw [modeGm, gm_ready]), hem, hrest⟩
  · rw [← gm_ready s (.mode d a p b q)] at hl
    exact traps_mode h hl hd
  · obtain ⟨x, hx, rfl, -⟩ := (modei_wf_iff sl i).1 (wf_of_runs h)
    obtain ⟨t, he, hem, hgm, hrest⟩ := setsModes_modei h
    exact ⟨x, hx, rfl, _, ⟨t, he, hgm, hem, hrest⟩, fun j hj => getLsbD_modeiGm s.spl.gm i hx hj⟩
  · rw [← em_ready s (.emGet d)]
    exact sets_setCtl (f := fun u => u.spl.em) h rfl

end Sys2Proof.Machine
end

section
/-! SUPPORT. Integer operands and results, halves of 64-bit values, and the bits of fields, counts and votes: the facts
about words that the integer and lane-exchange instructions come to (R100 to R110, R124). -/

namespace Sys2Proof.Machine

/-! ## Integer operands and results (R100) -/

theorem intVal_of_nat {gm : DWord} (h : isNat gm = true) (w : Word) : intVal gm w = w.toNat := if_pos h

theorem intVal_of_signed {gm : DWord} (h : isNat gm = false) (w : Word) : intVal gm w = w.toInt := by simp [intVal, h]

/-- A word is the word of its integer value. -/
@[simp] theorem ofInt_intVal (gm : DWord) (w : Word) : BitVec.ofInt 32 (intVal gm w) = w := by
  unfold intVal
  split
  · rw [BitVec.ofInt_natCast, BitVec.ofNat_toNat, BitVec.setWidth_eq]
  · exact BitVec.ofInt_toInt

@[simp] theorem ofInt_int (u : State) (r : Reg) (p : Perm) (k : Nat) :
    BitVec.ofInt 32 (u.int r p k) = u.operand r.toNat p k := ofInt_intVal ..

@[simp] theorem ofInt_intB (u : State) (r : Reg) (p : Perm) (k : Nat) :
    BitVec.ofInt 32 (u.intB r p k) = u.operandB r.toNat p k := ofInt_intVal ..

theorem ofInt_sub {w : Nat} (x y : Int) : BitVec.ofInt w (x - y) = BitVec.ofInt w x - BitVec.ofInt w y := by
  rw [Int.sub_eq_add_neg, BitVec.ofInt_add, BitVec.ofInt_neg, BitVec.sub_eq_add_neg]

/-- The order of integer values is that of natural or of signed words, by TA. -/
theorem ite_intVal_lt {α : Sort*} (gm : DWord) (x y : Word) (t e : α) : (if intVal gm x < intVal gm y then t else e) =
    if isNat gm then (if x.toNat < y.toNat then t else e) else if x.toInt < y.toInt then t else e := by
  cases h : isNat gm
  · simp only [intVal_of_signed h, Bool.false_eq_true, if_false]
  · simp only [intVal_of_nat h, Nat.cast_lt, if_true]

theorem lowest_le_intVal (gm : DWord) (w : Word) : lowest gm ≤ intVal gm w := by
  have := w.le_toInt
  cases h : isNat gm
  · simpa [lowest, h, intVal] using this
  · simp [lowest, h, intVal]

theorem intVal_le_highest (gm : DWord) (w : Word) : intVal gm w ≤ highest gm := by
  have := w.toInt_lt
  have := w.isLt
  cases h : isNat gm
  · simp [highest, h, intVal]; omega
  · simp [highest, h, intVal]; omega

theorem intRes_of_wraps {gm : DWord} (h : gmSAT gm = false) (z : Int) : intRes gm z = (BitVec.ofInt 32 z, 0) := by
  simp [intRes, h]

/-- `SatTo` to n32 or s32 (R94) is the nearest value of the range. -/
theorem satTo_eq (gm : DWord) (z : Int) : satTo z (!isNat gm) 32 =
    ((max (lowest gm) (min (highest gm) z) % 2 ^ 32).toNat, if lowest gm ≤ z ∧ z ≤ highest gm then 0 else fSA) := by
  have clamp : ∀ lo hi : Int, lo ≤ hi → (hi % 2 ^ 32).toNat = hi.toNat →
      (if z < lo then ((lo % 2 ^ 32).toNat, fSA) else if hi < z then (hi.toNat, fSA) else ((z % 2 ^ 32).toNat, 0)) =
        ((max lo (min hi z) % 2 ^ 32).toNat, if lo ≤ z ∧ z ≤ hi then 0 else fSA) := by
    intro lo hi hle hm
    split
    · rw [if_neg (by omega), show max lo (min hi z) = lo by omega]
    · split
      · rw [if_neg (by omega), show max lo (min hi z) = hi by omega, hm]
      · rw [if_pos (by omega), show max lo (min hi z) = z by omega]
  cases h : isNat gm
  · simpa [satTo, lowest, highest, h] using clamp (-2147483648) 2147483647 (by decide) (by decide)
  · simpa [satTo, lowest, highest, h] using clamp 0 4294967295 (by decide) (by decide)

theorem intRes_of_clamps {gm : DWord} (h : gmSAT gm = true) (z : Int) :
    intRes gm z = (BitVec.ofInt 32 (max (lowest gm) (min (highest gm) z)),
      if lowest gm ≤ z ∧ z ≤ highest gm then 0 else fSA) := by
  simp only [intRes, h, if_true, satTo_eq]
  congr 1
  exact BitVec.eq_of_toNat_eq (by rw [BitVec.toNat_ofNat, BitVec.toNat_ofInt]; omega)

/-- A value within the range of its type is its own result. -/
theorem intRes_intVal (gm : DWord) (w : Word) : intRes gm (intVal gm w) = (w, 0) := by
  cases h : gmSAT gm with
  | false => rw [intRes_of_wraps h, ofInt_intVal]
  | true =>
    have h1 := lowest_le_intVal gm w
    have h2 := intVal_le_highest gm w
    rw [intRes_of_clamps h, if_pos ⟨h1, h2⟩, min_eq_right h2, max_eq_right h1, ofInt_intVal]

/-- What `abs` gives (R103) is `IntRes` of the absolute value in either signedness. -/
theorem absRes_eq (gm : DWord) (w : Word) :
    (if isNat gm then (w, 0) else intRes gm (intVal gm w).natAbs) = intRes gm |intVal gm w| := by
  split
  case isTrue h => rw [abs_of_nonneg (by rw [intVal_of_nat h]; omega), intRes_intVal]
  case isFalse => rw [Int.natCast_natAbs]

theorem ofInt_abs_intVal (gm : DWord) (w : Word) :
    BitVec.ofInt 32 |intVal gm w| = if isNat gm = false ∧ w.msb then -w else w := by
  cases h : isNat gm with
  | true =>
    rw [abs_of_nonneg (by rw [intVal_of_nat h]; omega), ofInt_intVal]
    simp
  | false =>
    rw [intVal_of_signed h, BitVec.msb_eq_toInt]
    by_cases hn : w.toInt < 0
    · rw [abs_of_neg hn, BitVec.ofInt_neg, BitVec.ofInt_toInt, if_pos ⟨rfl, decide_eq_true hn⟩]
    · rw [abs_of_nonneg (not_lt.1 hn), BitVec.ofInt_toInt, if_neg (by simpa using hn)]

/-! ## Halves of 64-bit values (R30) -/

@[simp] theorem toNat_join64 (lo hi : Word) : (join64 lo hi).toNat = hi.toNat * 2 ^ 32 + lo.toNat := by
  rw [join64, BitVec.toNat_append, Nat.shiftLeft_eq, Nat.mul_comm, Nat.two_pow_add_eq_or_of_lt lo.isLt]

theorem toNat_high32 (x : DWord) : (high32 x).toNat = x.toNat / 2 ^ 32 := by
  rw [high32, BitVec.extractLsb'_toNat, Nat.shiftRight_eq_div_pow]
  omega

theorem high32_ofInt (z : Int) : high32 (BitVec.ofInt 64 z) = BitVec.ofInt 32 (z / 4294967296) := by
  refine BitVec.eq_of_toNat_eq ?_
  rw [toNat_high32, BitVec.toNat_ofInt, BitVec.toNat_ofInt]
  norm_num
  omega

/-- The high word of the product of two integer values, each widened in the signedness of TA, with `r` added (R102). -/
theorem ofInt_fdiv_mul_add (gm : DWord) (x y : Word) (r : Nat) :
    BitVec.ofInt 32 ((intVal gm x * intVal gm y + r).fdiv 4294967296) =
      if isNat gm then high32 (x.setWidth 64 * y.setWidth 64 + BitVec.ofNat 64 r)
      else high32 (x.signExtend 64 * y.signExtend 64 + BitVec.ofNat 64 r) := by
  rw [Int.fdiv_eq_ediv_of_nonneg _ (by decide), ← high32_ofInt, BitVec.ofInt_add, BitVec.ofInt_mul, BitVec.ofInt_natCast]
  split
  case isTrue h => simp only [intVal_of_nat h, BitVec.ofInt_natCast, BitVec.ofNat_toNat]
  case isFalse h => simp only [intVal_of_signed (Bool.eq_false_iff.2 h), BitVec.signExtend]

/-- The high word of the product (R102). -/
theorem ofInt_fdiv_mul (gm : DWord) (x y : Word) : BitVec.ofInt 32 ((intVal gm x * intVal gm y).fdiv 4294967296) =
    if isNat gm then high32 (x.setWidth 64 * y.setWidth 64) else high32 (x.signExtend 64 * y.signExtend 64) := by
  simpa using ofInt_fdiv_mul_add gm x y 0

/-! ## Carry and borrow (R101) -/

theorem toNat_and_one (c : Word) : (c &&& 1).toNat = c.toNat % 2 := by
  rw [BitVec.toNat_and]
  exact Nat.and_one_is_mod _

theorem addCarry_eq (x y cin : Word) :
    addCarry x y cin = x.setWidth 64 + y.setWidth 64 + (cin &&& 1).setWidth 64 := by
  have := x.isLt
  have := y.isLt
  refine BitVec.eq_of_toNat_eq ?_
  simp only [addCarry, BitVec.toNat_ofNat, BitVec.toNat_add, BitVec.toNat_setWidth, toNat_and_one]
  omega

/-- The low half of a value with its sign bit above it. -/
theorem toNat_borrowForm (z : DWord) :
    ((z &&& 0xFFFFFFFF) ||| (z >>> 63 <<< 32)).toNat = z.toNat / 2 ^ 63 * 2 ^ 32 + z.toNat % 2 ^ 32 := by
  have hb : z.toNat / 2 ^ 63 < 2 := by have := z.isLt; omega
  have hl : z.toNat % 2 ^ 32 < 2 ^ 32 := Nat.mod_lt _ (by decide)
  have hand : z.toNat &&& ((0xFFFFFFFF : Nat) : DWord).toNat = z.toNat % 2 ^ 32 := Nat.and_two_pow_sub_one_eq_mod _ 32
  rw [BitVec.toNat_or, BitVec.toNat_and, BitVec.toNat_shiftLeft, BitVec.toNat_ushiftRight, Nat.shiftLeft_eq,
    Nat.shiftRight_eq_div_pow, Nat.mod_eq_of_lt (by omega), hand, Nat.or_comm, Nat.mul_comm _ (2 ^ 32),
    Nat.two_pow_add_eq_or_of_lt hl]

theorem subBorrow_eq (x y bin : Word) :
    let z : DWord := x.setWidth 64 - y.setWidth 64 - (bin &&& 1).setWidth 64
    subBorrow x y bin = (z &&& 0xFFFFFFFF) ||| (z >>> 63 <<< 32) := by
  have h0 : (0 : Word).toNat = 0 := rfl
  have h1 : (1 : Word).toNat = 1 := rfl
  have hx := x.isLt
  have hy := y.isLt
  have hc : bin.toNat % 2 < 2 := Nat.mod_lt _ (by decide)
  refine BitVec.eq_of_toNat_eq ?_
  rw [toNat_borrowForm, subBorrow, toNat_join64]
  simp only [BitVec.toNat_sub, BitVec.toNat_setWidth, toNat_and_one]
  split
  · rw [h1]; omega
  · rw [h0]; omega

/-! ## Shifts (R105) -/

theorem shiftLeft_eq_ofNat (x : Word) (n : Nat) : x <<< n = BitVec.ofNat 32 (x.toNat * 2 ^ n) :=
  BitVec.eq_of_toNat_eq (by rw [BitVec.toNat_shiftLeft, BitVec.toNat_ofNat, Nat.shiftLeft_eq])

theorem ushiftRight_eq_ofNat (x : Word) (n : Nat) : x >>> n = BitVec.ofNat 32 (x.toNat / 2 ^ n) :=
  BitVec.eq_of_toNat_eq (by
    rw [BitVec.toNat_ushiftRight, BitVec.toNat_ofNat, Nat.shiftRight_eq_div_pow,
      Nat.mod_eq_of_lt ((Nat.div_le_self ..).trans_lt x.isLt)])

theorem sshiftRight_eq_ofInt (x : Word) (n : Nat) : x.sshiftRight n = BitVec.ofInt 32 (x.toInt / 2 ^ n) := by
  rw [BitVec.sshiftRight, Int.shiftRight_eq_div_pow, Nat.cast_pow, Nat.cast_ofNat]

theorem low32_eq_setWidth (z : DWord) : low32 z = z.setWidth 32 :=
  BitVec.eq_of_toNat_eq (by rw [low32, BitVec.extractLsb'_toNat, BitVec.toNat_setWidth, Nat.shiftRight_zero])

/-- A rotation by the low eight bits of a word is one by its low five (R105). -/
theorem rotateLeft_shiftAmount (x y : Word) :
    x.rotateLeft (shiftAmount y % 32) = x <<< (y.toNat % 32) ||| x >>> (32 - y.toNat % 32) := by
  rw [BitVec.rotateLeft_def, Nat.mod_mod, shiftAmount, Nat.mod_mod_of_dvd _ (by decide)]

theorem join64_eq_or (lo hi : Word) : join64 lo hi = hi.setWidth 64 <<< 32 ||| lo.setWidth 64 := by
  refine BitVec.eq_of_toNat_eq ?_
  rw [toNat_join64, BitVec.toNat_or, BitVec.toNat_shiftLeft, BitVec.toNat_setWidth, BitVec.toNat_setWidth,
    Nat.mod_eq_of_lt (by omega : hi.toNat < 2 ^ 64), Nat.mod_eq_of_lt (by omega : lo.toNat < 2 ^ 64), Nat.shiftLeft_eq,
    Nat.mod_eq_of_lt (by omega), Nat.mul_comm, Nat.two_pow_add_eq_or_of_lt lo.isLt]

/-- The low word of a pair shifted right (R105). -/
theorem low32_join64_ushiftRight (lo hi : Word) (n : Nat) :
    low32 (join64 lo hi >>> n) = ((hi.setWidth 64 <<< 32 ||| lo.setWidth 64 : DWord) >>> n).setWidth 32 := by
  rw [low32_eq_setWidth, join64_eq_or]

/-! ## Counts of bits (R106) -/

theorem leadingZeros_spec (x : Word) : (leadingZeros x).toNat ≤ 32 ∧
    (∀ j < 32, 32 - (leadingZeros x).toNat ≤ j → x.getLsbD j = false) ∧
    ((leadingZeros x).toNat < 32 → x.getLsbD (31 - (leadingZeros x).toNat) = true) := by
  by_cases h : x = 0
  · subst h
    exact ⟨by decide, fun j _ _ => BitVec.getLsbD_zero, fun h => absurd h (by decide)⟩
  · have hx : x.toNat ≠ 0 := fun hc => h (BitVec.eq_of_toNat_eq hc)
    have hlog : x.toNat.log2 < 32 := (Nat.log2_lt hx).2 x.isLt
    have hv : (leadingZeros x).toNat = 31 - x.toNat.log2 := by
      rw [leadingZeros, if_neg h, BitVec.toNat_ofNat]; omega
    rw [hv]
    refine ⟨by omega, fun j _ hj => ?_, fun _ => ?_⟩
    · exact Nat.testBit_lt_two_pow ((Nat.log2_lt hx).1 (by omega))
    · rw [show 31 - (31 - x.toNat.log2) = x.toNat.log2 by omega]
      exact Nat.testBit_log2 hx

theorem trailingZeros_spec (x : Word) : (trailingZeros x).toNat ≤ 32 ∧
    (∀ j < (trailingZeros x).toNat, x.getLsbD j = false) ∧
    ((trailingZeros x).toNat < 32 → x.getLsbD (trailingZeros x).toNat = true) := by
  cases h : (List.range 32).find? x.getLsbD with
  | none =>
    have hv : (trailingZeros x).toNat = 32 := by rw [trailingZeros, h]; rfl
    rw [hv]
    refine ⟨le_rfl, fun j hj => ?_, fun hc => absurd hc (by decide)⟩
    simpa using List.find?_range_eq_none.1 h j hj
  | some n =>
    obtain ⟨hn, hlt, hbelow⟩ := List.find?_range_eq_some.1 h
    rw [List.mem_range] at hlt
    have hv : (trailingZeros x).toNat = n := by
      rw [trailingZeros, h, Option.getD_some, BitVec.toNat_ofNat]; omega
    rw [hv]
    exact ⟨hlt.le, fun j hj => by simpa using hbelow j hj, fun _ => hn⟩

theorem toNat_ofNat_popCount (x : Word) : (BitVec.ofNat 32 (popCount x)).toNat = (List.range 32).countP x.getLsbD := by
  have hle : popCount x ≤ 32 := (List.length_filter_le ..).trans (List.length_range ..).le
  rw [BitVec.toNat_ofNat, Nat.mod_eq_of_lt (by omega), popCount, List.countP_eq_length_filter]

theorem getLsbD_reverse (x : Word) {j : Nat} (hj : j < 32) : x.reverse.getLsbD j = x.getLsbD (31 - j) := by
  rw [BitVec.getLsbD_reverse, BitVec.getMsbD]
  simp [hj]

/-! ## Bit fields (R107, R110) -/

/-- The low `l` bits, with zeros above. -/
theorem getLsbD_extendFrom_unsigned {l j : Nat} (hj : j < 32) (x : Word) :
    (extendFrom false l x).getLsbD j = (decide (j < l) && x.getLsbD j) := by
  rw [extendFrom, Bool.false_and, Bool.false_and, if_neg Bool.false_ne_true, BitVec.getLsbD_ofNat, Nat.testBit_mod_two_pow,
    decide_eq_true hj, Bool.true_and]
  rfl

/-- The low `l` bits of a negative field, with ones above. -/
theorem getLsbD_ofInt_sub_two_pow {l j n : Nat} (hj : j < 32) (hn : n < 2 ^ l) :
    (BitVec.ofInt 32 ((n : Int) - (2 ^ l : Nat))).getLsbD j = (decide (l ≤ j) || n.testBit j) := by
  have hz : (n : Int) - (2 ^ l : Nat) = Int.negSucc (2 ^ l - (n + 1)) := by rw [Int.negSucc_eq]; omega
  rw [hz, BitVec.ofInt_negSucc_eq_not_ofNat, BitVec.getLsbD_not, BitVec.getLsbD_ofNat,
    Nat.testBit_two_pow_sub_succ hn]
  by_cases h : j < l <;> simp [hj, h, Nat.le_of_not_lt]

/-- A field's bits are its low bits, and above them its highest bit where it is signed. -/
theorem getLsbD_extendFrom (signed : Bool) {l j : Nat} (hj : j < 32) (x : Word) : (extendFrom signed l x).getLsbD j =
    if j < l then x.getLsbD j else if signed = true ∧ 0 < l then x.getLsbD (l - 1) else false := by
  by_cases h : (signed && l != 0 && x.getLsbD (l - 1)) = true
  · have hb : x.getLsbD j = x.toNat.testBit j := rfl
    obtain ⟨⟨hs, hl⟩, htop⟩ := by simpa only [Bool.and_eq_true, bne_iff_ne] using h
    have hf : x.toNat % 2 ^ l < 2 ^ l := Nat.mod_lt _ (by positivity)
    rw [extendFrom, if_pos h, getLsbD_ofInt_sub_two_pow hj hf, Nat.testBit_mod_two_pow, ← hb, htop,
      if_pos (⟨hs, Nat.pos_of_ne_zero hl⟩ : _ ∧ _)]
    by_cases hjl : j < l <;> simp [hjl, Nat.le_of_not_lt]
  · have hu : extendFrom signed l x = extendFrom false l x := by rw [extendFrom, if_neg h]; rfl
    rw [hu, getLsbD_extendFrom_unsigned hj]
    by_cases hjl : j < l
    · simp [hjl]
    · have htop : signed = true ∧ 0 < l → x.getLsbD (l - 1) = false := fun ⟨hs, hl⟩ => by
        simpa [hs, hl.ne'] using h
      simp only [hjl, decide_false, Bool.false_and, if_false]
      split
      case isTrue hc => exact (htop hc).symm
      case isFalse => rfl

/-- A field of `l` bits at `pos` taken and extended in the signedness of TA (R107). -/
theorem getLsbD_extractField (nat : Bool) {l pos j : Nat} (hj : j < 32) (x : Word) :
    (extendFrom (!nat) l (x >>> pos)).getLsbD j =
      if j < l then x.getLsbD (pos + j) else if nat = false ∧ 0 < l then x.getLsbD (pos + l - 1) else false := by
  rw [getLsbD_extendFrom _ hj, BitVec.getLsbD_ushiftRight, BitVec.getLsbD_ushiftRight]
  simp only [Bool.not_eq_true']
  refine if_congr Iff.rfl rfl (ite_congr rfl (fun h => ?_) fun _ => rfl)
  rw [Nat.add_sub_assoc h.2]

theorem getLsbD_extendWord (signed : Bool) (x y : Word) {j : Nat} (hj : j < 32) : (extendWord signed x y).getLsbD j =
    let w := y.toNat % 64
    if w = 0 ∨ j < w then x.getLsbD j else if signed = true then x.getLsbD (min w 32 - 1) else false := by
  unfold extendWord
  extract_lets w
  by_cases h : 1 ≤ w ∧ w ≤ 31
  case pos =>
    rw [if_pos h, getLsbD_extendFrom signed hj, min_eq_left (by omega)]
    simp [show ¬w = 0 by omega, show 0 < w by omega]
  case neg => rw [if_neg h, if_pos (by omega)]

/-- The mask of a field of `l` bits at `pos`. -/
theorem getLsbD_fieldMask {pos l j : Nat} (hj : j < 32) :
    (BitVec.ofNat 32 ((2 ^ l - 1) * 2 ^ pos)).getLsbD j = decide (pos ≤ j ∧ j < pos + l) := by
  rw [BitVec.getLsbD_ofNat, Nat.testBit_mul_two_pow, Nat.testBit_two_pow_sub_one, Bool.eq_iff_iff]
  simp only [hj, decide_true, Bool.true_and, Bool.and_eq_true, decide_eq_true_eq]
  omega

/-- A field of `old` replaced by the low bits of `x` (R107). -/
theorem getLsbD_depositField (old x : Word) {pos l j : Nat} (hj : j < 32) :
    ((old &&& ~~~BitVec.ofNat 32 ((2 ^ l - 1) * 2 ^ pos)) |||
      ((x <<< pos) &&& BitVec.ofNat 32 ((2 ^ l - 1) * 2 ^ pos))).getLsbD j =
      if pos ≤ j ∧ j < pos + l then x.getLsbD (j - pos) else old.getLsbD j := by
  rw [BitVec.getLsbD_or, BitVec.getLsbD_and, BitVec.getLsbD_and, BitVec.getLsbD_not, getLsbD_fieldMask hj]
  split
  case isTrue h =>
    rw [BitVec.getLsbD_shiftLeft, decide_eq_true h, decide_eq_false (by omega : ¬j < pos)]
    simp [hj]
  case isFalse h => simp [h, hj]

/-! ## Votes and masks of lanes (R109, R124) -/

/-- A vote is 1 where its condition holds and else 0 (R124). -/
theorem vote_spec {c : Bool} {P : Prop} (h : c = true ↔ P) :
    let v : Word := if c then 1 else 0
    (v = 0 ∨ v = 1) ∧ (v = 1 ↔ P) := by
  cases c <;> simp [← h]

theorem getLsbD_or_one_shiftLeft (m : Word) {i k : Nat} (hk : k < 32) :
    (m ||| (1#32 <<< i)).getLsbD k = true ↔ m.getLsbD k = true ∨ k = i := by
  rw [show 1#32 <<< i = BitVec.twoPow 32 i from rfl, BitVec.getLsbD_or, BitVec.getLsbD_twoPow, Bool.or_eq_true,
    Bool.and_eq_true, decide_eq_true_eq, decide_eq_true_eq]
  exact or_congr_right ⟨fun h => h.2.symm, fun h => ⟨h ▸ hk, h.symm⟩⟩

theorem getLsbD_foldMask (pr : Nat → Bool) {k : Nat} (hk : k < 32) : ∀ (l : List Nat) (m : Word),
    (l.foldl (fun m i => if pr i then m ||| (1#32 <<< i) else m) m).getLsbD k = true ↔
      m.getLsbD k = true ∨ (k ∈ l ∧ pr k = true)
  | [], _ => by simp
  | i :: l, m => by
    rw [List.foldl_cons, getLsbD_foldMask pr hk l, List.mem_cons]
    split
    case isTrue h =>
      have hi : k = i → pr k = true := fun e => e ▸ h
      rw [getLsbD_or_one_shiftLeft m hk]
      tauto
    case isFalse h =>
      have hi : k = i → ¬pr k = true := fun e => e ▸ h
      tauto

/-- A mask has the bits of the active lanes that the predicate picks. -/
theorem getLsbD_maskOf (s : State) (pr : Nat → Bool) {k : Nat} (hk : k < 32) :
    (s.maskOf pr).getLsbD k = true ↔ k ∈ s.active ∧ pr k = true := by
  rw [State.maskOf, getLsbD_foldMask pr hk]
  simp

end Sys2Proof.Machine
end

section
/-! SUPPORT. The integer instructions, the permute and the votes: the shapes that their claims have in common, and the
obligations about them. -/

namespace Sys2Proof.Machine

/-! ## The meaning of each instruction -/

section
variable {s : State} {d a b : Reg} {p q : Perm}

theorem exec_add : exec (.add d a p b q) s = execAdd d a p b q s := rfl
theorem exec_sub : exec (.sub d a p b q) s = execSub d a p b q s := rfl
theorem exec_addc : exec (.addc d a p b q) s = execAddc d a p b q s := rfl
theorem exec_subb : exec (.subb d a p b q) s = execSubb d a p b q s := rfl
theorem exec_mul : exec (.mul d a p b q) s = execMul d a p b q s := rfl
theorem exec_mulh : exec (.mulh d a p b q) s = execMulh d a p b q s := rfl
theorem exec_mulhn : exec (.mulhn d a p b q) s = execMulhn d a p b q s := rfl
theorem exec_mad : exec (.mad d a p b q) s = execMad d a p b q s := rfl
theorem exec_min : exec (.min d a p b q) s = execMin d a p b q s := rfl
theorem exec_max : exec (.max d a p b q) s = execMax d a p b q s := rfl
theorem exec_abs : exec (.abs d a p) s = execAbs d a p s := rfl
theorem exec_neg : exec (.neg d a p) s = execNeg d a p s := rfl
theorem exec_and : exec (.and d a p b q) s = execAnd d a p b q s := rfl
theorem exec_or : exec (.or d a p b q) s = execOr d a p b q s := rfl
theorem exec_xor : exec (.xor d a p b q) s = execXor d a p b q s := rfl
theorem exec_andn : exec (.andn d a p b q) s = execAndn d a p b q s := rfl
theorem exec_not : exec (.not d a p) s = execNot d a p s := rfl
theorem exec_shl : exec (.shl d a p b q) s = execShl d a p b q s := rfl
theorem exec_shr : exec (.shr d a p b q) s = execShr d a p b q s := rfl
theorem exec_sar : exec (.sar d a p b q) s = execSar d a p b q s := rfl
theorem exec_rot : exec (.rot d a p b q) s = execRot d a p b q s := rfl
theorem exec_dsh : exec (.dsh d a p b q) s = execDsh d a p b q s := rfl
theorem exec_lzc : exec (.lzc d a p) s = execLzc d a p s := rfl
theorem exec_tzc : exec (.tzc d a p) s = execTzc d a p s := rfl
theorem exec_ones : exec (.ones d a p) s = execOnes d a p s := rfl
theorem exec_rvb : exec (.rvb d a p) s = execRvb d a p s := rfl
theorem exec_bxt : exec (.bxt d a p b q) s = execBxt d a p b q s := rfl
theorem exec_bdp : exec (.bdp d a p b q) s = execBdp d a p b q s := rfl
theorem exec_sel : exec (.sel d a p b q) s = execSel d a p b q s := rfl
theorem exec_cmpeq : exec (.cmpeq d a p b q) s = execCmpeq d a p b q s := rfl
theorem exec_cmpne : exec (.cmpne d a p b q) s = execCmpne d a p b q s := rfl
theorem exec_cmplt : exec (.cmplt d a p b q) s = execCmplt d a p b q s := rfl
theorem exec_cmple : exec (.cmple d a p b q) s = execCmple d a p b q s := rfl
theorem exec_mov : exec (.mov d a p) s = execMov d a p s := rfl
theorem exec_add64 : exec (.add64 d a p b q) s = execAdd64 d a p b q s := rfl
theorem exec_lea : exec (.lea d a p b q) s = execLea d a p b q s := rfl
theorem exec_sxt : exec (.sxt d a p b q) s = execSxt d a p b q s := rfl
theorem exec_zxt : exec (.zxt d a p b q) s = execZxt d a p b q s := rfl
theorem exec_lperm : exec (.lperm d a p b q) s = execLperm d a p b q s := rfl
theorem exec_lqAny : exec (.lqAny d a p) s = execLqAny d a p s := rfl
theorem exec_lqAll : exec (.lqAll d a p) s = execLqAll d a p s := rfl
theorem exec_lqSet : exec (.lqSet d a p) s = execLqSet d a p s := rfl

end

/-! ## Shapes of claims about lanes -/

section
variable {i : Instr} {s : State} {d a b : Reg} {p q : Perm}

theorem sets_inLanes {g : State → Nat → Word} {f : Nat → Word}
    (he : exec i s = gate i s fun u => .next (u.mapLanes d (g u)))
    (h : Runs i s) (hg : ∀ k, g (s.ready i) k = f k) : Sets i s (inLanes (s.ready i) d f) :=
  (funext hg : g (s.ready i) = f) ▸ sets_mapLanes h he

theorem sets_inPairs {g : State → Nat → DWord} {f : Nat → DWord}
    (he : exec i s = gate i s fun u => .next (u.mapPairs d (g u))) (h : Runs i s) (hg : ∀ k, g (s.ready i) k = f k) :
    Sets i s (inPairs (s.ready i) d f) :=
  (funext hg : g (s.ready i) = f) ▸ sets_mapPairs h he

theorem laneOp2_of_mapLanes {g : State → Nat → Word} {f : Word → Word → Word}
    (he : exec i s = gate i s fun u => .next (u.mapLanes d (g u)))
    (hg : ∀ u k, u.spl.gm = s.spl.gm → g u k = f (u.operand a.toNat p k) (u.operandB b.toNat q k)) :
    LaneOp2 i s d a p b q f := fun h => sets_inLanes he h fun k => hg _ k (gm_ready s i)

theorem laneOp2_of_wordOp {f : Word → Word → Word} (he : exec i s = gate i s (wordOp d a p b q f)) :
    LaneOp2 i s d a p b q f := laneOp2_of_mapLanes he fun _ _ _ => rfl

theorem laneOp1_of_wordOp1 {f : Word → Word} (he : exec i s = gate i s (wordOp1 d a p f)) : LaneOp1 i s d a p f :=
  fun h => sets_inLanes he h fun _ => rfl

theorem laneRel_of_mapLanes {g : State → Nat → Word} {P : Word → Word → Word → Word → Prop}
    (he : exec i s = gate i s fun u => .next (u.mapLanes d (g u)))
    (hP : ∀ u k, P (u.operand a.toNat p k) (u.operandB b.toNat q k) (u.source d.toNat k) (g u k)) :
    LaneRel i s d a p b q P := fun h => ⟨_, sets_mapLanes h he, fun k _ => hP _ k⟩

/-- Where SAT is clear, a result with no flags is its word alone (R100). -/
theorem wraps_of_mapFlags {g : State → Nat → Word × BitVec 6} {f : State → Nat → Word}
    (he : exec i s = gate i s fun u => .next (u.mapFlags d (g u)))
    (hg : ∀ u k, gmSAT u.spl.gm = false → g u k = (f u k, 0)) : Wraps i s d f := fun h hsat => by
  have hg' : g (s.ready i) = fun k => (f (s.ready i) k, 0) := funext fun k => hg _ k hsat
  refine sets_of_next h he (congrArg Res.next (?_ : _ = (s.ready i).mapLanes d (f (s.ready i))))
    (sameButRegs_setLanes _ _ _) fun _ _ hk => State.reg_mapLanes _ _ _ hk
  rw [hg', mapFlags_zero fun _ => rfl]

/-- Where SAT is set, an instruction that gives `IntRes` of an exact value clamps it (R100). -/
theorem clamps_of_mapFlags {g : State → Nat → Word × BitVec 6} {z : State → Nat → Int}
    (he : exec i s = gate i s fun u => .next (u.mapFlags d (g u)))
    (hg : ∀ u k, gmSAT u.spl.gm = true → g u k = intRes u.spl.gm (z u k)) : Clamps i s d z := fun h hsat => by
  have hr := setsRaising_mapFlags h he
  simp only [hg _ _ hsat, intRes_of_clamps hsat] at hr
  exact hr

theorem wraps_of_intRes {z : State → Nat → Int} {f : State → Nat → Word}
    (he : exec i s = gate i s fun u => .next (u.mapFlags d fun k => intRes u.spl.gm (z u k)))
    (hz : ∀ u k, BitVec.ofInt 32 (z u k) = f u k) : Wraps i s d f :=
  wraps_of_mapFlags he fun u k h => by rw [intRes_of_wraps h, hz]

theorem clamps_of_intRes {z : State → Nat → Int}
    (he : exec i s = gate i s fun u => .next (u.mapFlags d fun k => intRes u.spl.gm (z u k))) : Clamps i s d z :=
  clamps_of_mapFlags he fun _ _ _ => rfl

/-- A comparison's mask in the control lane (R109, R124). -/
theorem maskOp_of_setCtl {pr : State → Nat → Bool} {P : State → Nat → Prop}
    (he : exec i s = gate i s fun u => .next (u.setCtl d (u.maskOf (pr u)))) (hp : ∀ u k, pr u k = true ↔ P u k) :
    MaskOp i s d P := fun h =>
  ⟨_, sets_setCtl h he, fun k hk => by rw [getLsbD_maskOf _ _ hk, hp]⟩

end

/-! ## The obligations -/

/-- Settles O12: the results are `IntRes` of an exact integer, which wraps or clamps by SAT (R100); the carry forms are told
by the sums of the widened operands. -/
theorem integerArithmetic : Obligations.IntegerArithmetic := by
  unfold Obligations.IntegerArithmetic
  intro s d a p b q
  refine ⟨?add, clamps_of_intRes rfl, ?sub, clamps_of_intRes rfl, ?addc, ?subb, ?min, ?max, ?neg, clamps_of_intRes rfl,
    ?abs, ?absSat⟩
  case add => exact wraps_of_intRes exec_add fun u k => by rw [BitVec.ofInt_add, ofInt_int, ofInt_intB]
  case sub => exact wraps_of_intRes exec_sub fun u k => by rw [ofInt_sub, ofInt_int, ofInt_intB]
  case addc => exact fun h => sets_inPairs exec_addc h fun k => addCarry_eq ..
  case subb => exact fun h => sets_inPairs exec_subb h fun k => subBorrow_eq ..
  case min => exact laneOp2_of_mapLanes exec_min fun u k hgm => hgm ▸ ite_intVal_lt ..
  case max => exact laneOp2_of_mapLanes exec_max fun u k hgm => hgm ▸ ite_intVal_lt ..
  case neg => exact wraps_of_intRes exec_neg fun u k => by rw [BitVec.ofInt_neg, ofInt_int]
  case abs =>
    exact wraps_of_mapFlags exec_abs fun u k h =>
      (absRes_eq ..).trans (by rw [intRes_of_wraps h, ofInt_abs_intVal])
  case absSat => exact clamps_of_mapFlags exec_abs fun u k _ => absRes_eq ..

/-- Settles O13: `mul`, `mad` and `shl` are `IntRes` of an exact integer, the high words are those of the 64-bit product, and
the shifts are multiplications and divisions by powers of two. -/
theorem productsAndShifts : Obligations.ProductsAndShifts := by
  unfold Obligations.ProductsAndShifts
  intro s d a p b q
  refine ⟨?mul, clamps_of_intRes rfl, ?mad, clamps_of_intRes rfl, ?mulh, ?mulhn, ?shl, ?shlSat, ?shr, ?sar, ?rot, ?dsh⟩
  case mul => exact wraps_of_intRes exec_mul fun u k => by rw [BitVec.ofInt_mul, ofInt_int, ofInt_intB]
  case mad =>
    exact wraps_of_intRes exec_mad fun u k => by
      rw [BitVec.ofInt_add, BitVec.ofInt_mul, ofInt_int, ofInt_intB, ofInt_intVal]
  case mulh => exact fun h => sets_inLanes exec_mulh h fun k => ofInt_fdiv_mul ..
  case mulhn => exact fun h => sets_inLanes exec_mulhn h fun k => ofInt_fdiv_mul_add _ _ _ 0x80000000
  case shl =>
    exact wraps_of_mapFlags exec_shl fun u k h => by
      rw [h, if_neg Bool.false_ne_true, shiftLeft_eq_ofNat]; rfl
  case shlSat =>
    exact clamps_of_mapFlags exec_shl fun u k h => by
      rw [if_pos h, Nat.cast_pow, Nat.cast_ofNat]; rfl
  case shr => exact laneOp2_of_mapLanes exec_shr fun u k _ => ushiftRight_eq_ofNat ..
  case sar => exact laneOp2_of_mapLanes exec_sar fun u k _ => sshiftRight_eq_ofInt ..
  case rot => exact laneOp2_of_mapLanes exec_rot fun u k _ => rotateLeft_shiftAmount ..
  case dsh => exact laneOp2_of_mapLanes exec_dsh fun u k _ => low32_join64_ushiftRight ..

/-- Settles O14: each is one operation on the words of its operand lanes. -/
theorem logicAndSelection : Obligations.LogicAndSelection := by
  unfold Obligations.LogicAndSelection
  exact fun s d a p b q => ⟨laneOp2_of_wordOp exec_and, laneOp2_of_wordOp exec_or, laneOp2_of_wordOp exec_xor,
    laneOp2_of_wordOp exec_andn, laneOp1_of_wordOp1 exec_not, laneOp1_of_wordOp1 exec_mov,
    fun h => sets_inLanes exec_sel h fun _ => rfl⟩

/-- Settles O15: each count and field is told by the bits of its word, each comparison by the bits of its mask. -/
theorem countsFieldsCompares : Obligations.CountsFieldsCompares := by
  unfold Obligations.CountsFieldsCompares
  refine ⟨fun s d a p b q => ⟨?lzc, ?tzc, ?ones, ?rvb, ?bxt, ?bdp, ?sxt, ?zxt⟩,
    fun s d a p b q => ⟨?cmpeq, ?cmpne, ?cmplt, ?cmple, fun h => sets_inPairs exec_add64 h fun _ => rfl,
      fun h => sets_inPairs exec_lea h fun _ => rfl⟩⟩
  case lzc => exact laneRel_of_mapLanes exec_lzc fun _ _ => leadingZeros_spec _
  case tzc => exact laneRel_of_mapLanes exec_tzc fun _ _ => trailingZeros_spec _
  case ones => exact laneRel_of_mapLanes exec_ones fun _ _ => toNat_ofNat_popCount _
  case rvb => exact laneRel_of_mapLanes exec_rvb fun _ _ j hj => getLsbD_reverse _ hj
  case bxt => exact laneRel_of_mapLanes exec_bxt fun _ _ j hj => getLsbD_extractField _ hj _
  case bdp => exact laneRel_of_mapLanes exec_bdp fun _ _ j hj => getLsbD_depositField _ _ hj
  case sxt => exact laneRel_of_mapLanes exec_sxt fun _ _ j hj => getLsbD_extendWord true _ _ hj
  case zxt => exact laneRel_of_mapLanes exec_zxt fun _ _ j hj => getLsbD_extendWord false _ _ hj
  case cmpeq => exact maskOp_of_setCtl exec_cmpeq fun _ _ => beq_iff_eq
  case cmpne => exact maskOp_of_setCtl exec_cmpne fun _ _ => bne_iff_ne
  case cmplt => exact maskOp_of_setCtl exec_cmplt fun _ _ => decide_eq_true_iff
  case cmple => exact maskOp_of_setCtl exec_cmple fun _ _ => decide_eq_true_iff

/-- Settles O22: `lperm` is a value per active lane, the votes are a word in the control lane. -/
theorem permuteAndVotes : Obligations.PermuteAndVotes := by
  unfold Obligations.PermuteAndVotes
  refine fun s d a p b q => ⟨fun h => sets_mapLanes h exec_lperm,
    fun h => ⟨_, sets_setCtl h exec_lqAny, vote_spec ?any⟩, fun h => ⟨_, sets_setCtl h exec_lqAll, vote_spec ?all⟩,
    maskOp_of_setCtl exec_lqSet fun _ _ => bne_iff_ne⟩
  case any => simp
  case all => simp

end Sys2Proof.Machine
end
